-- ==== Sys2Proof/Word.lean ====
section
/-!
DEFINITION. Word types, the five sequencers, bit fields, and the sparse map that every register file and memory of
the machine is held in: plain data in one canonical form.
-/

namespace Sys2Proof

/-- A byte, an instruction word or 32-bit element, and a scalar register. -/
abbrev Byte := BitVec 8
abbrev Word := BitVec 32
abbrev W64 := BitVec 64

/-- The five sequencers of a core, whose tags are S 0, V 1, M 2, C 3, F 4 (R15). -/
inductive Eng where
  | s | v | m | c | f
  deriving DecidableEq, Repr

/-- The tag of a sequencer (R15). -/
def Eng.tag : Eng → Nat
  | .s => 0 | .v => 1 | .m => 2 | .c => 3 | .f => 4

/-- The sequencer a tag names; a number above 4 names F here and is never used. -/
def Eng.ofTag : Nat → Eng
  | 0 => .s | 1 => .v | 2 => .m | 3 => .c | _ => .f

/-- The sequencers in tag order. -/
def Eng.all : List Eng := [.s, .v, .m, .c, .f]

theorem Eng.ofTag_tag (e : Eng) : Eng.ofTag e.tag = e := by cases e <;> rfl

/-- A map from numbers to data, plain and canonical: keys rise, and a key whose value is the default is not listed. -/
structure Sparse (α : Type) where
  entries : List (Nat × α) := []
  deriving DecidableEq, Repr

/-- The value listed under `k`. -/
def listGet {α : Type} (k : Nat) : List (Nat × α) → Option α
  | [] => none
  | e :: l => if e.1 = k then some e.2 else listGet k l

/-- Lists `v` under `k`, in its place among rising keys. -/
def listPut {α : Type} (k : Nat) (v : α) : List (Nat × α) → List (Nat × α)
  | [] => [(k, v)]
  | e :: l => if e.1 < k then e :: listPut k v l else if e.1 = k then (k, v) :: l else (k, v) :: e :: l

/-- Lists nothing under `k`. -/
def listDrop {α : Type} (k : Nat) : List (Nat × α) → List (Nat × α)
  | [] => []
  | e :: l => if e.1 = k then listDrop k l else e :: listDrop k l

/-- Keys rise strictly, each above `lo` where `lo` is given. -/
def listRising {α : Type} : Option Nat → List (Nat × α) → Bool
  | _, [] => true
  | none, e :: l => listRising (some e.1) l
  | some lo, e :: l => decide (lo < e.1) && listRising (some e.1) l

namespace Sparse

/-- What the map holds at `k`: an unlisted key holds the default `d`. -/
def get {α : Type} (m : Sparse α) (d : α) (k : Nat) : α := (listGet k m.entries).getD d

/-- The value listed at `k`, if one is. -/
def get? {α : Type} (m : Sparse α) (k : Nat) : Option α := listGet k m.entries

/-- The map with `v` at `k`; writing the default removes the entry. -/
def set {α : Type} [DecidableEq α] (m : Sparse α) (d : α) (k : Nat) (v : α) : Sparse α :=
  if v = d then ⟨listDrop k m.entries⟩ else ⟨listPut k v (listDrop k m.entries)⟩

/-- The map with `v` listed at `k`, whatever `v` is. -/
def put {α : Type} (m : Sparse α) (k : Nat) (v : α) : Sparse α := ⟨listPut k v (listDrop k m.entries)⟩

/-- The map with nothing listed at `k`. -/
def drop {α : Type} (m : Sparse α) (k : Nat) : Sparse α := ⟨listDrop k m.entries⟩

/-- The keys listed, rising. -/
def keys {α : Type} (m : Sparse α) : List Nat := m.entries.map (·.1)

/-- The canonical form, against the value an unlisted key holds. -/
def wf {α : Type} [DecidableEq α] (m : Sparse α) (d : α) : Bool :=
  listRising none m.entries && m.entries.all (fun e => decide (e.2 ≠ d))

/-- The map that holds `f k` at each `k` below `n`. -/
def ofFn {α : Type} [DecidableEq α] (n : Nat) (d : α) (f : Nat → α) : Sparse α :=
  ⟨(List.range n).filterMap (fun k => let v := f k; if v = d then none else some (k, v))⟩

end Sparse

/-- Bits [lo+n-1 : lo] of `w`, as a number. -/
def bitsOf (w : Nat) (lo n : Nat) : Nat := (w >>> lo) % 2 ^ n

/-- The field [lo+n-1 : lo] of an instruction word. -/
abbrev fld (w : Word) (lo n : Nat) : BitVec n := w.extractLsb' lo n

end Sys2Proof
end

