-- ==== Sys2Proof/Config.lean ====
section
/-!
DEFINITION. What an implementation fixes, and the free values: what the spec leaves open is an opaque function here,
applied to the step counter of the state, so that nothing can be proved of its value.
-/

namespace Sys2Proof.Config

/-- A free byte: what a read of main memory returns where R156 leaves it open, and other bytes the spec leaves open.
Applied to the state's step counter and the byte's location. -/
opaque freeByte : Nat → Nat → Byte

/-- The order in which the parts of an overflow queue entry stand, whose layout R125 does not give (log 36). -/
opaque ovfRank : Nat → Nat

/-- A free number: other values the spec leaves open, narrowed by the user. Applied to the state's step counter and
a number that says which value of the step it is. -/
opaque freeNat : Nat → Nat → Nat

/-- A free choice: which of the outcomes that the spec allows comes about. -/
opaque freeBool : Nat → Nat → Bool

/-- A free number that depends on the part (R293). -/
opaque partNat : Nat → Nat → Nat

/-- Bytes that the spec leaves to the device: its serial number, identity key and signatures (R354, R355), by their offset in
the attestation report and a digest of what is signed. -/
opaque identity : Nat → List Byte → Byte

/-- The trip count that LOOPK compares with on the service core, which has no loop record (R73, R353). -/
opaque firmwareTrips : Nat

/-- Compute cores and the service core's number (R7, R8). -/
def computeCores : Nat := 128
def serviceCore : Nat := 128

/-- Bytes each of the 16 memory modules holds (R11): the model has all 16 fitted at their largest capacity, so that
both views of R152 exist. DESIGN CHOICE (log 6). -/
def moduleBytes : Nat := 2 ^ 39

end Sys2Proof.Config

namespace Sys2Proof

/-- A line packet from another device, types 0 and 1 (R256, R257): source device, destination device, which may be another one
that it is to be passed on to (R259), receive window, line index, accumulate op, poison, whether it was sealed and whether a
sealed packet authenticated, its byte enables (none for a full line), its 128 bytes, and the receive fibre. -/
structure Arrival where
  src : Nat
  dest : Nat
  win : Nat
  line : Nat
  op : Nat
  poison : Bool
  isSealed : Bool
  authOk : Bool
  enables : Option (List Nat)
  bytes : List Byte
  fibre : Nat
  deriving DecidableEq, Repr

/-- A reduction packet from another device, types 2 and 3 (R257, R278): source and destination device, the value's line, the
node position and level, the low 8 bits of the sequence, and 32 elements. -/
structure RedArrival where
  src : Nat
  dest : Nat
  win : Nat
  line : Nat
  pos : Nat
  level : Nat
  seq8 : Nat
  isSealed : Bool
  authOk : Bool
  ws : List Word
  fibre : Nat
  deriving DecidableEq, Repr

/-- An acknowledgement from another device, type 4 (R256, R258): its destination device, the status of the packet that it
answers, whether it was sealed, whether a sealed packet authenticated, and the receive fibre. -/
structure AckArrival where
  dest : Nat
  status : Nat
  isSealed : Bool
  authOk : Bool
  fibre : Nat
  deriving DecidableEq, Repr

/-- A packet of a reserved type from another device (R256): its type and the receive fibre. -/
structure ReservedArrival where
  type : Nat
  fibre : Nat
  deriving DecidableEq, Repr

/-- A resend (R256, R294): the launched send whose packet's code failed, and whether it failed because the receive fibre at the
other end was paused, which does not count. -/
structure Resend where
  send : Nat
  uncounted : Bool
  deriving DecidableEq, Repr

/-- What patrol scrub found (R151, R164): an error at a location, and whether it could be corrected. -/
structure Scrub where
  loc : Nat
  corrected : Bool
  deriving DecidableEq, Repr

/-- A host write (R351): 64-bit stores to BAR0 that come before it, by offset, and the bytes for the BAR2 window. -/
structure HostWrite where
  stores : List (Nat × W64)
  bytes : List Byte
  deriving DecidableEq, Repr

/-- What the boot ROM finds (R353): the bytes of the firmware image and the offset in service-core scratchpad where it puts
them, the image's text words and version, the ROM's own digest, and whether the image's signature verifies. -/
structure BootImage where
  image : List Byte
  place : Nat
  words : List Word
  version : Word
  romDigest : BitVec 256
  signatureOk : Bool
  deriving DecidableEq, Repr

end Sys2Proof
end

