-- ==== Sys2Proof/Syntax.lean ====
section
/-!
DEFINITION. The instructions: one constructor for each row of the opcode table. The first 243 are words, with one field
per operand field of the table (R14, R23-R27); the rest are the table's event rows, steps that no word stands for, with
what each needs to be told apart.
-/

namespace Sys2Proof

/-- The instructions and events of the part. A field is named by its letter in the opcode table; `e` is the engine whose
tag an engine-common word carries (R25). -/
inductive Instr where
  /-- ADD (R87). -/
  | add (d a b : BitVec 5)
  /-- SUB (R87). -/
  | sub (d a b : BitVec 5)
  /-- MUL (R87). -/
  | mul (d a b : BitVec 5)
  /-- MULH (R87). -/
  | mulh (d a b : BitVec 5)
  /-- MULHN (R87). -/
  | mulhn (d a b : BitVec 5)
  /-- DIV (R87). -/
  | div (d a b : BitVec 5)
  /-- DIVN (R87). -/
  | divn (d a b : BitVec 5)
  /-- REM (R87). -/
  | rem (d a b : BitVec 5)
  /-- REMN (R87). -/
  | remn (d a b : BitVec 5)
  /-- AND (R87). -/
  | and (d a b : BitVec 5)
  /-- OR (R87). -/
  | or (d a b : BitVec 5)
  /-- XOR (R87). -/
  | xor (d a b : BitVec 5)
  /-- ANDN (R87). -/
  | andn (d a b : BitVec 5)
  /-- SHL (R87). -/
  | shl (d a b : BitVec 5)
  /-- SHR (R87). -/
  | shr (d a b : BitVec 5)
  /-- SRA (R87). -/
  | sra (d a b : BitVec 5)
  /-- ROL (R87). -/
  | rol (d a b : BitVec 5)
  /-- MIN (R87). -/
  | min (d a b : BitVec 5)
  /-- MAX (R87). -/
  | max (d a b : BitVec 5)
  /-- MINN (R87). -/
  | minn (d a b : BitVec 5)
  /-- MAXN (R87). -/
  | maxn (d a b : BitVec 5)
  /-- SLT (R87). -/
  | slt (d a b : BitVec 5)
  /-- SLTN (R87). -/
  | sltn (d a b : BitVec 5)
  /-- SEQ (R87). -/
  | seq (d a b : BitVec 5)
  /-- CLZ (R87). -/
  | clz (d a : BitVec 5)
  /-- CTZ (R87). -/
  | ctz (d a : BitVec 5)
  /-- POPC (R87). -/
  | popc (d a : BitVec 5)
  /-- ADDI (R88). -/
  | addi (d a : BitVec 5) (i : BitVec 14)
  /-- ANDI (R88). -/
  | andi (d a : BitVec 5) (i : BitVec 14)
  /-- ORI (R88). -/
  | ori (d a : BitVec 5) (i : BitVec 14)
  /-- XORI (R88). -/
  | xori (d a : BitVec 5) (i : BitVec 14)
  /-- SLTI (R88). -/
  | slti (d a : BitVec 5) (i : BitVec 14)
  /-- SHLI (R89). -/
  | shli (d a : BitVec 5) (n : BitVec 6)
  /-- SHRI (R89). -/
  | shri (d a : BitVec 5) (n : BitVec 6)
  /-- SRAI (R89). -/
  | srai (d a : BitVec 5) (n : BitVec 6)
  /-- SEXT (R89). -/
  | sext (d a : BitVec 5) (w : BitVec 6)
  /-- ZEXT (R89). -/
  | zext (d a : BitVec 5) (w : BitVec 6)
  /-- LUP (R90). -/
  | lup (d : BitVec 5) (i : BitVec 19)
  /-- BEQ (R91). -/
  | beq (a b : BitVec 5) (o : BitVec 14)
  /-- BNE (R91). -/
  | bne (a b : BitVec 5) (o : BitVec 14)
  /-- BLT (R91). -/
  | blt (a b : BitVec 5) (o : BitVec 14)
  /-- BGE (R91). -/
  | bge (a b : BitVec 5) (o : BitVec 14)
  /-- BLTN (R91). -/
  | bltn (a b : BitVec 5) (o : BitVec 14)
  /-- BGEN (R91). -/
  | bgen (a b : BitVec 5) (o : BitVec 14)
  /-- JMP (R92). -/
  | jmp (o : BitVec 24)
  /-- CALL (R92). -/
  | call (o : BitVec 24)
  /-- JR (R92). -/
  | jr (a : BitVec 5)
  /-- CALLR (R92). -/
  | callr (a : BitVec 5)
  /-- LOOP (R93). -/
  | loop (d : BitVec 5) (o : BitVec 14)
  /-- LD (R169). -/
  | ld (s a : BitVec 5) (c : BitVec 4) (z : BitVec 2) (g : BitVec 1) (o : BitVec 7)
  /-- ST (R169). -/
  | st (s a : BitVec 5) (c : BitVec 4) (z : BitVec 2) (o : BitVec 7)
  /-- FADD (R94). -/
  | fadd (d a b : BitVec 5)
  /-- FSUB (R94). -/
  | fsub (d a b : BitVec 5)
  /-- FMUL (R94). -/
  | fmul (d a b : BitVec 5)
  /-- FDIV (R94). -/
  | fdiv (d a b : BitVec 5)
  /-- FMIN (R94). -/
  | fmin (d a b : BitVec 5)
  /-- FMAX (R94). -/
  | fmax (d a b : BitVec 5)
  /-- FLT (R94). -/
  | flt (d a b : BitVec 5)
  /-- FLE (R94). -/
  | fle (d a b : BitVec 5)
  /-- FEQ (R94). -/
  | feq (d a b : BitVec 5)
  /-- FCVTF (R94). -/
  | fcvtf (d a : BitVec 5)
  /-- FCVTI (R94). -/
  | fcvti (d a : BitVec 5)
  /-- FSQRT (R94). -/
  | fsqrt (d a : BitVec 5)
  /-- POST (R84). -/
  | post (e : BitVec 6)
  /-- POSTV (R84). -/
  | postv (s : BitVec 5) (e : BitVec 6)
  /-- AWAIT (R84). -/
  | await (e : BitVec 6)
  /-- AWAITV (R84). -/
  | awaitv (s : BitVec 5) (e : BitVec 6)
  /-- TAWAIT (R84). -/
  | tawait (s : BitVec 5) (e : BitVec 6)
  /-- CTAKE (R141). -/
  | ctake (d a b : BitVec 5)
  /-- CTADD (R141). -/
  | ctadd (a b : BitVec 5)
  /-- CTWAIT (R141). -/
  | ctwait (d a b : BitVec 5)
  /-- CTSET (R141). -/
  | ctset (a b : BitVec 5)
  /-- CTRD (R141). -/
  | ctrd (d a : BitVec 5)
  /-- BARW (R143). -/
  | barw (d a b : BitVec 5)
  /-- CFENCE (R170). -/
  | cfence (m : BitVec 16) (s : BitVec 3) (k : BitVec 2)
  /-- SPAWN (R137). -/
  | spawn (d a b : BitVec 5)
  /-- LREAD (R138). -/
  | lread (d n : BitVec 5)
  /-- IDX (R139). -/
  | idx (d l : BitVec 5)
  /-- SSOPEN (R320). -/
  | ssopen (d a : BitVec 5)
  /-- SSCLOSE (R316). -/
  | ssclose (d a : BitVec 5)
  /-- SSEED (R321). -/
  | sseed (d a b : BitVec 5)
  /-- SFBEG (R322). -/
  | sfbeg (d a b : BitVec 5)
  /-- SFEND (R303). -/
  | sfend (d a b : BitVec 5)
  /-- SJUMP (R306). -/
  | sjump (d a : BitVec 5)
  /-- SPFX (R325). -/
  | spfx (d a : BitVec 5)
  /-- SWAITP (R325). -/
  | swaitp (d a b : BitVec 5)
  /-- SRECYC (R326). -/
  | srecyc (d a : BitVec 5)
  /-- SACCEPT (R312). -/
  | saccept (d a b : BitVec 5)
  /-- SRESID (R313). -/
  | sresid (d a b : BitVec 5)
  /-- SCANCEL (R315). -/
  | scancel (d a : BitVec 5)
  /-- SFLT (R328). -/
  | sflt (d a b : BitVec 5)
  /-- SWAITF (R325). -/
  | swaitf (d a : BitVec 5)
  /-- SRD (R337). -/
  | srd (s : BitVec 5) (r : BitVec 12)
  /-- SWR (R337). -/
  | swr (s : BitVec 5) (r : BitVec 12)
  /-- TLBI_VA (R171). -/
  | tlbiVa (s a : BitVec 5)
  /-- TLBI_CTX (R171). -/
  | tlbiCtx (s : BitVec 5)
  /-- TLBI_ALL (R171). -/
  | tlbiAll
  /-- TRAP (R343). -/
  | trap (a : BitVec 5)
  /-- RTE (R342). -/
  | rte
  /-- WFI (R343). -/
  | wfi
  /-- BRK (R343). -/
  | brk (n : BitVec 5)
  /-- TLBSYNC (R172). -/
  | tlbsync
  /-- AWAITF (R245). -/
  | awaitf (s : BitVec 5) (r : BitVec 8)
  /-- RELS (R245). -/
  | rels (r : BitVec 8)
  /-- RCLAIM (R245). -/
  | rclaim (s : BitVec 5) (r : BitVec 8)
  /-- RSTAT (R246). -/
  | rstat (s : BitVec 5) (r : BitVec 8)
  /-- RINIT (R240). -/
  | rinit (s : BitVec 5) (r : BitVec 8)
  /-- LIMM (R28). -/
  | limm (i : BitVec 24)
  /-- NOPC (R79). -/
  | nopc
  /-- SAFEPT (R75). -/
  | safept (i : BitVec 16)
  /-- LOOPK (R73). -/
  | loopk (o : BitVec 24)
  /-- LEXIT (R74). -/
  | lexit (o : BitVec 24)
  /-- ENDT (R80). -/
  | endt
  /-- RFENCE (R273). -/
  | rfence (s : BitVec 5) (p : BitVec 3) (m : BitVec 16)
  /-- PUSHI (R96). -/
  | pushi (e : Eng) (i : BitVec 24)
  /-- PUSHG (R97). -/
  | pushg (e : Eng) (g : BitVec 4) (i : BitVec 20)
  /-- GADDI (R98). -/
  | gaddi (e : Eng) (d a : BitVec 4) (i : BitVec 12)
  /-- GADD (R98). -/
  | gadd (e : Eng) (d a b : BitVec 4)
  /-- GSHLI (R98). -/
  | gshli (e : Eng) (d a : BitVec 4) (n : BitVec 6)
  /-- GMULI (R98). -/
  | gmuli (e : Eng) (d a : BitVec 4) (i : BitVec 12)
  /-- POPG (R98). -/
  | popg (e : Eng) (d : BitVec 4)
  /-- DUPP (R98). -/
  | dupp (e : Eng)
  /-- DROPP (R98). -/
  | dropp (e : Eng)
  /-- SWAPP (R98). -/
  | swapp (e : Eng)
  /-- GMOVI (R98). -/
  | gmovi (e : Eng) (d : BitVec 4) (i : BitVec 12)
  /-- GLD (R99). -/
  | gld (e : Eng) (g b c : BitVec 4) (o : BitVec 11)
  /-- GST (R99). -/
  | gst (e : Eng) (g b c : BitVec 4) (o : BitVec 11)
  /-- EPOST (R85). -/
  | epost (e : Eng) (v : BitVec 6)
  /-- EPOSTV (R85). -/
  | epostv (e : Eng) (v : BitVec 6) (g : BitVec 4)
  /-- EWAIT (R85). -/
  | ewait (e : Eng) (v : BitVec 6)
  /-- EWAITV (R85). -/
  | ewaitv (e : Eng) (v : BitVec 6) (g : BitVec 4)
  /-- EJMP (R100). -/
  | ejmp (e : Eng) (o : BitVec 18)
  /-- EDBNZ (R100). -/
  | edbnz (e : Eng) (g : BitVec 4) (o : BitVec 18)
  /-- EBZ (R100). -/
  | ebz (e : Eng) (g : BitVec 4) (o : BitVec 18)
  /-- EBNZ (R100). -/
  | ebnz (e : Eng) (g : BitVec 4) (o : BitVec 18)
  /-- AWAITF_ENGINE (R101). -/
  | awaitfEngine (e : Eng) (g : BitVec 4) (r : BitVec 8)
  /-- RELS_ENGINE (R101). -/
  | relsEngine (e : Eng) (r : BitVec 8)
  /-- RCLAIM_ENGINE (R101). -/
  | rclaimEngine (e : Eng) (g : BitVec 4) (r : BitVec 8)
  /-- RSTAT_ENGINE (R101). -/
  | rstatEngine (e : Eng) (g : BitVec 4) (r : BitVec 8)
  /-- ELIMM (R29). -/
  | elimm (e : Eng) (i : BitVec 24)
  /-- VADD (R178). -/
  | vadd (d a b : BitVec 5) (m : BitVec 3)
  /-- VSUB (R178). -/
  | vsub (d a b : BitVec 5) (m : BitVec 3)
  /-- VMUL (R178). -/
  | vmul (d a b : BitVec 5) (m : BitVec 3)
  /-- VDIV (R178). -/
  | vdiv (d a b : BitVec 5) (m : BitVec 3)
  /-- VMIN (R178). -/
  | vmin (d a b : BitVec 5) (m : BitVec 3)
  /-- VMAX (R178). -/
  | vmax (d a b : BitVec 5) (m : BitVec 3)
  /-- VABS (R178). -/
  | vabs (d a : BitVec 5) (m : BitVec 3)
  /-- VNEG (R178). -/
  | vneg (d a : BitVec 5) (m : BitVec 3)
  /-- VSQRT (R179). -/
  | vsqrt (d a : BitVec 5) (m : BitVec 3)
  /-- VRSQRT (R179). -/
  | vrsqrt (d a : BitVec 5) (m : BitVec 3)
  /-- VRCP (R179). -/
  | vrcp (d a : BitVec 5) (m : BitVec 3)
  /-- VEXP2 (R179). -/
  | vexp2 (d a : BitVec 5) (m : BitVec 3)
  /-- VLOG2 (R179). -/
  | vlog2 (d a : BitVec 5) (m : BitVec 3)
  /-- VIADD (R181). -/
  | viadd (d a b : BitVec 5) (m : BitVec 3)
  /-- VISUB (R181). -/
  | visub (d a b : BitVec 5) (m : BitVec 3)
  /-- VIMUL (R181). -/
  | vimul (d a b : BitVec 5) (m : BitVec 3)
  /-- VIMULH (R181). -/
  | vimulh (d a b : BitVec 5) (m : BitVec 3)
  /-- VIMULHN (R181). -/
  | vimulhn (d a b : BitVec 5) (m : BitVec 3)
  /-- VIAND (R181). -/
  | viand (d a b : BitVec 5) (m : BitVec 3)
  /-- VIOR (R181). -/
  | vior (d a b : BitVec 5) (m : BitVec 3)
  /-- VIXOR (R181). -/
  | vixor (d a b : BitVec 5) (m : BitVec 3)
  /-- VISHL (R181). -/
  | vishl (d a b : BitVec 5) (m : BitVec 3)
  /-- VISHR (R181). -/
  | vishr (d a b : BitVec 5) (m : BitVec 3)
  /-- VISRA (R181). -/
  | visra (d a b : BitVec 5) (m : BitVec 3)
  /-- VIMIN (R181). -/
  | vimin (d a b : BitVec 5) (m : BitVec 3)
  /-- VIMAX (R181). -/
  | vimax (d a b : BitVec 5) (m : BitVec 3)
  /-- VIMINN (R181). -/
  | viminn (d a b : BitVec 5) (m : BitVec 3)
  /-- VIMAXN (R181). -/
  | vimaxn (d a b : BitVec 5) (m : BitVec 3)
  /-- VFMA (R180). -/
  | vfma (d a b c : BitVec 5) (m : BitVec 3)
  /-- VFNMA (R180). -/
  | vfnma (d a b c : BitVec 5) (m : BitVec 3)
  /-- VCMP (R182). -/
  | vcmp (d : BitVec 3) (a b : BitVec 5) (m c : BitVec 3) (f n : BitVec 1)
  /-- MAND (R183). -/
  | mand (d a b : BitVec 3)
  /-- MOR (R183). -/
  | mor (d a b : BitVec 3)
  /-- MXOR (R183). -/
  | mxor (d a b : BitVec 3)
  /-- MNOT (R183). -/
  | mnot (d a : BitVec 3)
  /-- MPOP (R183). -/
  | mpop (d : BitVec 5) (a : BitVec 3)
  /-- MSET (R183). -/
  | mset (d : BitVec 3) (a : BitVec 5)
  /-- VSEL (R184). -/
  | vsel (d a b : BitVec 5) (m : BitVec 3)
  /-- VCVT (R185). -/
  | vcvt (d a : BitVec 5) (n : BitVec 1) (m : BitVec 3) (c : BitVec 4) (r : BitVec 2)
  /-- VQMX (R186). -/
  | vqmx (d a : BitVec 5) (f : BitVec 3)
  /-- VDQMX (R186). -/
  | vdqmx (d a : BitVec 5) (f : BitVec 3)
  /-- VRSUM (R187). -/
  | vrsum (d a : BitVec 5) (m : BitVec 3)
  /-- VRMAX (R187). -/
  | vrmax (d a : BitVec 5) (m : BitVec 3)
  /-- VRMIN (R187). -/
  | vrmin (d a : BitVec 5) (m : BitVec 3)
  /-- VARGMAX (R187). -/
  | vargmax (d a : BitVec 5) (m : BitVec 3)
  /-- VARGMIN (R187). -/
  | vargmin (d a : BitVec 5) (m : BitVec 3)
  /-- VRISUM (R187). -/
  | vrisum (d a : BitVec 5) (m : BitVec 3)
  /-- VSCAN (R188). -/
  | vscan (d a : BitVec 5) (m : BitVec 3) (t : BitVec 1)
  /-- VPERM (R190). -/
  | vperm (d a b : BitVec 5) (m : BitVec 3)
  /-- VSLUP (R190). -/
  | vslup (d a b : BitVec 5) (m : BitVec 3)
  /-- VSLDN (R190). -/
  | vsldn (d a b : BitVec 5) (m : BitVec 3)
  /-- VBCAST (R190). -/
  | vbcast (d a b : BitVec 5) (m : BitVec 3)
  /-- VIOTA (R190). -/
  | viota (d : BitVec 5) (m : BitVec 3)
  /-- VSORTD (R189). -/
  | vsortd (d a x : BitVec 5) (m : BitVec 3)
  /-- VRNG (R193). -/
  | vrng (d a b : BitVec 5) (m : BitVec 3) (t : BitVec 1)
  /-- VLD (R195). -/
  | vld (v : BitVec 5) (g : BitVec 4) (m : BitVec 3) (c : BitVec 4) (o : BitVec 8)
  /-- VST (R195). -/
  | vst (v : BitVec 5) (g : BitVec 4) (m : BitVec 3) (c : BitVec 4) (o : BitVec 8)
  /-- VLDS (R196). -/
  | vlds (v : BitVec 5) (g : BitVec 4) (m : BitVec 3) (c s : BitVec 4)
  /-- VSTS (R196). -/
  | vsts (v : BitVec 5) (g : BitVec 4) (m : BitVec 3) (c s : BitVec 4)
  /-- VGTH (R196). -/
  | vgth (v : BitVec 5) (g : BitVec 4) (m : BitVec 3) (c x : BitVec 4)
  /-- VSCT (R196). -/
  | vsct (v : BitVec 5) (g : BitVec 4) (m : BitVec 3) (c x : BitVec 4)
  /-- VSPLF (R191). -/
  | vsplf (d : BitVec 5) (i : BitVec 19)
  /-- VSPLI (R191). -/
  | vspli (d : BitVec 5) (i : BitVec 19)
  /-- VMOV (R192). -/
  | vmov (d a : BitVec 5) (m : BitVec 3)
  /-- VINS (R192). -/
  | vins (d : BitVec 5) (g : BitVec 4) (n : BitVec 8)
  /-- VEXT (R192). -/
  | vext (g : BitVec 4) (a : BitVec 5) (n : BitVec 8)
  /-- MLD (R213). -/
  | mld (d : BitVec 4)
  /-- MLD_ACC (R213). -/
  | mldAcc (d : BitVec 6)
  /-- MST (R213). -/
  | mst (d : BitVec 6)
  /-- MZERO (R214). -/
  | mzero (d : BitVec 6)
  /-- MMOV (R214). -/
  | mmov (d a : BitVec 6)
  /-- MMA (R206). -/
  | mma (d : BitVec 6) (b : BitVec 4) (f g : BitVec 3)
  /-- MOUTL (R216). -/
  | moutl (d : BitVec 6) (b : BitVec 4) (f g : BitVec 3)
  /-- MHAD (R214). -/
  | mhad (d a : BitVec 6)
  /-- MDRAIN (R215). -/
  | mdrain (d : BitVec 6) (z : BitVec 1) (f : BitVec 3)
  /-- MADDT (R214). -/
  | maddt (d a b : BitVec 6)
  /-- MADDT_I (R214). -/
  | maddtI (d a b : BitVec 6)
  /-- MSCL (R214). -/
  | mscl (d a : BitVec 6)
  /-- MSCL_COL (R214). -/
  | msclCol (d a : BitVec 6)
  /-- MSCL_ROW (R214). -/
  | msclRow (d a : BitVec 6)
  /-- MFMT (R211). -/
  | mfmt
  /-- BMV (R223). -/
  | bmv
  /-- MSAVE (R221). -/
  | msave (d : BitVec 4)
  /-- MREST (R221). -/
  | mrest (d : BitVec 4)
  /-- COPY (R247). -/
  | copy
  /-- COPYL (R248). -/
  | copyl
  /-- COPYI (R248). -/
  | copyi
  /-- CFILL (R248). -/
  | cfill
  /-- CCOMB (R252). -/
  | ccomb (g : BitVec 4)
  /-- SCACC (R250). -/
  | scacc
  /-- SFACC (R250). -/
  | sfacc
  /-- FSEND (R283). -/
  | fsend
  /-- FSACC (R285). -/
  | fsacc (g : BitVec 4)
  /-- FQSEND (R284). -/
  | fqsend (g : BitVec 4)
  /-- WMAPW (R286). -/
  | wmapw (g : BitVec 4)
  /-- WMAPR (R287). -/
  | wmapr (g : BitVec 4)
  /-- RXWW (R288). -/
  | rxww (g : BitVec 4)
  /-- FSLOTW (R289). -/
  | fslotw
  /-- FSLOTGO (R290). -/
  | fslotgo
  /-- FSLOTST (R291). -/
  | fslotst (g : BitVec 4)
  /-- FGRP (R291). -/
  | fgrp (g : BitVec 4)
  /-- FPATH (R291). -/
  | fpath (g : BitVec 4)
  /-- FQST (R291). -/
  | fqst (g : BitVec 4)
  /-- RESERVED_TAG (R18): Issue of a tag 5 or 6 word (or foreign tag on the service core) traps 0x0002 on S. -/
  | reservedTag
  /-- ZERO_WORD (R18): Issue of the word 0x0000_0000 traps 0x0003 on S. -/
  | zeroWord
  /-- TRAP_ENTRY (R338): Forms the consistent cut once issued accesses are performed and writes the trap registers. -/
  | trapEntry (core : Nat)
  /-- HANDLER_TIMEOUT (R341): A handler without RTE after 65,536 cycles raises a handler trap 0x0017. -/
  | handlerTimeout (core : Nat)
  /-- WATCHDOG (R336): A wait lasting WDOG cycles traps 0x0017 at its wait word. -/
  | watchdog (core : Nat) (q : Eng)
  /-- SAFE_POINT_DISTANCE (R78): SPDIST exceeding SPDMAX traps 0x000E on the leading sequencer. -/
  | safePointDistance (core : Nat)
  /-- TAWAIT_TIMEOUT (R84): The TAWAIT timeout expires with no post, writing 0. -/
  | tawaitTimeout (core : Nat)
  /-- COMMON_WORD_PASS (R66): A common word is registered as passed once earlier accesses are performed at core scope. -/
  | commonWordPass (core : Nat) (q : Eng)
  /-- SLIP_RELEASE (R67): A sequencer stalled by slip executes its common word once the slip bound holds. -/
  | slipRelease (core : Nat) (q : Eng)
  /-- EVENT_WAIT_WAKE (R86): A stalled await consumes an arriving post once its released accesses are performed. -/
  | eventWaitWake (core : Nat) (q : Eng)
  /-- RING_WAIT_WAKE (R245): A waiting AWAITF or RCLAIM completes when its slot reaches the required state. -/
  | ringWaitWake (core : Nat) (q : Eng)
  /-- COUNTER_WAIT_WAKE (R141): A waiting CTWAIT completes when an update makes its condition true. -/
  | counterWaitWake (core : Nat) (q : Eng)
  /-- BARRIER_RELEASE (R143): The last arrival releases a barrier generation to its participants. -/
  | barrierRelease (unit : Nat)
  /-- SLICE_WAIT_WAKE (R325): A waiting SWAITP or SWAITF completes when its condition becomes true. -/
  | sliceWaitWake (core : Nat) (q : Eng)
  /-- WFI_WAKE (R343): WFI ends when an enabled source or a pending post appears. -/
  | wfiWake
  /-- QUOIN_ENTRY_RETIRE (R106): A region table entry retires once every other sequencer's clock covers it. -/
  | quoinEntryRetire (core : Nat)
  /-- RFENCE_COMPLETE (R273): The reflection fence completes when every member of W is performed or failed, writing its status. -/
  | rfenceComplete (core : Nat)
  /-- TABLE_WALK (R154): A page-table walk completes with a translation or a fault. -/
  | tableWalk (core : Nat) (ctx : Nat) (va : W64)
  /-- REPLAY_RETRY (R161): Firmware's RETRY retranslates and performs a parked write. -/
  | replayRetry (core : Nat) (entry : Nat)
  /-- REPLAY_FAIL (R161): Firmware's FAIL removes a parked entry for fault delivery. -/
  | replayFail (core : Nat) (entry : Nat)
  /-- PATROL_SCRUB (R164): A patrol scrub finds an uncorrectable error and sets a line's poison bit. -/
  | patrolScrub (found : Scrub)
  /-- COPY_LINE_WRITE (R237): The copy engine writes one destination line and counts it toward its slot. -/
  | copyLineWrite (core : Nat) (op : Nat)
  /-- BMV_ROW_WRITE (R226): A bank unit writes a row result into the slot. -/
  | bmvRowWrite (core : Nat) (op : Nat) (row : Nat)
  /-- CCOMB_REPORT (R252): A combine reports its part norm and DIFF to the coordinator after its writes are performed. -/
  | ccombReport (core : Nat) (op : Nat)
  /-- ABANDONMENT (R309): A bound instance is cut, its background writes performed, and resumed at the abandon word. -/
  | abandonment (core : Nat)
  /-- LINE_ARRIVAL (R270): A full or partial line packet arrives and is written or refused. -/
  | lineArrival (pk : Arrival)
  /-- REDUCTION_PARTIAL_ARRIVAL (R278): A reduction partial arrives, is held and combined at its combiner. -/
  | reductionPartialArrival (pk : RedArrival)
  /-- REDUCTION_RESULT_ARRIVAL (R278): A reduction result arrives into the result window or is refused. -/
  | reductionResultArrival (pk : RedArrival)
  /-- ACKNOWLEDGEMENT_ARRIVAL (R256): An acknowledgement packet returns a send's status to the sender. -/
  | acknowledgementArrival (send : Nat) (ack : AckArrival)
  /-- RESERVED_PACKET (R256): A reserved-type packet is discarded and counted in NDROP. -/
  | reservedPacket (pk : ReservedArrival)
  /-- PACKET_CRC_FAILURE (R256): A packet whose CRC fails is discarded at the receiver. -/
  | packetCrcFailure (fibre : Nat)
  /-- PACKET_RESEND (R256): The sender resends a packet and later ones; after 15 failures the path fails. -/
  | packetResend (again : Resend)
  /-- PACKET_LAUNCH (R276): A waiting send or queue part leaves on its path within slot budget and guard limits. -/
  | packetLaunch (send : Nat)
  /-- ROTATION_START (R290): At start time T the device enters slot mode and recomputes the group. -/
  | rotationStart
  /-- SLOT_START (R262): A slot's duration ends and the next entry's slot begins. -/
  | slotStart
  /-- GUARD_INTERVAL_START (R262): The last guard nanoseconds of a slot begin, and launching stops. -/
  | guardIntervalStart
  /-- QUIESCE_SET (R260): Setting FAB_CTL.QUIESCE stops new packet launches. -/
  | quiesceSet
  /-- QUIESCE_CLEAR (R260): Clearing QUIESCE starts link retraining. -/
  | quiesceClear
  /-- LINK_RETRAIN_COMPLETE (R260): Links retrain and the group is recomputed with a new epoch. -/
  | linkRetrainComplete (circuits : List (Nat × List Nat × List Nat))
  /-- HEAT_WRITE (R293): A heater code store; codes 0 and 4,095 set SAT and the optics interrupt. -/
  | heatWrite (fibre : Nat) (ring : Nat) (code : BitVec 12)
  /-- ASSIGN_WRITE (R294): A wavelength assignment store that may pause or unpause the fibre. -/
  | assignWrite (fibre : Nat) (ring : Nat) (lambda : BitVec 4) (en : Bool)
  /-- FIBRE_RESUME (R294): A paused fibre resumes 1 µs after its assignment is whole again. -/
  | fibreResume (fibre : Nat)
  /-- FIBRE_PAUSE_TIMEOUT (R294): A pause longer than 10 ms fails the fibre's paths and starts a retrain. -/
  | fibrePauseTimeout (fibre : Nat)
  /-- MON_UPDATE (R292): The monitor photodiode reading is updated every 1 µs. -/
  | monUpdate (fibre : Nat) (ring : Nat) (temp : BitVec 16)
  /-- OPT_TEMP_UPDATE (R281): The optical engine temperature is updated every 10 µs. -/
  | optTempUpdate (temp : BitVec 16)
  /-- KEY_SLOT_VALID (R157): Setting or clearing a key slot's VALID bit, clearing the GCM counter for link slots. -/
  | keySlotValid (slot : Nat) (valid : Bool)
  /-- CONTEXT_VALID_SET (R110): Setting a context descriptor's valid bit after checking its limits. -/
  | contextValidSet (ctx : Nat)
  /-- CONTEXT_VALID_CLEAR (R110): Clearing the valid bit, cancelling any remaining work of the context. -/
  | contextValidClear (ctx : Nat)
  /-- NOTIFY (R350): A host notify sets a queue tail and starts consumption of pending entries. -/
  | notify (ctx : Nat) (queue : Nat) (tail : Nat) (relaxed : Bool) (entries : List (Nat × Byte))
  /-- SEQUENCE_RECHECK (R350): The head entry's sequence number is reread every 100 ns. -/
  | sequenceRecheck (ctx : Nat) (queue : Nat)
  /-- QUEUE_HALT (R350): A sequence mismatch lasting 1 ms halts the queue and raises vector 513. -/
  | queueHalt (ctx : Nat) (queue : Nat)
  /-- QSTAT_HALTED_CLEAR (R350): Writing 1 to QSTAT.HALTED resumes checking at the head. -/
  | qstatHaltedClear (ctx : Nat) (queue : Nat)
  /-- LAUNCH_ACCEPT (R122): The master accepts a candidate head launch by class and deficit round-robin. -/
  | launchAccept
  /-- INSTANCE_PLACE (R118): A distributor places an instance on the lowest free core with room. -/
  | instancePlace (die : Nat)
  /-- TEXT_STAGING (R16): The text image is staged into instruction memory, or the instance is discarded on a fault. -/
  | textStaging (core : Nat)
  /-- INSTANCE_END (R80): The instance ends once all sequencers ended and its accesses are performed. -/
  | instanceEnd (core : Nat)
  /-- LAUNCH_COMPLETE (R115): Writes the completion record, adds to the counter and raises MSI-X. -/
  | launchComplete (launch : Nat)
  /-- DRAIN_BUDGET_EXPIRY (R129): A drain not ended within its budget becomes a checkpoint. -/
  | drainBudgetExpiry (core : Nat)
  /-- CHECKPOINT_COMPLETE (R130): All sequencers stop at the common cut and the save record is written. -/
  | checkpointComplete (core : Nat)
  /-- FORCED_CUT (R131): A checkpoint incomplete after SPDMAX cycles becomes a forced cut saving all registers. -/
  | forcedCut (core : Nat)
  /-- INSTANCE_RESUME (R346): Restores a parked or spilled instance's state and restarts its sequencers. -/
  | instanceResume (core : Nat)
  /-- DIE_FENCE (R121): A fatal die error fences a die and reissues or fails its work. -/
  | dieFence (die : Nat)
  /-- MASTER_ELECTION (R120): The remaining distributors take the lowest live die as master. -/
  | masterElection
  /-- OVERFLOW_MOVE (R125): The master moves overflow queue entries into a pool with room. -/
  | overflowMove (die : Nat) (ctx : Nat)
  /-- CORE_CMD_RESUME (R340): Firmware command 1 resumes an escalated instance. -/
  | coreCmdResume (core : Nat)
  /-- CORE_CMD_TERMINATE (R340): Firmware command 2 discards an escalated instance; its launch completes with status 4. -/
  | coreCmdTerminate (core : Nat)
  /-- TILE_SAVE_GO (R222): Firmware starts saving a tile to the transfer area. -/
  | tileSaveGo (core : Nat)
  /-- TILE_RESTORE_GO (R222): Firmware starts restoring a tile from the transfer area. -/
  | tileRestoreGo (core : Nat)
  /-- TILE_TRANSFER_COMPLETE (R222): A tile save or restore completes and BUSY clears. -/
  | tileTransferComplete (core : Nat)
  /-- LTS_COMMIT (R357): A lifetime store commit request, refused if too soon or too many. -/
  | ltsCommit
  /-- LTS_COMMIT_COMPLETE (R357): The commit finishes and BUSY clears. -/
  | ltsCommitComplete
  /-- MEASUREMENT_EXTEND (R354): Extends a measurement register with SHA-256. -/
  | measurementExtend (reg : Nat) (d : BitVec 256) (rom : Bool)
  /-- ATTESTATION_REQUEST (R355): Host mailbox command 1 requests a signed attestation report. -/
  | attestationRequest (cmd : Nat) (mailNonce : Option (List Byte))
  /-- POWER_GOOD (R353): Power-good starts reset exit and the boot sequence. -/
  | powerGood (image : BootImage)
  /-- POWER_SAMPLE (R360): Package power and temperature are measured every 10 µs against the limit. -/
  | powerSample (meanWatts : Nat) (temps : List Nat)
  /-- THROTTLE_ADJUST (R360): The MMA and BMV issue allowance moves by one per millisecond. -/
  | throttleAdjust
  /-- HOST_BAR2_WRITE (R351): A host write through a BAR2 window reaches encrypted memory. -/
  | hostBar2Write (window : Nat) (off : Nat) (w : HostWrite)
  /-- HOST_BAR2_READ (R351): A host read through a BAR2 window returns memory or all ones. -/
  | hostBar2Read (window : Nat) (off : Nat) (len : Nat)
  /-- SLIPW_WRITE (R69): A write of SLIPW, storing 1 for 0, changes the slip bound. -/
  | slipwWrite (core : Nat) (v : W64)
  /-- DETMODE_WRITE (R108): Setting DET starts checking with an empty table; clearing it empties the table. -/
  | detmodeWrite (core : Nat) (v : W64)
  /-- REGISTER_WRITE (R332): A write to any register without its own row, under its access and write rules. -/
  | registerWrite (core : Nat) (r : BitVec 12) (v : W64)
  /-- ACCESS_PERFORMED (R165): An issued load, posted store or posted counter or slice update is performed at a scope, returning its value or becoming visible to the observers of that scope. -/
  | accessPerformed (id : Nat)
  /-- TLB_INVALIDATION_COMPLETE (R172): The invalidation that a TLBI sent to every TLB and the shared cache finishes, together with the walks and translated accesses it waits for, which lets TLBSYNC complete. -/
  | tlbInvalidationComplete (id : Nat)
  /-- FOREIGN_WORDS_PASSED (R17): In a cycle that issues nothing, a sequencer passes eight words that are not its own and advances pc by 8, or traps 0x0006 on examining an address beyond 65,535. -/
  | foreignWordsPassed
  deriving DecidableEq, Repr

end Sys2Proof
end

