-- ==== Sys2Proof/WellFormed.lean ====
section
/-!
DEFINITION. Which instructions are well formed: the field values that the entries define (check 3 of R18), and for
events that what they name exists.
-/

namespace Sys2Proof

/-- The columns of K per MMA for a pair of formats, 0 where the pair is illegal (R205). -/
def pairK (a b : Nat) : Nat :=
  if a ≤ 2 ∧ b ≤ 2 then
    (if a = 2 ∧ b = 2 then 128 else if a = 2 ∨ b = 2 then 64 else 32)
  else if (a = 3 ∨ a = 4) ∧ (b = 3 ∨ b = 4) then 32
  else if a = 5 ∧ b = 5 then 16
  else 0

/-- A pair of format fields an MMA or MOUTL may carry: code 7 is illegal (R27), two direct codes form a pair (R205), and
code 6 waits for the table. -/
def fmtPairOk (a b : Nat) : Bool :=
  decide (a ≤ 6) && decide (b ≤ 6) && (decide (a = 6) || decide (b = 6) || decide (pairK a b ≠ 0))

/-- Rounding and NaN-on-overflow bits that R185 allows each conversion code. -/
def cvtOk (code r n : Nat) : Bool :=
  decide (code ≤ 10) && (decide (n = 0) || decide (code = 6) || decide (code = 7)) &&
  (decide (r = 0) || !(decide (code = 5) || decide (code = 8) || decide (code = 9)))

/-- A core of the device (R8). -/
def coreOk (n : Nat) : Bool := decide (n ≤ 128)

/-- A compute core of the device (R8). -/
def computeOk (n : Nat) : Bool := decide (n < 128)

/-- A packet's data are 128 bytes, and its enables, if any, name bytes of the line (R256). -/
def Arrival.wf (p : Arrival) : Bool :=
  decide (p.src < 4096) && decide (p.dest < 4096) && decide (p.win < 1024) && decide (p.bytes.length = 128) && decide (64 ≤ p.fibre) &&
  decide (p.fibre < 128) && decide (p.op < 5) &&
  (match p.enables with
   | none => true
   | some l => l.all (fun i => decide (i < 128)))

/-- A reduction packet names a node of the tree and carries 32 elements (R61, R257). -/
def RedArrival.wf (p : RedArrival) : Bool :=
  decide (p.src < 4096) && decide (p.dest < 4096) && decide (p.win < 1024) && decide (p.line < 256) && decide (p.level ≤ 12) &&
  decide (p.pos < 4096) && decide (p.seq8 < 256) && decide (p.ws.length = 32) && decide (64 ≤ p.fibre) &&
  decide (p.fibre < 128)

/-- Well-formed instructions and events. DESIGN CHOICE (log 27). -/
def Instr.wf : Instr → Bool
  | .ld _ _ _ z g _ => !(decide (z = 3#2) && decide (g = 1#1))
  | .cfence _ s k => decide (s.toNat ≤ 4) && decide (k.toNat ≤ 2)
  | .lread _ n => decide (n.toNat ≤ 12)
  | .idx _ l => decide (l.toNat ≤ 3)
  | .loop d _ => decide (d ≠ 0#5)
  | .rfence _ p _ => decide (p = 3#3) || decide (p = 4#3)
  | .pushi e _ | .pushg e _ _ | .gaddi e _ _ _ | .gadd e _ _ _ | .gshli e _ _ _ | .gmuli e _ _ _ | .popg e _
  | .dupp e | .dropp e | .swapp e | .gmovi e _ _ | .gld e _ _ _ _ | .gst e _ _ _ _ | .epost e _ | .epostv e _ _
  | .ewait e _ | .ewaitv e _ _ | .ejmp e _ | .edbnz e _ _ | .ebz e _ _ | .ebnz e _ _ | .awaitfEngine e _ _
  | .relsEngine e _ | .rclaimEngine e _ _ | .rstatEngine e _ _ | .elimm e _ => decide (e ≠ .s)
  | .vcmp _ _ _ _ c f n => !(decide (f = 1#1) && decide (n = 1#1)) && (decide (f = 1#1) || decide (c.toNat ≤ 5))
  | .vcvt _ _ n _ c r => cvtOk c.toNat r.toNat n.toNat
  | .vqmx _ _ f | .vdqmx _ _ f => decide (f.toNat ≤ 4)
  | .vsortd d _ x _ => decide (d ≠ x)
  | .mma _ _ f g | .moutl _ _ f g => fmtPairOk f.toNat g.toNat
  | .trapEntry core | .handlerTimeout core | .safePointDistance core | .tawaitTimeout core | .quoinEntryRetire core
  | .rfenceComplete core | .ccombReport core _ | .replayRetry core _ | .replayFail core _ | .copyLineWrite core _
  | .commonWordPass core _ | .slipRelease core _ | .eventWaitWake core _ | .ringWaitWake core _
  | .counterWaitWake core _ | .sliceWaitWake core _ | .watchdog core _ | .slipwWrite core _ | .detmodeWrite core _
  | .registerWrite core _ _ | .tableWalk core _ _ => coreOk core
  | .bmvRowWrite core _ _ | .abandonment core | .textStaging core | .instanceEnd core | .drainBudgetExpiry core
  | .checkpointComplete core | .forcedCut core | .instanceResume core | .coreCmdResume core | .coreCmdTerminate core
  | .tileSaveGo core | .tileRestoreGo core | .tileTransferComplete core => computeOk core
  | .barrierRelease u => decide (u < 64)
  | .lineArrival p => p.wf
  | .reductionPartialArrival p | .reductionResultArrival p => p.wf
  | .acknowledgementArrival _ k => decide (k.dest < 4096) && decide (k.status ≤ 4) && decide (64 ≤ k.fibre) && decide (k.fibre < 128)
  | .reservedPacket p => decide (5 ≤ p.type) && decide (p.type ≤ 15) && decide (64 ≤ p.fibre) && decide (p.fibre < 128)
  | .packetCrcFailure f => decide (64 ≤ f) && decide (f < 128)
  | .heatWrite f r _ | .assignWrite f r _ _ | .monUpdate f r _ => decide (f < 128) && decide (r < 17)
  | .fibreResume f | .fibrePauseTimeout f => decide (f < 128)
  | .keySlotValid k _ => decide (k < 512)
  | .contextValidSet x | .contextValidClear x => decide (x < 64)
  | .notify x q t _ es => decide (x < 64) && decide (q < 8) && decide (t < 64) && es.all (fun e => decide (e.1 < 4096))
  | .sequenceRecheck x q | .queueHalt x q | .qstatHaltedClear x q => decide (x < 64) && decide (q < 8)
  | .instancePlace d | .dieFence d => decide (d < 4)
  | .overflowMove d x => decide (d < 4) && decide (x < 64)
  | .measurementExtend r _ _ => decide (r < 8)
  | .attestationRequest c ns => decide (c < 2 ^ 32) && ns.all (fun l => decide (l.length = 32))
  | .powerGood im => decide (im.words.length ≤ 65536) && decide (im.place + im.image.length ≤ 0x100000)
  | .powerSample _ ts => decide (ts.length = 5)
  | .hostBar2Write w o x => x.stores.all (fun e => decide (e.1 < 2 ^ 22) && decide (e.1 % 8 = 0)) && decide (w < 16) &&
    decide (o + x.bytes.length ≤ 2 ^ 32)
  | .hostBar2Read w o n => decide (w < 16) && decide (o + n ≤ 2 ^ 32)
  | _ => true

end Sys2Proof
end

