-- ==== Sys2Proof/Decode.lean ====
section
/-!
DEFINITION. The decoder, total on words and rejecting by name, and the encoder: both written from the forms R23-R27 and
the opcode map R30-R34.
-/

namespace Sys2Proof

/-- Why a word is no instruction (R18). -/
inductive DecodeErr where
  /-- tag 5 or 6: trap 0x0002 -/
  | reservedTag
  /-- the word 0x0000_0000: trap 0x0003 -/
  | zeroWord
  /-- no form, a nonzero must-be-zero field, or an undefined field value: trap 0x0001 -/
  | illegal
  deriving DecidableEq, Repr

/-- The instruction where the condition holds. -/
def onlyIf (c : Bool) (i : Instr) : Option Instr := if c then some i else none

/-- Scalar majors (R30). -/
def decodeS (w : Word) : Option Instr :=
  match (fld w 24 5).toNat with
  | 0 =>
    match (fld w 0 9).toNat with
    | 0 => some (.add (fld w 19 5) (fld w 14 5) (fld w 9 5))
    | 1 => some (.sub (fld w 19 5) (fld w 14 5) (fld w 9 5))
    | 2 => some (.mul (fld w 19 5) (fld w 14 5) (fld w 9 5))
    | 3 => some (.mulh (fld w 19 5) (fld w 14 5) (fld w 9 5))
    | 4 => some (.mulhn (fld w 19 5) (fld w 14 5) (fld w 9 5))
    | 5 => some (.div (fld w 19 5) (fld w 14 5) (fld w 9 5))
    | 6 => some (.divn (fld w 19 5) (fld w 14 5) (fld w 9 5))
    | 7 => some (.rem (fld w 19 5) (fld w 14 5) (fld w 9 5))
    | 8 => some (.remn (fld w 19 5) (fld w 14 5) (fld w 9 5))
    | 9 => some (.and (fld w 19 5) (fld w 14 5) (fld w 9 5))
    | 10 => some (.or (fld w 19 5) (fld w 14 5) (fld w 9 5))
    | 11 => some (.xor (fld w 19 5) (fld w 14 5) (fld w 9 5))
    | 12 => some (.andn (fld w 19 5) (fld w 14 5) (fld w 9 5))
    | 13 => some (.shl (fld w 19 5) (fld w 14 5) (fld w 9 5))
    | 14 => some (.shr (fld w 19 5) (fld w 14 5) (fld w 9 5))
    | 15 => some (.sra (fld w 19 5) (fld w 14 5) (fld w 9 5))
    | 16 => some (.rol (fld w 19 5) (fld w 14 5) (fld w 9 5))
    | 17 => some (.min (fld w 19 5) (fld w 14 5) (fld w 9 5))
    | 18 => some (.max (fld w 19 5) (fld w 14 5) (fld w 9 5))
    | 19 => some (.minn (fld w 19 5) (fld w 14 5) (fld w 9 5))
    | 20 => some (.maxn (fld w 19 5) (fld w 14 5) (fld w 9 5))
    | 21 => some (.slt (fld w 19 5) (fld w 14 5) (fld w 9 5))
    | 22 => some (.sltn (fld w 19 5) (fld w 14 5) (fld w 9 5))
    | 23 => some (.seq (fld w 19 5) (fld w 14 5) (fld w 9 5))
    | 24 => onlyIf (fld w 9 5 == 0) (.clz (fld w 19 5) (fld w 14 5))
    | 25 => onlyIf (fld w 9 5 == 0) (.ctz (fld w 19 5) (fld w 14 5))
    | 26 => onlyIf (fld w 9 5 == 0) (.popc (fld w 19 5) (fld w 14 5))
    | _ => none
  | 1 => some (.addi (fld w 19 5) (fld w 14 5) (fld w 0 14))
  | 2 => some (.andi (fld w 19 5) (fld w 14 5) (fld w 0 14))
  | 3 => some (.ori (fld w 19 5) (fld w 14 5) (fld w 0 14))
  | 4 => some (.xori (fld w 19 5) (fld w 14 5) (fld w 0 14))
  | 5 => some (.slti (fld w 19 5) (fld w 14 5) (fld w 0 14))
  | 6 =>
    match (fld w 12 2).toNat with
    | 0 => onlyIf (fld w 6 6 == 0) (.shli (fld w 19 5) (fld w 14 5) (fld w 0 6))
    | 1 => onlyIf (fld w 6 6 == 0) (.shri (fld w 19 5) (fld w 14 5) (fld w 0 6))
    | 2 => onlyIf (fld w 6 6 == 0) (.srai (fld w 19 5) (fld w 14 5) (fld w 0 6))
    | _ =>
      if fld w 6 6 == 1 then some (.sext (fld w 19 5) (fld w 14 5) (fld w 0 6))
      else if fld w 6 6 == 0 then some (.zext (fld w 19 5) (fld w 14 5) (fld w 0 6))
      else none
  | 7 => some (.lup (fld w 19 5) (fld w 0 19))
  | 8 => some (.beq (fld w 19 5) (fld w 14 5) (fld w 0 14))
  | 9 => some (.bne (fld w 19 5) (fld w 14 5) (fld w 0 14))
  | 10 => some (.blt (fld w 19 5) (fld w 14 5) (fld w 0 14))
  | 11 => some (.bge (fld w 19 5) (fld w 14 5) (fld w 0 14))
  | 12 => some (.bltn (fld w 19 5) (fld w 14 5) (fld w 0 14))
  | 13 => some (.bgen (fld w 19 5) (fld w 14 5) (fld w 0 14))
  | 14 => some (.jmp (fld w 0 24))
  | 15 => some (.call (fld w 0 24))
  | 16 =>
    match (fld w 0 9).toNat with
    | 0 => onlyIf (fld w 9 5 == 0 && fld w 19 5 == 0) (.jr (fld w 14 5))
    | 1 => onlyIf (fld w 9 5 == 0 && fld w 19 5 == 0) (.callr (fld w 14 5))
    | _ => none
  | 17 => onlyIf (fld w 14 5 == 0) (.loop (fld w 19 5) (fld w 0 14))
  | 18 => some (.ld (fld w 19 5) (fld w 14 5) (fld w 10 4) (fld w 8 2) (fld w 7 1) (fld w 0 7))
  | 19 => onlyIf (fld w 7 1 == 0) (.st (fld w 19 5) (fld w 14 5) (fld w 10 4) (fld w 8 2) (fld w 0 7))
  | 20 =>
    match (fld w 0 9).toNat with
    | 0 => some (.fadd (fld w 19 5) (fld w 14 5) (fld w 9 5))
    | 1 => some (.fsub (fld w 19 5) (fld w 14 5) (fld w 9 5))
    | 2 => some (.fmul (fld w 19 5) (fld w 14 5) (fld w 9 5))
    | 3 => some (.fdiv (fld w 19 5) (fld w 14 5) (fld w 9 5))
    | 4 => some (.fmin (fld w 19 5) (fld w 14 5) (fld w 9 5))
    | 5 => some (.fmax (fld w 19 5) (fld w 14 5) (fld w 9 5))
    | 6 => some (.flt (fld w 19 5) (fld w 14 5) (fld w 9 5))
    | 7 => some (.fle (fld w 19 5) (fld w 14 5) (fld w 9 5))
    | 8 => some (.feq (fld w 19 5) (fld w 14 5) (fld w 9 5))
    | 9 => onlyIf (fld w 9 5 == 0) (.fcvtf (fld w 19 5) (fld w 14 5))
    | 10 => onlyIf (fld w 9 5 == 0) (.fcvti (fld w 19 5) (fld w 14 5))
    | 11 => onlyIf (fld w 9 5 == 0) (.fsqrt (fld w 19 5) (fld w 14 5))
    | _ => none
  | 21 =>
    match (fld w 10 3).toNat with
    | 0 => onlyIf (fld w 0 10 == 0 && fld w 19 5 == 0) (.post (fld w 13 6))
    | 1 => onlyIf (fld w 0 10 == 0) (.postv (fld w 19 5) (fld w 13 6))
    | 2 => onlyIf (fld w 0 10 == 0 && fld w 19 5 == 0) (.await (fld w 13 6))
    | 3 => onlyIf (fld w 0 10 == 0) (.awaitv (fld w 19 5) (fld w 13 6))
    | 4 => onlyIf (fld w 0 10 == 0) (.tawait (fld w 19 5) (fld w 13 6))
    | _ => none
  | 22 =>
    match (fld w 0 9).toNat with
    | 0 => some (.ctake (fld w 19 5) (fld w 14 5) (fld w 9 5))
    | 1 => onlyIf (fld w 19 5 == 0) (.ctadd (fld w 14 5) (fld w 9 5))
    | 2 => some (.ctwait (fld w 19 5) (fld w 14 5) (fld w 9 5))
    | 3 => onlyIf (fld w 19 5 == 0) (.ctset (fld w 14 5) (fld w 9 5))
    | 4 => onlyIf (fld w 9 5 == 0) (.ctrd (fld w 19 5) (fld w 14 5))
    | 5 => some (.barw (fld w 19 5) (fld w 14 5) (fld w 9 5))
    | _ => none
  | 23 => onlyIf (fld w 0 3 == 0) (.cfence (fld w 8 16) (fld w 5 3) (fld w 3 2))
  | 24 =>
    match (fld w 0 9).toNat with
    | 0 => some (.spawn (fld w 19 5) (fld w 14 5) (fld w 9 5))
    | 1 => onlyIf (fld w 14 5 == 0) (.lread (fld w 19 5) (fld w 9 5))
    | 2 => onlyIf (fld w 14 5 == 0) (.idx (fld w 19 5) (fld w 9 5))
    | _ => none
  | 25 =>
    match (fld w 0 9).toNat with
    | 0 => onlyIf (fld w 9 5 == 0) (.ssopen (fld w 19 5) (fld w 14 5))
    | 1 => onlyIf (fld w 9 5 == 0) (.ssclose (fld w 19 5) (fld w 14 5))
    | 2 => some (.sseed (fld w 19 5) (fld w 14 5) (fld w 9 5))
    | 3 => some (.sfbeg (fld w 19 5) (fld w 14 5) (fld w 9 5))
    | 4 => some (.sfend (fld w 19 5) (fld w 14 5) (fld w 9 5))
    | 5 => onlyIf (fld w 9 5 == 0) (.sjump (fld w 19 5) (fld w 14 5))
    | 6 => onlyIf (fld w 9 5 == 0) (.spfx (fld w 19 5) (fld w 14 5))
    | 7 => some (.swaitp (fld w 19 5) (fld w 14 5) (fld w 9 5))
    | 8 => onlyIf (fld w 9 5 == 0) (.srecyc (fld w 19 5) (fld w 14 5))
    | 9 => some (.saccept (fld w 19 5) (fld w 14 5) (fld w 9 5))
    | 10 => some (.sresid (fld w 19 5) (fld w 14 5) (fld w 9 5))
    | 11 => onlyIf (fld w 9 5 == 0) (.scancel (fld w 19 5) (fld w 14 5))
    | 12 => some (.sflt (fld w 19 5) (fld w 14 5) (fld w 9 5))
    | 13 => onlyIf (fld w 9 5 == 0) (.swaitf (fld w 19 5) (fld w 14 5))
    | _ => none
  | 26 =>
    match (fld w 12 2).toNat with
    | 0 => onlyIf (fld w 14 5 == 0) (.srd (fld w 19 5) (fld w 0 12))
    | 1 => onlyIf (fld w 14 5 == 0) (.swr (fld w 19 5) (fld w 0 12))
    | 2 =>
      if fld w 0 12 == 0 then some (.tlbiVa (fld w 19 5) (fld w 14 5))
      else if fld w 0 12 == 1 && fld w 14 5 == 0 then some (.tlbiCtx (fld w 19 5))
      else if fld w 0 12 == 2 && fld w 14 10 == 0 then some .tlbiAll
      else none
    | _ =>
      if fld w 0 12 == 0 && fld w 19 5 == 0 then some (.trap (fld w 14 5))
      else if fld w 0 12 == 1 && fld w 14 10 == 0 then some .rte
      else if fld w 0 12 == 2 && fld w 14 10 == 0 then some .wfi
      else if fld w 0 12 == 3 && fld w 14 5 == 0 then some (.brk (fld w 19 5))
      else if fld w 0 12 == 4 && fld w 14 10 == 0 then some .tlbsync
      else none
  | 27 =>
    match (fld w 8 3).toNat with
    | 0 => onlyIf (fld w 0 8 == 0) (.awaitf (fld w 19 5) (fld w 11 8))
    | 1 => onlyIf (fld w 0 8 == 0 && fld w 19 5 == 0) (.rels (fld w 11 8))
    | 2 => onlyIf (fld w 0 8 == 0) (.rclaim (fld w 19 5) (fld w 11 8))
    | 3 => onlyIf (fld w 0 8 == 0) (.rstat (fld w 19 5) (fld w 11 8))
    | 4 => onlyIf (fld w 0 8 == 0) (.rinit (fld w 19 5) (fld w 11 8))
    | _ => none
  | 31 => some (.limm (fld w 0 24))
  | _ => none

/-- Common majors (R31). -/
def decodeCommon (w : Word) : Option Instr :=
  match (fld w 24 5).toNat with
  | 0 => onlyIf (fld w 0 24 == 0) .nopc
  | 1 => onlyIf (fld w 16 8 == 0) (.safept (fld w 0 16))
  | 2 => some (.loopk (fld w 0 24))
  | 3 => some (.lexit (fld w 0 24))
  | 4 => onlyIf (fld w 0 24 == 0) .endt
  | 5 => some (.rfence (fld w 19 5) (fld w 16 3) (fld w 0 16))
  | _ => none

/-- Engine-common majors (R32). -/
def decodeEngine (e : Eng) (w : Word) : Option Instr :=
  match (fld w 24 5).toNat with
  | 24 => some (.pushi e (fld w 0 24))
  | 25 => some (.pushg e (fld w 20 4) (fld w 0 20))
  | 26 =>
    match (fld w 12 4).toNat with
    | 0 => some (.gaddi e (fld w 20 4) (fld w 16 4) (fld w 0 12))
    | 1 => onlyIf (fld w 4 8 == 0) (.gadd e (fld w 20 4) (fld w 16 4) (fld w 0 4))
    | 2 => onlyIf (fld w 6 6 == 0) (.gshli e (fld w 20 4) (fld w 16 4) (fld w 0 6))
    | 3 => some (.gmuli e (fld w 20 4) (fld w 16 4) (fld w 0 12))
    | 4 => onlyIf (fld w 0 12 == 0 && fld w 16 4 == 0) (.popg e (fld w 20 4))
    | 5 => onlyIf (fld w 0 12 == 0 && fld w 16 8 == 0) (.dupp e)
    | 6 => onlyIf (fld w 0 12 == 0 && fld w 16 8 == 0) (.dropp e)
    | 7 => onlyIf (fld w 0 12 == 0 && fld w 16 8 == 0) (.swapp e)
    | 8 => onlyIf (fld w 16 4 == 0) (.gmovi e (fld w 20 4) (fld w 0 12))
    | _ => none
  | 27 =>
    match (fld w 15 1).toNat with
    | 0 => some (.gld e (fld w 20 4) (fld w 16 4) (fld w 11 4) (fld w 0 11))
    | _ => some (.gst e (fld w 20 4) (fld w 16 4) (fld w 11 4) (fld w 0 11))
  | 28 =>
    match (fld w 12 2).toNat with
    | 0 => onlyIf (fld w 0 12 == 0 && fld w 14 4 == 0) (.epost e (fld w 18 6))
    | 1 => onlyIf (fld w 0 12 == 0) (.epostv e (fld w 18 6) (fld w 14 4))
    | 2 => onlyIf (fld w 0 12 == 0 && fld w 14 4 == 0) (.ewait e (fld w 18 6))
    | _ => onlyIf (fld w 0 12 == 0) (.ewaitv e (fld w 18 6) (fld w 14 4))
  | 29 =>
    match (fld w 18 2).toNat with
    | 0 => onlyIf (fld w 20 4 == 0) (.ejmp e (fld w 0 18))
    | 1 => some (.edbnz e (fld w 20 4) (fld w 0 18))
    | 2 => some (.ebz e (fld w 20 4) (fld w 0 18))
    | _ => some (.ebnz e (fld w 20 4) (fld w 0 18))
  | 30 =>
    match (fld w 10 2).toNat with
    | 0 => onlyIf (fld w 0 10 == 0) (.awaitfEngine e (fld w 20 4) (fld w 12 8))
    | 1 => onlyIf (fld w 0 10 == 0 && fld w 20 4 == 0) (.relsEngine e (fld w 12 8))
    | 2 => onlyIf (fld w 0 10 == 0) (.rclaimEngine e (fld w 20 4) (fld w 12 8))
    | _ => onlyIf (fld w 0 10 == 0) (.rstatEngine e (fld w 20 4) (fld w 12 8))
  | 31 => some (.elimm e (fld w 0 24))
  | _ => none

/-- Vector majors (R33). -/
def decodeV (w : Word) : Option Instr :=
  match (fld w 24 5).toNat with
  | 0 =>
    match (fld w 0 6).toNat with
    | 0 => some (.vadd (fld w 19 5) (fld w 14 5) (fld w 9 5) (fld w 6 3))
    | 1 => some (.vsub (fld w 19 5) (fld w 14 5) (fld w 9 5) (fld w 6 3))
    | 2 => some (.vmul (fld w 19 5) (fld w 14 5) (fld w 9 5) (fld w 6 3))
    | 3 => some (.vdiv (fld w 19 5) (fld w 14 5) (fld w 9 5) (fld w 6 3))
    | 4 => some (.vmin (fld w 19 5) (fld w 14 5) (fld w 9 5) (fld w 6 3))
    | 5 => some (.vmax (fld w 19 5) (fld w 14 5) (fld w 9 5) (fld w 6 3))
    | 6 => onlyIf (fld w 9 5 == 0) (.vabs (fld w 19 5) (fld w 14 5) (fld w 6 3))
    | 7 => onlyIf (fld w 9 5 == 0) (.vneg (fld w 19 5) (fld w 14 5) (fld w 6 3))
    | 8 => onlyIf (fld w 9 5 == 0) (.vsqrt (fld w 19 5) (fld w 14 5) (fld w 6 3))
    | 9 => onlyIf (fld w 9 5 == 0) (.vrsqrt (fld w 19 5) (fld w 14 5) (fld w 6 3))
    | 10 => onlyIf (fld w 9 5 == 0) (.vrcp (fld w 19 5) (fld w 14 5) (fld w 6 3))
    | 11 => onlyIf (fld w 9 5 == 0) (.vexp2 (fld w 19 5) (fld w 14 5) (fld w 6 3))
    | 12 => onlyIf (fld w 9 5 == 0) (.vlog2 (fld w 19 5) (fld w 14 5) (fld w 6 3))
    | _ => none
  | 1 =>
    match (fld w 0 6).toNat with
    | 0 => some (.viadd (fld w 19 5) (fld w 14 5) (fld w 9 5) (fld w 6 3))
    | 1 => some (.visub (fld w 19 5) (fld w 14 5) (fld w 9 5) (fld w 6 3))
    | 2 => some (.vimul (fld w 19 5) (fld w 14 5) (fld w 9 5) (fld w 6 3))
    | 3 => some (.vimulh (fld w 19 5) (fld w 14 5) (fld w 9 5) (fld w 6 3))
    | 4 => some (.vimulhn (fld w 19 5) (fld w 14 5) (fld w 9 5) (fld w 6 3))
    | 5 => some (.viand (fld w 19 5) (fld w 14 5) (fld w 9 5) (fld w 6 3))
    | 6 => some (.vior (fld w 19 5) (fld w 14 5) (fld w 9 5) (fld w 6 3))
    | 7 => some (.vixor (fld w 19 5) (fld w 14 5) (fld w 9 5) (fld w 6 3))
    | 8 => some (.vishl (fld w 19 5) (fld w 14 5) (fld w 9 5) (fld w 6 3))
    | 9 => some (.vishr (fld w 19 5) (fld w 14 5) (fld w 9 5) (fld w 6 3))
    | 10 => some (.visra (fld w 19 5) (fld w 14 5) (fld w 9 5) (fld w 6 3))
    | 11 => some (.vimin (fld w 19 5) (fld w 14 5) (fld w 9 5) (fld w 6 3))
    | 12 => some (.vimax (fld w 19 5) (fld w 14 5) (fld w 9 5) (fld w 6 3))
    | 13 => some (.viminn (fld w 19 5) (fld w 14 5) (fld w 9 5) (fld w 6 3))
    | 14 => some (.vimaxn (fld w 19 5) (fld w 14 5) (fld w 9 5) (fld w 6 3))
    | _ => none
  | 2 =>
    match (fld w 0 1).toNat with
    | 0 => some (.vfma (fld w 19 5) (fld w 14 5) (fld w 9 5) (fld w 4 5) (fld w 1 3))
    | _ => some (.vfnma (fld w 19 5) (fld w 14 5) (fld w 9 5) (fld w 4 5) (fld w 1 3))
  | 3 => onlyIf (fld w 0 1 == 0 && fld w 19 2 == 0) (.vcmp (fld w 21 3) (fld w 14 5) (fld w 9 5) (fld w 6 3) (fld w 3 3) (fld w 2 1) (fld w 1 1))
  | 4 =>
    match (fld w 0 6).toNat with
    | 0 => onlyIf (fld w 6 3 == 0 && fld w 12 2 == 0 && fld w 17 2 == 0 && fld w 22 2 == 0) (.mand (fld w 19 3) (fld w 14 3) (fld w 9 3))
    | 1 => onlyIf (fld w 6 3 == 0 && fld w 12 2 == 0 && fld w 17 2 == 0 && fld w 22 2 == 0) (.mor (fld w 19 3) (fld w 14 3) (fld w 9 3))
    | 2 => onlyIf (fld w 6 3 == 0 && fld w 12 2 == 0 && fld w 17 2 == 0 && fld w 22 2 == 0) (.mxor (fld w 19 3) (fld w 14 3) (fld w 9 3))
    | 3 => onlyIf (fld w 6 8 == 0 && fld w 17 2 == 0 && fld w 22 2 == 0) (.mnot (fld w 19 3) (fld w 14 3))
    | 4 => onlyIf (fld w 6 8 == 0 && fld w 17 2 == 0) (.mpop (fld w 19 5) (fld w 14 3))
    | 5 => onlyIf (fld w 6 8 == 0 && fld w 22 2 == 0) (.mset (fld w 19 3) (fld w 14 5))
    | _ => none
  | 5 => onlyIf (fld w 0 6 == 0) (.vsel (fld w 19 5) (fld w 14 5) (fld w 9 5) (fld w 6 3))
  | 6 => onlyIf (fld w 10 4 == 0) (.vcvt (fld w 19 5) (fld w 14 5) (fld w 9 1) (fld w 6 3) (fld w 2 4) (fld w 0 2))
  | 7 =>
    match (fld w 0 6).toNat with
    | 0 => onlyIf (fld w 6 3 == 0 && fld w 12 2 == 0) (.vqmx (fld w 19 5) (fld w 14 5) (fld w 9 3))
    | 1 => onlyIf (fld w 6 3 == 0 && fld w 12 2 == 0) (.vdqmx (fld w 19 5) (fld w 14 5) (fld w 9 3))
    | _ => none
  | 8 =>
    match (fld w 0 6).toNat with
    | 0 => onlyIf (fld w 9 5 == 0) (.vrsum (fld w 19 5) (fld w 14 5) (fld w 6 3))
    | 1 => onlyIf (fld w 9 5 == 0) (.vrmax (fld w 19 5) (fld w 14 5) (fld w 6 3))
    | 2 => onlyIf (fld w 9 5 == 0) (.vrmin (fld w 19 5) (fld w 14 5) (fld w 6 3))
    | 3 => onlyIf (fld w 9 5 == 0) (.vargmax (fld w 19 5) (fld w 14 5) (fld w 6 3))
    | 4 => onlyIf (fld w 9 5 == 0) (.vargmin (fld w 19 5) (fld w 14 5) (fld w 6 3))
    | 5 => onlyIf (fld w 9 5 == 0) (.vrisum (fld w 19 5) (fld w 14 5) (fld w 6 3))
    | _ => none
  | 9 => onlyIf (fld w 1 5 == 0 && fld w 9 5 == 0) (.vscan (fld w 19 5) (fld w 14 5) (fld w 6 3) (fld w 0 1))
  | 10 =>
    match (fld w 0 6).toNat with
    | 0 => some (.vperm (fld w 19 5) (fld w 14 5) (fld w 9 5) (fld w 6 3))
    | 1 => some (.vslup (fld w 19 5) (fld w 14 5) (fld w 9 5) (fld w 6 3))
    | 2 => some (.vsldn (fld w 19 5) (fld w 14 5) (fld w 9 5) (fld w 6 3))
    | 3 => some (.vbcast (fld w 19 5) (fld w 14 5) (fld w 9 5) (fld w 6 3))
    | 4 => onlyIf (fld w 9 10 == 0) (.viota (fld w 19 5) (fld w 6 3))
    | _ => none
  | 11 => onlyIf (fld w 0 6 == 0) (.vsortd (fld w 19 5) (fld w 14 5) (fld w 9 5) (fld w 6 3))
  | 12 => onlyIf (fld w 1 5 == 0) (.vrng (fld w 19 5) (fld w 14 5) (fld w 9 5) (fld w 6 3) (fld w 0 1))
  | 13 => some (.vld (fld w 19 5) (fld w 15 4) (fld w 12 3) (fld w 8 4) (fld w 0 8))
  | 14 => some (.vst (fld w 19 5) (fld w 15 4) (fld w 12 3) (fld w 8 4) (fld w 0 8))
  | 15 =>
    match (fld w 7 1).toNat with
    | 0 => onlyIf (fld w 0 3 == 0) (.vlds (fld w 19 5) (fld w 15 4) (fld w 12 3) (fld w 8 4) (fld w 3 4))
    | _ => onlyIf (fld w 0 3 == 0) (.vsts (fld w 19 5) (fld w 15 4) (fld w 12 3) (fld w 8 4) (fld w 3 4))
  | 16 =>
    match (fld w 7 1).toNat with
    | 0 => onlyIf (fld w 0 3 == 0) (.vgth (fld w 19 5) (fld w 15 4) (fld w 12 3) (fld w 8 4) (fld w 3 4))
    | _ => onlyIf (fld w 0 3 == 0) (.vsct (fld w 19 5) (fld w 15 4) (fld w 12 3) (fld w 8 4) (fld w 3 4))
  | 17 => some (.vsplf (fld w 19 5) (fld w 0 19))
  | 18 => some (.vspli (fld w 19 5) (fld w 0 19))
  | 19 =>
    match (fld w 0 6).toNat with
    | 0 => onlyIf (fld w 9 5 == 0) (.vmov (fld w 19 5) (fld w 14 5) (fld w 6 3))
    | 1 => onlyIf (fld w 18 1 == 0) (.vins (fld w 19 5) (fld w 14 4) (fld w 6 8))
    | 2 => onlyIf (fld w 23 1 == 0) (.vext (fld w 19 4) (fld w 14 5) (fld w 6 8))
    | _ => none
  | _ => none

/-- Matrix majors (R34). -/
def decodeM (w : Word) : Option Instr :=
  match (fld w 24 5).toNat with
  | 0 =>
    match (fld w 0 6).toNat with
    | 0 => onlyIf (fld w 6 12 == 0 && fld w 22 2 == 0) (.mld (fld w 18 4))
    | 1 => onlyIf (fld w 6 12 == 0) (.mldAcc (fld w 18 6))
    | _ => none
  | 1 => onlyIf (fld w 0 18 == 0) (.mst (fld w 18 6))
  | 2 => onlyIf (fld w 0 18 == 0) (.mzero (fld w 18 6))
  | 3 => onlyIf (fld w 0 12 == 0) (.mmov (fld w 18 6) (fld w 12 6))
  | 4 => onlyIf (fld w 10 8 == 0) (.mma (fld w 18 6) (fld w 6 4) (fld w 3 3) (fld w 0 3))
  | 5 => onlyIf (fld w 10 8 == 0) (.moutl (fld w 18 6) (fld w 6 4) (fld w 3 3) (fld w 0 3))
  | 6 => onlyIf (fld w 0 12 == 0) (.mhad (fld w 18 6) (fld w 12 6))
  | 7 => onlyIf (fld w 4 14 == 0) (.mdrain (fld w 18 6) (fld w 3 1) (fld w 0 3))
  | 8 =>
    match (fld w 0 6).toNat with
    | 0 => some (.maddt (fld w 18 6) (fld w 12 6) (fld w 6 6))
    | 1 => some (.maddtI (fld w 18 6) (fld w 12 6) (fld w 6 6))
    | _ => none
  | 9 =>
    match (fld w 0 6).toNat with
    | 0 => onlyIf (fld w 6 6 == 0) (.mscl (fld w 18 6) (fld w 12 6))
    | 1 => onlyIf (fld w 6 6 == 0) (.msclCol (fld w 18 6) (fld w 12 6))
    | 2 => onlyIf (fld w 6 6 == 0) (.msclRow (fld w 18 6) (fld w 12 6))
    | _ => none
  | 10 => onlyIf (fld w 0 24 == 0) .mfmt
  | 11 => onlyIf (fld w 0 24 == 0) .bmv
  | 12 => onlyIf (fld w 0 18 == 0 && fld w 22 2 == 0) (.msave (fld w 18 4))
  | 13 => onlyIf (fld w 0 18 == 0 && fld w 22 2 == 0) (.mrest (fld w 18 4))
  | _ => none

/-- Copy majors (R34). -/
def decodeC (w : Word) : Option Instr :=
  match (fld w 24 5).toNat with
  | 0 => onlyIf (fld w 0 24 == 0) .copy
  | 1 => onlyIf (fld w 0 24 == 0) .copyl
  | 2 => onlyIf (fld w 0 24 == 0) .copyi
  | 3 => onlyIf (fld w 0 24 == 0) .cfill
  | 4 => onlyIf (fld w 0 12 == 0 && fld w 16 8 == 0) (.ccomb (fld w 12 4))
  | 5 => onlyIf (fld w 0 24 == 0) .scacc
  | 6 => onlyIf (fld w 0 24 == 0) .sfacc
  | _ => none

/-- Fabric majors (R34). -/
def decodeF (w : Word) : Option Instr :=
  match (fld w 24 5).toNat with
  | 0 => onlyIf (fld w 0 24 == 0) .fsend
  | 1 => onlyIf (fld w 0 12 == 0 && fld w 16 8 == 0) (.fsacc (fld w 12 4))
  | 2 => onlyIf (fld w 0 12 == 0 && fld w 16 8 == 0) (.fqsend (fld w 12 4))
  | 3 => onlyIf (fld w 0 12 == 0 && fld w 16 8 == 0) (.wmapw (fld w 12 4))
  | 4 => onlyIf (fld w 0 12 == 0 && fld w 16 8 == 0) (.wmapr (fld w 12 4))
  | 5 => onlyIf (fld w 0 12 == 0 && fld w 16 8 == 0) (.rxww (fld w 12 4))
  | 6 => onlyIf (fld w 0 24 == 0) .fslotw
  | 7 => onlyIf (fld w 0 24 == 0) .fslotgo
  | 8 => onlyIf (fld w 0 12 == 0 && fld w 16 8 == 0) (.fslotst (fld w 12 4))
  | 9 => onlyIf (fld w 0 12 == 0 && fld w 16 8 == 0) (.fgrp (fld w 12 4))
  | 10 => onlyIf (fld w 0 12 == 0 && fld w 16 8 == 0) (.fpath (fld w 12 4))
  | 11 => onlyIf (fld w 0 12 == 0 && fld w 16 8 == 0) (.fqst (fld w 12 4))
  | _ => none

/-- The form a word has, whatever its field values. Majors 24 to 31 of tags 1 to 4 are the engine-common ones (R25). -/
def decodeForm (w : Word) : Option Instr :=
  let hi := 24 ≤ (fld w 24 5).toNat
  match (fld w 29 3).toNat with
  | 0 => decodeS w
  | 1 => if hi then decodeEngine .v w else decodeV w
  | 2 => if hi then decodeEngine .m w else decodeM w
  | 3 => if hi then decodeEngine .c w else decodeC w
  | 4 => if hi then decodeEngine .f w else decodeF w
  | 7 => decodeCommon w
  | _ => none

/-- The decoder (R18, R20): the checks in the order of R18's table, then the form, then the field values. -/
def decode (w : Word) : Except DecodeErr Instr :=
  if (fld w 29 3).toNat = 5 ∨ (fld w 29 3).toNat = 6 then .error .reservedTag
  else if w = 0#32 then .error .zeroWord
  else
    match decodeForm w with
    | none => .error .illegal
    | some i => if i.wf then .ok i else .error .illegal

/-- The word of an instruction; an event has none. -/
def encode : Instr → Option Word
  | .add d a b => some ((0#3 ++ 0#5 ++ d ++ a ++ b ++ 0#9).setWidth 32)
  | .sub d a b => some ((0#3 ++ 0#5 ++ d ++ a ++ b ++ 1#9).setWidth 32)
  | .mul d a b => some ((0#3 ++ 0#5 ++ d ++ a ++ b ++ 2#9).setWidth 32)
  | .mulh d a b => some ((0#3 ++ 0#5 ++ d ++ a ++ b ++ 3#9).setWidth 32)
  | .mulhn d a b => some ((0#3 ++ 0#5 ++ d ++ a ++ b ++ 4#9).setWidth 32)
  | .div d a b => some ((0#3 ++ 0#5 ++ d ++ a ++ b ++ 5#9).setWidth 32)
  | .divn d a b => some ((0#3 ++ 0#5 ++ d ++ a ++ b ++ 6#9).setWidth 32)
  | .rem d a b => some ((0#3 ++ 0#5 ++ d ++ a ++ b ++ 7#9).setWidth 32)
  | .remn d a b => some ((0#3 ++ 0#5 ++ d ++ a ++ b ++ 8#9).setWidth 32)
  | .and d a b => some ((0#3 ++ 0#5 ++ d ++ a ++ b ++ 9#9).setWidth 32)
  | .or d a b => some ((0#3 ++ 0#5 ++ d ++ a ++ b ++ 10#9).setWidth 32)
  | .xor d a b => some ((0#3 ++ 0#5 ++ d ++ a ++ b ++ 11#9).setWidth 32)
  | .andn d a b => some ((0#3 ++ 0#5 ++ d ++ a ++ b ++ 12#9).setWidth 32)
  | .shl d a b => some ((0#3 ++ 0#5 ++ d ++ a ++ b ++ 13#9).setWidth 32)
  | .shr d a b => some ((0#3 ++ 0#5 ++ d ++ a ++ b ++ 14#9).setWidth 32)
  | .sra d a b => some ((0#3 ++ 0#5 ++ d ++ a ++ b ++ 15#9).setWidth 32)
  | .rol d a b => some ((0#3 ++ 0#5 ++ d ++ a ++ b ++ 16#9).setWidth 32)
  | .min d a b => some ((0#3 ++ 0#5 ++ d ++ a ++ b ++ 17#9).setWidth 32)
  | .max d a b => some ((0#3 ++ 0#5 ++ d ++ a ++ b ++ 18#9).setWidth 32)
  | .minn d a b => some ((0#3 ++ 0#5 ++ d ++ a ++ b ++ 19#9).setWidth 32)
  | .maxn d a b => some ((0#3 ++ 0#5 ++ d ++ a ++ b ++ 20#9).setWidth 32)
  | .slt d a b => some ((0#3 ++ 0#5 ++ d ++ a ++ b ++ 21#9).setWidth 32)
  | .sltn d a b => some ((0#3 ++ 0#5 ++ d ++ a ++ b ++ 22#9).setWidth 32)
  | .seq d a b => some ((0#3 ++ 0#5 ++ d ++ a ++ b ++ 23#9).setWidth 32)
  | .clz d a => some ((0#3 ++ 0#5 ++ d ++ a ++ 24#14).setWidth 32)
  | .ctz d a => some ((0#3 ++ 0#5 ++ d ++ a ++ 25#14).setWidth 32)
  | .popc d a => some ((0#3 ++ 0#5 ++ d ++ a ++ 26#14).setWidth 32)
  | .addi d a i => some ((0#3 ++ 1#5 ++ d ++ a ++ i).setWidth 32)
  | .andi d a i => some ((0#3 ++ 2#5 ++ d ++ a ++ i).setWidth 32)
  | .ori d a i => some ((0#3 ++ 3#5 ++ d ++ a ++ i).setWidth 32)
  | .xori d a i => some ((0#3 ++ 4#5 ++ d ++ a ++ i).setWidth 32)
  | .slti d a i => some ((0#3 ++ 5#5 ++ d ++ a ++ i).setWidth 32)
  | .shli d a n => some ((0#3 ++ 6#5 ++ d ++ a ++ 0#8 ++ n).setWidth 32)
  | .shri d a n => some ((0#3 ++ 6#5 ++ d ++ a ++ 64#8 ++ n).setWidth 32)
  | .srai d a n => some ((0#3 ++ 6#5 ++ d ++ a ++ 128#8 ++ n).setWidth 32)
  | .sext d a w => some ((0#3 ++ 6#5 ++ d ++ a ++ 193#8 ++ w).setWidth 32)
  | .zext d a w => some ((0#3 ++ 6#5 ++ d ++ a ++ 192#8 ++ w).setWidth 32)
  | .lup d i => some ((0#3 ++ 7#5 ++ d ++ i).setWidth 32)
  | .beq a b o => some ((0#3 ++ 8#5 ++ a ++ b ++ o).setWidth 32)
  | .bne a b o => some ((0#3 ++ 9#5 ++ a ++ b ++ o).setWidth 32)
  | .blt a b o => some ((0#3 ++ 10#5 ++ a ++ b ++ o).setWidth 32)
  | .bge a b o => some ((0#3 ++ 11#5 ++ a ++ b ++ o).setWidth 32)
  | .bltn a b o => some ((0#3 ++ 12#5 ++ a ++ b ++ o).setWidth 32)
  | .bgen a b o => some ((0#3 ++ 13#5 ++ a ++ b ++ o).setWidth 32)
  | .jmp o => some ((0#3 ++ 14#5 ++ o).setWidth 32)
  | .call o => some ((0#3 ++ 15#5 ++ o).setWidth 32)
  | .jr a => some ((0#3 ++ 16#5 ++ 0#5 ++ a ++ 0#14).setWidth 32)
  | .callr a => some ((0#3 ++ 16#5 ++ 0#5 ++ a ++ 1#14).setWidth 32)
  | .loop d o => some ((0#3 ++ 17#5 ++ d ++ 0#5 ++ o).setWidth 32)
  | .ld s a c z g o => some ((0#3 ++ 18#5 ++ s ++ a ++ c ++ z ++ g ++ o).setWidth 32)
  | .st s a c z o => some ((0#3 ++ 19#5 ++ s ++ a ++ c ++ z ++ 0#1 ++ o).setWidth 32)
  | .fadd d a b => some ((0#3 ++ 20#5 ++ d ++ a ++ b ++ 0#9).setWidth 32)
  | .fsub d a b => some ((0#3 ++ 20#5 ++ d ++ a ++ b ++ 1#9).setWidth 32)
  | .fmul d a b => some ((0#3 ++ 20#5 ++ d ++ a ++ b ++ 2#9).setWidth 32)
  | .fdiv d a b => some ((0#3 ++ 20#5 ++ d ++ a ++ b ++ 3#9).setWidth 32)
  | .fmin d a b => some ((0#3 ++ 20#5 ++ d ++ a ++ b ++ 4#9).setWidth 32)
  | .fmax d a b => some ((0#3 ++ 20#5 ++ d ++ a ++ b ++ 5#9).setWidth 32)
  | .flt d a b => some ((0#3 ++ 20#5 ++ d ++ a ++ b ++ 6#9).setWidth 32)
  | .fle d a b => some ((0#3 ++ 20#5 ++ d ++ a ++ b ++ 7#9).setWidth 32)
  | .feq d a b => some ((0#3 ++ 20#5 ++ d ++ a ++ b ++ 8#9).setWidth 32)
  | .fcvtf d a => some ((0#3 ++ 20#5 ++ d ++ a ++ 9#14).setWidth 32)
  | .fcvti d a => some ((0#3 ++ 20#5 ++ d ++ a ++ 10#14).setWidth 32)
  | .fsqrt d a => some ((0#3 ++ 20#5 ++ d ++ a ++ 11#14).setWidth 32)
  | .post e => some ((0#3 ++ 21#5 ++ 0#5 ++ e ++ 0#13).setWidth 32)
  | .postv s e => some ((0#3 ++ 21#5 ++ s ++ e ++ 1024#13).setWidth 32)
  | .await e => some ((0#3 ++ 21#5 ++ 0#5 ++ e ++ 2048#13).setWidth 32)
  | .awaitv s e => some ((0#3 ++ 21#5 ++ s ++ e ++ 3072#13).setWidth 32)
  | .tawait s e => some ((0#3 ++ 21#5 ++ s ++ e ++ 4096#13).setWidth 32)
  | .ctake d a b => some ((0#3 ++ 22#5 ++ d ++ a ++ b ++ 0#9).setWidth 32)
  | .ctadd a b => some ((0#3 ++ 22#5 ++ 0#5 ++ a ++ b ++ 1#9).setWidth 32)
  | .ctwait d a b => some ((0#3 ++ 22#5 ++ d ++ a ++ b ++ 2#9).setWidth 32)
  | .ctset a b => some ((0#3 ++ 22#5 ++ 0#5 ++ a ++ b ++ 3#9).setWidth 32)
  | .ctrd d a => some ((0#3 ++ 22#5 ++ d ++ a ++ 4#14).setWidth 32)
  | .barw d a b => some ((0#3 ++ 22#5 ++ d ++ a ++ b ++ 5#9).setWidth 32)
  | .cfence m s k => some ((0#3 ++ 23#5 ++ m ++ s ++ k ++ 0#3).setWidth 32)
  | .spawn d a b => some ((0#3 ++ 24#5 ++ d ++ a ++ b ++ 0#9).setWidth 32)
  | .lread d n => some ((0#3 ++ 24#5 ++ d ++ 0#5 ++ n ++ 1#9).setWidth 32)
  | .idx d l => some ((0#3 ++ 24#5 ++ d ++ 0#5 ++ l ++ 2#9).setWidth 32)
  | .ssopen d a => some ((0#3 ++ 25#5 ++ d ++ a ++ 0#14).setWidth 32)
  | .ssclose d a => some ((0#3 ++ 25#5 ++ d ++ a ++ 1#14).setWidth 32)
  | .sseed d a b => some ((0#3 ++ 25#5 ++ d ++ a ++ b ++ 2#9).setWidth 32)
  | .sfbeg d a b => some ((0#3 ++ 25#5 ++ d ++ a ++ b ++ 3#9).setWidth 32)
  | .sfend d a b => some ((0#3 ++ 25#5 ++ d ++ a ++ b ++ 4#9).setWidth 32)
  | .sjump d a => some ((0#3 ++ 25#5 ++ d ++ a ++ 5#14).setWidth 32)
  | .spfx d a => some ((0#3 ++ 25#5 ++ d ++ a ++ 6#14).setWidth 32)
  | .swaitp d a b => some ((0#3 ++ 25#5 ++ d ++ a ++ b ++ 7#9).setWidth 32)
  | .srecyc d a => some ((0#3 ++ 25#5 ++ d ++ a ++ 8#14).setWidth 32)
  | .saccept d a b => some ((0#3 ++ 25#5 ++ d ++ a ++ b ++ 9#9).setWidth 32)
  | .sresid d a b => some ((0#3 ++ 25#5 ++ d ++ a ++ b ++ 10#9).setWidth 32)
  | .scancel d a => some ((0#3 ++ 25#5 ++ d ++ a ++ 11#14).setWidth 32)
  | .sflt d a b => some ((0#3 ++ 25#5 ++ d ++ a ++ b ++ 12#9).setWidth 32)
  | .swaitf d a => some ((0#3 ++ 25#5 ++ d ++ a ++ 13#14).setWidth 32)
  | .srd s r => some ((0#3 ++ 26#5 ++ s ++ 0#7 ++ r).setWidth 32)
  | .swr s r => some ((0#3 ++ 26#5 ++ s ++ 1#7 ++ r).setWidth 32)
  | .tlbiVa s a => some ((0#3 ++ 26#5 ++ s ++ a ++ 8192#14).setWidth 32)
  | .tlbiCtx s => some ((0#3 ++ 26#5 ++ s ++ 8193#19).setWidth 32)
  | .tlbiAll => some ((0#3 ++ 26#5 ++ 8194#24).setWidth 32)
  | .trap a => some ((0#3 ++ 26#5 ++ 0#5 ++ a ++ 12288#14).setWidth 32)
  | .rte => some ((0#3 ++ 26#5 ++ 12289#24).setWidth 32)
  | .wfi => some ((0#3 ++ 26#5 ++ 12290#24).setWidth 32)
  | .brk n => some ((0#3 ++ 26#5 ++ n ++ 12291#19).setWidth 32)
  | .tlbsync => some ((0#3 ++ 26#5 ++ 12292#24).setWidth 32)
  | .awaitf s r => some ((0#3 ++ 27#5 ++ s ++ r ++ 0#11).setWidth 32)
  | .rels r => some ((0#3 ++ 27#5 ++ 0#5 ++ r ++ 256#11).setWidth 32)
  | .rclaim s r => some ((0#3 ++ 27#5 ++ s ++ r ++ 512#11).setWidth 32)
  | .rstat s r => some ((0#3 ++ 27#5 ++ s ++ r ++ 768#11).setWidth 32)
  | .rinit s r => some ((0#3 ++ 27#5 ++ s ++ r ++ 1024#11).setWidth 32)
  | .limm i => some ((0#3 ++ 31#5 ++ i).setWidth 32)
  | .nopc => some ((7#3 ++ 0#5 ++ 0#24).setWidth 32)
  | .safept i => some ((7#3 ++ 1#5 ++ 0#8 ++ i).setWidth 32)
  | .loopk o => some ((7#3 ++ 2#5 ++ o).setWidth 32)
  | .lexit o => some ((7#3 ++ 3#5 ++ o).setWidth 32)
  | .endt => some ((7#3 ++ 4#5 ++ 0#24).setWidth 32)
  | .rfence s p m => some ((7#3 ++ 5#5 ++ s ++ p ++ m).setWidth 32)
  | .pushi e i => some ((BitVec.ofNat 3 e.tag ++ 24#5 ++ i).setWidth 32)
  | .pushg e g i => some ((BitVec.ofNat 3 e.tag ++ 25#5 ++ g ++ i).setWidth 32)
  | .gaddi e d a i => some ((BitVec.ofNat 3 e.tag ++ 26#5 ++ d ++ a ++ 0#4 ++ i).setWidth 32)
  | .gadd e d a b => some ((BitVec.ofNat 3 e.tag ++ 26#5 ++ d ++ a ++ 256#12 ++ b).setWidth 32)
  | .gshli e d a n => some ((BitVec.ofNat 3 e.tag ++ 26#5 ++ d ++ a ++ 128#10 ++ n).setWidth 32)
  | .gmuli e d a i => some ((BitVec.ofNat 3 e.tag ++ 26#5 ++ d ++ a ++ 3#4 ++ i).setWidth 32)
  | .popg e d => some ((BitVec.ofNat 3 e.tag ++ 26#5 ++ d ++ 16384#20).setWidth 32)
  | .dupp e => some ((BitVec.ofNat 3 e.tag ++ 26#5 ++ 20480#24).setWidth 32)
  | .dropp e => some ((BitVec.ofNat 3 e.tag ++ 26#5 ++ 24576#24).setWidth 32)
  | .swapp e => some ((BitVec.ofNat 3 e.tag ++ 26#5 ++ 28672#24).setWidth 32)
  | .gmovi e d i => some ((BitVec.ofNat 3 e.tag ++ 26#5 ++ d ++ 8#8 ++ i).setWidth 32)
  | .gld e g b c o => some ((BitVec.ofNat 3 e.tag ++ 27#5 ++ g ++ b ++ 0#1 ++ c ++ o).setWidth 32)
  | .gst e g b c o => some ((BitVec.ofNat 3 e.tag ++ 27#5 ++ g ++ b ++ 1#1 ++ c ++ o).setWidth 32)
  | .epost e v => some ((BitVec.ofNat 3 e.tag ++ 28#5 ++ v ++ 0#18).setWidth 32)
  | .epostv e v g => some ((BitVec.ofNat 3 e.tag ++ 28#5 ++ v ++ g ++ 4096#14).setWidth 32)
  | .ewait e v => some ((BitVec.ofNat 3 e.tag ++ 28#5 ++ v ++ 8192#18).setWidth 32)
  | .ewaitv e v g => some ((BitVec.ofNat 3 e.tag ++ 28#5 ++ v ++ g ++ 12288#14).setWidth 32)
  | .ejmp e o => some ((BitVec.ofNat 3 e.tag ++ 29#5 ++ 0#6 ++ o).setWidth 32)
  | .edbnz e g o => some ((BitVec.ofNat 3 e.tag ++ 29#5 ++ g ++ 1#2 ++ o).setWidth 32)
  | .ebz e g o => some ((BitVec.ofNat 3 e.tag ++ 29#5 ++ g ++ 2#2 ++ o).setWidth 32)
  | .ebnz e g o => some ((BitVec.ofNat 3 e.tag ++ 29#5 ++ g ++ 3#2 ++ o).setWidth 32)
  | .awaitfEngine e g r => some ((BitVec.ofNat 3 e.tag ++ 30#5 ++ g ++ r ++ 0#12).setWidth 32)
  | .relsEngine e r => some ((BitVec.ofNat 3 e.tag ++ 30#5 ++ 0#4 ++ r ++ 1024#12).setWidth 32)
  | .rclaimEngine e g r => some ((BitVec.ofNat 3 e.tag ++ 30#5 ++ g ++ r ++ 2048#12).setWidth 32)
  | .rstatEngine e g r => some ((BitVec.ofNat 3 e.tag ++ 30#5 ++ g ++ r ++ 3072#12).setWidth 32)
  | .elimm e i => some ((BitVec.ofNat 3 e.tag ++ 31#5 ++ i).setWidth 32)
  | .vadd d a b m => some ((1#3 ++ 0#5 ++ d ++ a ++ b ++ m ++ 0#6).setWidth 32)
  | .vsub d a b m => some ((1#3 ++ 0#5 ++ d ++ a ++ b ++ m ++ 1#6).setWidth 32)
  | .vmul d a b m => some ((1#3 ++ 0#5 ++ d ++ a ++ b ++ m ++ 2#6).setWidth 32)
  | .vdiv d a b m => some ((1#3 ++ 0#5 ++ d ++ a ++ b ++ m ++ 3#6).setWidth 32)
  | .vmin d a b m => some ((1#3 ++ 0#5 ++ d ++ a ++ b ++ m ++ 4#6).setWidth 32)
  | .vmax d a b m => some ((1#3 ++ 0#5 ++ d ++ a ++ b ++ m ++ 5#6).setWidth 32)
  | .vabs d a m => some ((1#3 ++ 0#5 ++ d ++ a ++ 0#5 ++ m ++ 6#6).setWidth 32)
  | .vneg d a m => some ((1#3 ++ 0#5 ++ d ++ a ++ 0#5 ++ m ++ 7#6).setWidth 32)
  | .vsqrt d a m => some ((1#3 ++ 0#5 ++ d ++ a ++ 0#5 ++ m ++ 8#6).setWidth 32)
  | .vrsqrt d a m => some ((1#3 ++ 0#5 ++ d ++ a ++ 0#5 ++ m ++ 9#6).setWidth 32)
  | .vrcp d a m => some ((1#3 ++ 0#5 ++ d ++ a ++ 0#5 ++ m ++ 10#6).setWidth 32)
  | .vexp2 d a m => some ((1#3 ++ 0#5 ++ d ++ a ++ 0#5 ++ m ++ 11#6).setWidth 32)
  | .vlog2 d a m => some ((1#3 ++ 0#5 ++ d ++ a ++ 0#5 ++ m ++ 12#6).setWidth 32)
  | .viadd d a b m => some ((1#3 ++ 1#5 ++ d ++ a ++ b ++ m ++ 0#6).setWidth 32)
  | .visub d a b m => some ((1#3 ++ 1#5 ++ d ++ a ++ b ++ m ++ 1#6).setWidth 32)
  | .vimul d a b m => some ((1#3 ++ 1#5 ++ d ++ a ++ b ++ m ++ 2#6).setWidth 32)
  | .vimulh d a b m => some ((1#3 ++ 1#5 ++ d ++ a ++ b ++ m ++ 3#6).setWidth 32)
  | .vimulhn d a b m => some ((1#3 ++ 1#5 ++ d ++ a ++ b ++ m ++ 4#6).setWidth 32)
  | .viand d a b m => some ((1#3 ++ 1#5 ++ d ++ a ++ b ++ m ++ 5#6).setWidth 32)
  | .vior d a b m => some ((1#3 ++ 1#5 ++ d ++ a ++ b ++ m ++ 6#6).setWidth 32)
  | .vixor d a b m => some ((1#3 ++ 1#5 ++ d ++ a ++ b ++ m ++ 7#6).setWidth 32)
  | .vishl d a b m => some ((1#3 ++ 1#5 ++ d ++ a ++ b ++ m ++ 8#6).setWidth 32)
  | .vishr d a b m => some ((1#3 ++ 1#5 ++ d ++ a ++ b ++ m ++ 9#6).setWidth 32)
  | .visra d a b m => some ((1#3 ++ 1#5 ++ d ++ a ++ b ++ m ++ 10#6).setWidth 32)
  | .vimin d a b m => some ((1#3 ++ 1#5 ++ d ++ a ++ b ++ m ++ 11#6).setWidth 32)
  | .vimax d a b m => some ((1#3 ++ 1#5 ++ d ++ a ++ b ++ m ++ 12#6).setWidth 32)
  | .viminn d a b m => some ((1#3 ++ 1#5 ++ d ++ a ++ b ++ m ++ 13#6).setWidth 32)
  | .vimaxn d a b m => some ((1#3 ++ 1#5 ++ d ++ a ++ b ++ m ++ 14#6).setWidth 32)
  | .vfma d a b c m => some ((1#3 ++ 2#5 ++ d ++ a ++ b ++ c ++ m ++ 0#1).setWidth 32)
  | .vfnma d a b c m => some ((1#3 ++ 2#5 ++ d ++ a ++ b ++ c ++ m ++ 1#1).setWidth 32)
  | .vcmp d a b m c f n => some ((1#3 ++ 3#5 ++ d ++ 0#2 ++ a ++ b ++ m ++ c ++ f ++ n ++ 0#1).setWidth 32)
  | .mand d a b => some ((1#3 ++ 4#5 ++ 0#2 ++ d ++ 0#2 ++ a ++ 0#2 ++ b ++ 0#9).setWidth 32)
  | .mor d a b => some ((1#3 ++ 4#5 ++ 0#2 ++ d ++ 0#2 ++ a ++ 0#2 ++ b ++ 1#9).setWidth 32)
  | .mxor d a b => some ((1#3 ++ 4#5 ++ 0#2 ++ d ++ 0#2 ++ a ++ 0#2 ++ b ++ 2#9).setWidth 32)
  | .mnot d a => some ((1#3 ++ 4#5 ++ 0#2 ++ d ++ 0#2 ++ a ++ 3#14).setWidth 32)
  | .mpop d a => some ((1#3 ++ 4#5 ++ d ++ 0#2 ++ a ++ 4#14).setWidth 32)
  | .mset d a => some ((1#3 ++ 4#5 ++ 0#2 ++ d ++ a ++ 5#14).setWidth 32)
  | .vsel d a b m => some ((1#3 ++ 5#5 ++ d ++ a ++ b ++ m ++ 0#6).setWidth 32)
  | .vcvt d a n m c r => some ((1#3 ++ 6#5 ++ d ++ a ++ 0#4 ++ n ++ m ++ c ++ r).setWidth 32)
  | .vqmx d a f => some ((1#3 ++ 7#5 ++ d ++ a ++ 0#2 ++ f ++ 0#9).setWidth 32)
  | .vdqmx d a f => some ((1#3 ++ 7#5 ++ d ++ a ++ 0#2 ++ f ++ 1#9).setWidth 32)
  | .vrsum d a m => some ((1#3 ++ 8#5 ++ d ++ a ++ 0#5 ++ m ++ 0#6).setWidth 32)
  | .vrmax d a m => some ((1#3 ++ 8#5 ++ d ++ a ++ 0#5 ++ m ++ 1#6).setWidth 32)
  | .vrmin d a m => some ((1#3 ++ 8#5 ++ d ++ a ++ 0#5 ++ m ++ 2#6).setWidth 32)
  | .vargmax d a m => some ((1#3 ++ 8#5 ++ d ++ a ++ 0#5 ++ m ++ 3#6).setWidth 32)
  | .vargmin d a m => some ((1#3 ++ 8#5 ++ d ++ a ++ 0#5 ++ m ++ 4#6).setWidth 32)
  | .vrisum d a m => some ((1#3 ++ 8#5 ++ d ++ a ++ 0#5 ++ m ++ 5#6).setWidth 32)
  | .vscan d a m t => some ((1#3 ++ 9#5 ++ d ++ a ++ 0#5 ++ m ++ 0#5 ++ t).setWidth 32)
  | .vperm d a b m => some ((1#3 ++ 10#5 ++ d ++ a ++ b ++ m ++ 0#6).setWidth 32)
  | .vslup d a b m => some ((1#3 ++ 10#5 ++ d ++ a ++ b ++ m ++ 1#6).setWidth 32)
  | .vsldn d a b m => some ((1#3 ++ 10#5 ++ d ++ a ++ b ++ m ++ 2#6).setWidth 32)
  | .vbcast d a b m => some ((1#3 ++ 10#5 ++ d ++ a ++ b ++ m ++ 3#6).setWidth 32)
  | .viota d m => some ((1#3 ++ 10#5 ++ d ++ 0#10 ++ m ++ 4#6).setWidth 32)
  | .vsortd d a x m => some ((1#3 ++ 11#5 ++ d ++ a ++ x ++ m ++ 0#6).setWidth 32)
  | .vrng d a b m t => some ((1#3 ++ 12#5 ++ d ++ a ++ b ++ m ++ 0#5 ++ t).setWidth 32)
  | .vld v g m c o => some ((1#3 ++ 13#5 ++ v ++ g ++ m ++ c ++ o).setWidth 32)
  | .vst v g m c o => some ((1#3 ++ 14#5 ++ v ++ g ++ m ++ c ++ o).setWidth 32)
  | .vlds v g m c s => some ((1#3 ++ 15#5 ++ v ++ g ++ m ++ c ++ 0#1 ++ s ++ 0#3).setWidth 32)
  | .vsts v g m c s => some ((1#3 ++ 15#5 ++ v ++ g ++ m ++ c ++ 1#1 ++ s ++ 0#3).setWidth 32)
  | .vgth v g m c x => some ((1#3 ++ 16#5 ++ v ++ g ++ m ++ c ++ 0#1 ++ x ++ 0#3).setWidth 32)
  | .vsct v g m c x => some ((1#3 ++ 16#5 ++ v ++ g ++ m ++ c ++ 1#1 ++ x ++ 0#3).setWidth 32)
  | .vsplf d i => some ((1#3 ++ 17#5 ++ d ++ i).setWidth 32)
  | .vspli d i => some ((1#3 ++ 18#5 ++ d ++ i).setWidth 32)
  | .vmov d a m => some ((1#3 ++ 19#5 ++ d ++ a ++ 0#5 ++ m ++ 0#6).setWidth 32)
  | .vins d g n => some ((1#3 ++ 19#5 ++ d ++ 0#1 ++ g ++ n ++ 1#6).setWidth 32)
  | .vext g a n => some ((1#3 ++ 19#5 ++ 0#1 ++ g ++ a ++ n ++ 2#6).setWidth 32)
  | .mld d => some ((2#3 ++ 0#5 ++ 0#2 ++ d ++ 0#18).setWidth 32)
  | .mldAcc d => some ((2#3 ++ 0#5 ++ d ++ 1#18).setWidth 32)
  | .mst d => some ((2#3 ++ 1#5 ++ d ++ 0#18).setWidth 32)
  | .mzero d => some ((2#3 ++ 2#5 ++ d ++ 0#18).setWidth 32)
  | .mmov d a => some ((2#3 ++ 3#5 ++ d ++ a ++ 0#12).setWidth 32)
  | .mma d b f g => some ((2#3 ++ 4#5 ++ d ++ 0#8 ++ b ++ f ++ g).setWidth 32)
  | .moutl d b f g => some ((2#3 ++ 5#5 ++ d ++ 0#8 ++ b ++ f ++ g).setWidth 32)
  | .mhad d a => some ((2#3 ++ 6#5 ++ d ++ a ++ 0#12).setWidth 32)
  | .mdrain d z f => some ((2#3 ++ 7#5 ++ d ++ 0#14 ++ z ++ f).setWidth 32)
  | .maddt d a b => some ((2#3 ++ 8#5 ++ d ++ a ++ b ++ 0#6).setWidth 32)
  | .maddtI d a b => some ((2#3 ++ 8#5 ++ d ++ a ++ b ++ 1#6).setWidth 32)
  | .mscl d a => some ((2#3 ++ 9#5 ++ d ++ a ++ 0#12).setWidth 32)
  | .msclCol d a => some ((2#3 ++ 9#5 ++ d ++ a ++ 1#12).setWidth 32)
  | .msclRow d a => some ((2#3 ++ 9#5 ++ d ++ a ++ 2#12).setWidth 32)
  | .mfmt => some ((2#3 ++ 10#5 ++ 0#24).setWidth 32)
  | .bmv => some ((2#3 ++ 11#5 ++ 0#24).setWidth 32)
  | .msave d => some ((2#3 ++ 12#5 ++ 0#2 ++ d ++ 0#18).setWidth 32)
  | .mrest d => some ((2#3 ++ 13#5 ++ 0#2 ++ d ++ 0#18).setWidth 32)
  | .copy => some ((3#3 ++ 0#5 ++ 0#24).setWidth 32)
  | .copyl => some ((3#3 ++ 1#5 ++ 0#24).setWidth 32)
  | .copyi => some ((3#3 ++ 2#5 ++ 0#24).setWidth 32)
  | .cfill => some ((3#3 ++ 3#5 ++ 0#24).setWidth 32)
  | .ccomb g => some ((3#3 ++ 4#5 ++ 0#8 ++ g ++ 0#12).setWidth 32)
  | .scacc => some ((3#3 ++ 5#5 ++ 0#24).setWidth 32)
  | .sfacc => some ((3#3 ++ 6#5 ++ 0#24).setWidth 32)
  | .fsend => some ((4#3 ++ 0#5 ++ 0#24).setWidth 32)
  | .fsacc g => some ((4#3 ++ 1#5 ++ 0#8 ++ g ++ 0#12).setWidth 32)
  | .fqsend g => some ((4#3 ++ 2#5 ++ 0#8 ++ g ++ 0#12).setWidth 32)
  | .wmapw g => some ((4#3 ++ 3#5 ++ 0#8 ++ g ++ 0#12).setWidth 32)
  | .wmapr g => some ((4#3 ++ 4#5 ++ 0#8 ++ g ++ 0#12).setWidth 32)
  | .rxww g => some ((4#3 ++ 5#5 ++ 0#8 ++ g ++ 0#12).setWidth 32)
  | .fslotw => some ((4#3 ++ 6#5 ++ 0#24).setWidth 32)
  | .fslotgo => some ((4#3 ++ 7#5 ++ 0#24).setWidth 32)
  | .fslotst g => some ((4#3 ++ 8#5 ++ 0#8 ++ g ++ 0#12).setWidth 32)
  | .fgrp g => some ((4#3 ++ 9#5 ++ 0#8 ++ g ++ 0#12).setWidth 32)
  | .fpath g => some ((4#3 ++ 10#5 ++ 0#8 ++ g ++ 0#12).setWidth 32)
  | .fqst g => some ((4#3 ++ 11#5 ++ 0#8 ++ g ++ 0#12).setWidth 32)
  | .reservedTag => none
  | .zeroWord => none
  | .trapEntry _ => none
  | .handlerTimeout _ => none
  | .watchdog _ _ => none
  | .safePointDistance _ => none
  | .tawaitTimeout _ => none
  | .commonWordPass _ _ => none
  | .slipRelease _ _ => none
  | .eventWaitWake _ _ => none
  | .ringWaitWake _ _ => none
  | .counterWaitWake _ _ => none
  | .barrierRelease _ => none
  | .sliceWaitWake _ _ => none
  | .wfiWake => none
  | .quoinEntryRetire _ => none
  | .rfenceComplete _ => none
  | .tableWalk _ _ _ => none
  | .replayRetry _ _ => none
  | .replayFail _ _ => none
  | .patrolScrub _ => none
  | .copyLineWrite _ _ => none
  | .bmvRowWrite _ _ _ => none
  | .ccombReport _ _ => none
  | .abandonment _ => none
  | .lineArrival _ => none
  | .reductionPartialArrival _ => none
  | .reductionResultArrival _ => none
  | .acknowledgementArrival _ _ => none
  | .reservedPacket _ => none
  | .packetCrcFailure _ => none
  | .packetResend _ => none
  | .packetLaunch _ => none
  | .rotationStart => none
  | .slotStart => none
  | .guardIntervalStart => none
  | .quiesceSet => none
  | .quiesceClear => none
  | .linkRetrainComplete _ => none
  | .heatWrite _ _ _ => none
  | .assignWrite _ _ _ _ => none
  | .fibreResume _ => none
  | .fibrePauseTimeout _ => none
  | .monUpdate _ _ _ => none
  | .optTempUpdate _ => none
  | .keySlotValid _ _ => none
  | .contextValidSet _ => none
  | .contextValidClear _ => none
  | .notify _ _ _ _ _ => none
  | .sequenceRecheck _ _ => none
  | .queueHalt _ _ => none
  | .qstatHaltedClear _ _ => none
  | .launchAccept => none
  | .instancePlace _ => none
  | .textStaging _ => none
  | .instanceEnd _ => none
  | .launchComplete _ => none
  | .drainBudgetExpiry _ => none
  | .checkpointComplete _ => none
  | .forcedCut _ => none
  | .instanceResume _ => none
  | .dieFence _ => none
  | .masterElection => none
  | .overflowMove _ _ => none
  | .coreCmdResume _ => none
  | .coreCmdTerminate _ => none
  | .tileSaveGo _ => none
  | .tileRestoreGo _ => none
  | .tileTransferComplete _ => none
  | .ltsCommit => none
  | .ltsCommitComplete => none
  | .measurementExtend _ _ _ => none
  | .attestationRequest _ _ => none
  | .powerGood _ => none
  | .powerSample _ _ => none
  | .throttleAdjust => none
  | .hostBar2Write _ _ _ => none
  | .hostBar2Read _ _ _ => none
  | .slipwWrite _ _ => none
  | .detmodeWrite _ _ => none
  | .registerWrite _ _ _ => none
  | .accessPerformed _ => none
  | .tlbInvalidationComplete _ => none
  | .foreignWordsPassed => none

/-- The decoder on an instruction given as bits in the numbering of the opcode table: every instruction is one 32-bit
word, so bits above 31 must be 0. -/
def decodeTableWord (nbits w : Nat) : Option Instr :=
  if nbits ≤ 32 ∧ w < 2 ^ 32 then
    match decode (BitVec.ofNat 32 w) with
    | .ok i => some i
    | .error _ => none
  else none

end Sys2Proof
end

