-- ==== Sys2Proof/Machine/Num.lean ====
section
/-!
DEFINITION. Number formats, rounding and the arithmetic of "Number formats and the order of sums" (R36-R53): values
are exact dyadic numbers, computed with integers and narrowed once by rounding.
-/

namespace Sys2Proof.Machine

/-- The value of a floating-point pattern or result (R38). `fin neg n e sticky` has a magnitude from n·2^e up to,
not including, (n+1)·2^e; with `sticky` false it is n·2^e exactly. Zero is `fin neg 0 e false` and keeps its sign. -/
inductive FVal where
  | nan
  | inf (neg : Bool)
  | fin (neg : Bool) (n : Nat) (e : Int) (sticky : Bool)
  deriving DecidableEq, Repr

/-- A floating-point format (R37): exponent bits, fraction bits, bias, and whether it has infinities. -/
structure Fmt where
  ebits : Nat
  m : Nat
  bias : Nat
  hasInf : Bool
  deriving DecidableEq, Repr

def fmtF32 : Fmt := ⟨8, 23, 127, true⟩
def fmtBf16 : Fmt := ⟨8, 7, 127, true⟩
def fmtE5m2 : Fmt := ⟨5, 2, 15, true⟩
def fmtE4m3 : Fmt := ⟨4, 3, 7, false⟩

/-- The exponent of the smallest normal number (R37). -/
def Fmt.emin (f : Fmt) : Int := 1 - f.bias

/-- The largest finite magnitude is (this number)·2^(emax − m) (R37). -/
def Fmt.largestN (f : Fmt) : Nat := if f.hasInf then 2 ^ (f.m + 1) - 1 else 2 ^ (f.m + 1) - 2

/-- The exponent of the largest finite number. -/
def Fmt.emax (f : Fmt) : Int := (if f.hasInf then 2 ^ f.ebits - 2 else 2 ^ f.ebits - 1 : Nat) - f.bias

/-- Width of a pattern of the format. -/
def Fmt.width (f : Fmt) : Nat := 1 + f.ebits + f.m

/-- The canonical NaN of the format (R39). -/
def Fmt.nanBits (f : Fmt) : Nat :=
  if f.hasInf then (2 ^ f.ebits - 1) * 2 ^ f.m + 2 ^ (f.m - 1) else 2 ^ (f.ebits + f.m) - 1

/-- val(fmt, b) of R38. -/
def fval (f : Fmt) (b : Nat) : FVal :=
  let s := decide (bitsOf b (f.ebits + f.m) 1 = 1)
  let e := bitsOf b f.m f.ebits
  let fr := bitsOf b 0 f.m
  if e = 2 ^ f.ebits - 1 ∧ f.hasInf = true then
    if fr = 0 then .inf s else .nan
  else if f.hasInf = false ∧ e = 2 ^ f.ebits - 1 ∧ fr = 2 ^ f.m - 1 then .nan
  else if e = 0 then .fin s fr (f.emin - f.m) false
  else .fin s (2 ^ f.m + fr) ((e : Int) - f.bias - f.m) false

/-- n shifted left by an integer, exact where it goes left. -/
def shiftInt (n : Nat) (k : Int) : Nat := if 0 ≤ k then n <<< k.toNat else n >>> (-k).toNat

/-- The integer that rounding in `mode` makes of a magnitude q + (r + sticky)/2^s, 0 ≤ r < 2^s (R41, R42). -/
def roundStep (neg : Bool) (mode q r s : Nat) (sticky : Bool) : Nat :=
  let half := 2 ^ s / 2
  let inexact := decide (r ≠ 0) || sticky
  match mode with
  | 0 => if s = 0 then q
         else if r > half ∨ (r = half ∧ (sticky = true ∨ q % 2 = 1)) then q + 1 else q
  | 1 => q
  | 2 => if inexact && !neg then q + 1 else q
  | _ => if inexact && neg then q + 1 else q

/-- The magnitude of a nonzero finite value rounded to a multiple of the format's spacing, before the overflow step:
the multiple and the exponent of the spacing (R42). -/
def roundTo (f : Fmt) (mode : Nat) (neg : Bool) (n : Nat) (e : Int) (sticky : Bool) : Nat × Int :=
  let ge := max ((n.log2 : Int) + e) f.emin - f.m
  let s := ge - e
  if s ≤ 0 then (n <<< (-s).toNat, ge)
  else (roundStep neg mode (n >>> s.toNat) (n % 2 ^ s.toNat) s.toNat sticky, ge)

/-- Whether a rounded magnitude lies above the largest finite number of the format. -/
def overflows (f : Fmt) (p : Nat × Int) : Bool :=
  let le : Int := f.emax - f.m
  let lo := min le p.2
  decide (p.1 <<< (p.2 - lo).toNat > f.largestN <<< (le - lo).toNat)

/-- rnd(x, fmt, mode) of R42. -/
def rnd (f : Fmt) (mode : Nat) : FVal → FVal
  | .nan => .nan
  | .inf s => .inf s
  | .fin s n e st =>
    if n = 0 then .fin s 0 0 false
    else
      let p := roundTo f mode s n e st
      if overflows f p then
        let big := FVal.fin s f.largestN (f.emax - f.m) false
        match mode with
        | 0 => .inf s
        | 1 => big
        | 2 => if s then big else .inf s
        | _ => if s then .inf s else big
      else .fin s p.1 p.2 false

/-- enc(fmt, y) of R43, for a value y of the format. -/
def enc (f : Fmt) : FVal → Nat
  | .nan => f.nanBits
  | .inf s => (if s then 2 ^ (f.ebits + f.m) else 0) + (2 ^ f.ebits - 1) * 2 ^ f.m
  | .fin s n e _ =>
    let sb := if s then 2 ^ (f.ebits + f.m) else 0
    if n = 0 then sb
    else
      let l : Int := (n.log2 : Int) + e
      if l < f.emin then sb + shiftInt n (e - (f.emin - f.m))
      else sb + ((l + f.bias).toNat * 2 ^ f.m + (shiftInt n ((f.m : Int) - n.log2) - 2 ^ f.m))

/-- f32(b) and the pattern of rne(x) (R43). -/
def f32 (b : Word) : FVal := fval fmtF32 b.toNat
def encF32 (x : FVal) : Word := BitVec.ofNat 32 (enc fmtF32 x)
def rne (x : FVal) : FVal := rnd fmtF32 0 x

def FVal.isNan : FVal → Bool
  | .nan => true
  | _ => false

def FVal.isZero : FVal → Bool
  | .fin _ n _ _ => decide (n = 0)
  | _ => false

def FVal.isNeg : FVal → Bool
  | .nan => false
  | .inf s => s
  | .fin s _ _ _ => s

def FVal.neg : FVal → FVal
  | .nan => .nan
  | .inf s => .inf (!s)
  | .fin s n e st => .fin (!s) n e st

def FVal.abs : FVal → FVal
  | .nan => .nan
  | .inf _ => .inf false
  | .fin _ n e st => .fin false n e st

/-- An exact finite value as an integer multiple of 2^lo, for lo at or below its exponent. -/
def scaledInt (s : Bool) (n : Nat) (e lo : Int) : Int :=
  let v : Int := n <<< (e - lo).toNat
  if s then -v else v

/-- An integer multiple of 2^e as an exact value; a zero gets the sign given. -/
def ofScaled (v : Int) (e : Int) (zneg : Bool) : FVal :=
  if v = 0 then .fin zneg 0 0 false else .fin (decide (v < 0)) v.natAbs e false

/-- The exact value of an integer (R48). -/
def ofInt (v : Int) : FVal := ofScaled v 0 false

/-- The exact sum under the special cases of R44, in rounding modes 0 to 2. -/
def fadd : FVal → FVal → FVal
  | .nan, _ => .nan
  | _, .nan => .nan
  | .inf a, .inf b => if a = b then .inf a else .nan
  | .inf a, _ => .inf a
  | _, .inf b => .inf b
  | .fin a n e _, .fin b m f _ =>
    let lo := min e f
    ofScaled (scaledInt a n e lo + scaledInt b m f lo) lo (a && b)

def fsub (x y : FVal) : FVal := fadd x y.neg

/-- The exact product under R44. -/
def fmul : FVal → FVal → FVal
  | .nan, _ => .nan
  | _, .nan => .nan
  | .inf a, .inf b => .inf (a != b)
  | .inf a, .fin b m _ _ => if m = 0 then .nan else .inf (a != b)
  | .fin a n _ _, .inf b => if n = 0 then .nan else .inf (a != b)
  | .fin a n e _, .fin b m f _ => .fin (a != b) (n * m) (e + f) false

/-- The quotient under R44, kept to 96 bits with what lies below them marked sticky. -/
def fdiv : FVal → FVal → FVal
  | .nan, _ => .nan
  | _, .nan => .nan
  | .inf _, .inf _ => .nan
  | .inf a, .fin b _ _ _ => .inf (a != b)
  | .fin a _ _ _, .inf b => .fin (a != b) 0 0 false
  | .fin a n e _, .fin b m f _ =>
    if m = 0 then (if n = 0 then .nan else .inf (a != b))
    else if n = 0 then .fin (a != b) 0 0 false
    else
      let k := 96 + m.log2
      let num := n <<< k
      .fin (a != b) (num / m) (e - f - k) (decide (num % m ≠ 0))

/-- Newton's iteration for the integer square root, from above. -/
def isqrtIter : Nat → Nat → Nat → Nat
  | 0, _, x => x
  | fuel + 1, n, x =>
    let y := (x + n / x) / 2
    if y < x then isqrtIter fuel n y else x

/-- The integer square root, rounded down. -/
def isqrt (n : Nat) : Nat := if n = 0 then 0 else isqrtIter (n.log2 + 8) n (2 ^ (n.log2 / 2 + 1))

/-- The square root under R44. -/
def fsqrt : FVal → FVal
  | .nan => .nan
  | .inf s => if s then .nan else .inf false
  | .fin s n e _ =>
    if n = 0 then .fin s 0 0 false
    else if s then .nan
    else
      let k := 128 + (e % 2).toNat
      let v := n <<< k
      let r := isqrt v
      .fin false r ((e - k) / 2) (decide (r * r ≠ v))

/-- 1/x (R179). -/
def frcp (x : FVal) : FVal := fdiv (.fin false 1 0 false) x

/-- 1/√x, for x above zero; the special operands are the instruction's (R179). -/
def frsqrtPos (n : Nat) (e : Int) : FVal :=
  let n2 := n <<< (e % 2).toNat
  let e2 := e - e % 2
  let k := 2 * (96 + n2.log2)
  let q := 2 ^ k / n2
  let r := isqrt q
  .fin false r (-(k / 2 : Nat) - e2 / 2) (decide (r * r * n2 ≠ 2 ^ k))

/-- a < b on values that are no NaN; zeros are equal (R45). -/
def fltVal : FVal → FVal → Bool
  | .nan, _ => false
  | _, .nan => false
  | .inf a, .inf b => a && !b
  | .inf a, _ => a
  | _, .inf b => !b
  | .fin a n e _, .fin b m f _ =>
    let lo := min e f
    decide (scaledInt a n e lo < scaledInt b m f lo)

/-- a = b on values that are no NaN; zeros are equal (R45). -/
def feqVal : FVal → FVal → Bool
  | .nan, _ => false
  | _, .nan => false
  | .inf a, .inf b => a == b
  | .inf _, _ => false
  | _, .inf _ => false
  | .fin a n e _, .fin b m f _ =>
    let lo := min e f
    decide (scaledInt a n e lo = scaledInt b m f lo)

def fleVal (x y : FVal) : Bool := fltVal x y || feqVal x y

/-- Minimum and maximum of R45: −0 lies below +0, and one NaN gives the other operand. -/
def fmin (x y : FVal) : FVal :=
  if x.isNan then y else if y.isNan then x
  else if fltVal x y then x else if fltVal y x then y else if x.isNeg then x else y
def fmax (x y : FVal) : FVal :=
  if x.isNan then y else if y.isNan then x
  else if fltVal x y then y else if fltVal y x then x else if x.isNeg then y else x

/-- The integer that rounding in `mode` makes of a finite value (R43 rint, R48). -/
def roundInt (mode : Nat) (s : Bool) (n : Nat) (e : Int) (st : Bool) : Int :=
  let v : Nat :=
    if 0 ≤ e then n <<< e.toNat
    else roundStep s mode (n >>> (-e).toNat) (n % 2 ^ (-e).toNat) (-e).toNat st
  if s then -(v : Int) else v

/-- Conversion to an integer between lo and hi (R48). -/
def toIntSat (mode : Nat) (lo hi : Int) : FVal → Int
  | .nan => 0
  | .inf s => if s then lo else hi
  | .fin s n e st => max lo (min hi (roundInt mode s n e st))

/-- A narrowing conversion to a pattern (R47); `nanOv` is the NaN-on-overflow bit. -/
def narrow (f : Fmt) (mode : Nat) (nanOv : Bool) (x : FVal) : Nat :=
  let sb (s : Bool) : Nat := if s then 2 ^ (f.ebits + f.m) else 0
  let big (s : Bool) : Nat := enc f (.fin s f.largestN (f.emax - f.m) false)
  if f.width = 16 then enc f (rnd f mode x)
  else
    match x with
    | .nan => f.nanBits
    | .inf s =>
      if f.hasInf then enc f (.inf s) else if nanOv then f.nanBits else big s
    | .fin s n e st =>
      if n = 0 then sb s
      else
        let p := roundTo f mode s n e st
        if overflows f p then (if nanOv then f.nanBits else big s)
        else enc f (.fin s p.1 p.2 false)

/-- floor(log2 |x|) of a nonzero finite value. -/
def floorLog2 (n : Nat) (e : Int) : Int := (n.log2 : Int) + e

/-- x scaled by an exact power of two. -/
def scale2 (k : Int) : FVal → FVal
  | .nan => .nan
  | .inf s => .inf s
  | .fin s n e st => .fin s n (e + k) st

/-! Base-two exponential and logarithm (R179): fixed-point arithmetic far wider than the result, then one rounding. -/

/-- Fraction bits of the fixed-point arithmetic. -/
def fixBits : Nat := 320

/-- 2^f for f = frac/2^k: walks the fraction's bits from the highest, `root` being 2^(2^-i) in fixed point. -/
def exp2Bits : Nat → Nat → Nat → Nat → Nat
  | 0, _, _, acc => acc
  | k + 1, frac, root, acc =>
    let acc' := if frac / 2 ^ k % 2 = 1 then (acc * root) >>> fixBits else acc
    exp2Bits k frac (isqrt (root <<< fixBits)) acc'

/-- 2^x of a finite value. -/
def exp2Fin (s : Bool) (n : Nat) (e : Int) : FVal :=
  if n = 0 then .fin false 1 0 false
  else if floorLog2 n e > 12 then
    (if s then .fin false (2 ^ 64) (-4096) false else .fin false 1 4096 false)
  else
    let k := (max (-e) 0).toNat
    let v := scaledInt s n e (-(k : Int))
    let i := v / (2 ^ k : Nat)
    let fr := (v % (2 ^ k : Nat)).toNat
    let a := exp2Bits k fr (isqrt (2 <<< (2 * fixBits))) (1 <<< fixBits)
    .fin false a (i - fixBits) (decide (fr ≠ 0))

/-- Fraction bits of log2 of y/2^fixBits in [1, 2), by repeated squaring. -/
def log2Bits : Nat → Nat → Nat → Nat
  | 0, _, acc => acc
  | k + 1, y, acc =>
    let y2 := (y * y) >>> fixBits
    if y2 ≥ 2 <<< fixBits then log2Bits k (y2 >>> 1) (2 * acc + 1) else log2Bits k y2 (2 * acc)

/-- log2 of a value above zero. -/
def log2Pos (n : Nat) (e : Int) : FVal :=
  let i := floorLog2 n e
  let y := n <<< (fixBits - n.log2)
  if y = 1 <<< fixBits then ofInt i
  else
    let fr := log2Bits 128 y 0
    let v : Int := i * (2 ^ 128 : Nat) + fr
    if 0 ≤ v then .fin false v.toNat (-128) true else .fin true ((-v).toNat - 1) (-128) true

/-! MX blocks (R49-R51). -/

/-- Width of an MX element of format code `c`: MXINT8, 6, 4, E4M3, E5M2, BF16. -/
def mxWidth (c : Nat) : Nat := match c with
  | 0 => 8 | 1 => 6 | 2 => 4 | 3 => 8 | 4 => 8 | _ => 16

/-- The two's-complement integer of the low k bits. -/
def sextNat (k b : Nat) : Int := if bitsOf b (k - 1) 1 = 1 then (b % 2 ^ k : Nat) - (2 ^ k : Nat) else (b % 2 ^ k : Nat)

/-- The element value without scale, u (R49). -/
def mxElem (c b : Nat) : FVal := match c with
  | 0 => ofScaled (sextNat 8 b) (-6) false
  | 1 => ofScaled (sextNat 6 b) (-4) false
  | 2 => ofScaled (sextNat 4 b) (-2) false
  | 3 => fval fmtE4m3 b
  | 4 => fval fmtE5m2 b
  | _ => fval fmtBf16 b

/-- The element value with its block scale (R49). -/
def mxValue (c scale b : Nat) : FVal :=
  if c = 5 then mxElem c b else if scale = 0xFF then .nan else scale2 ((scale : Int) - 127) (mxElem c b)

def FVal.notFinite : FVal → Bool
  | .fin _ _ _ _ => false
  | _ => true

/-- The largest magnitude of a block of finite values. -/
def maxAbs (xs : List FVal) : FVal := xs.foldl (fun a x => if fltVal a x.abs then x.abs else a) (.fin false 0 0 false)

/-- The block scale for the largest magnitude mx: min(254, max(0, floor(log2 mx) − k + 127)). -/
def mxScaleOf (k : Int) : FVal → Nat
  | .fin _ n e _ => (min 254 (max 0 (floorLog2 n e - k + 127))).toNat
  | _ => 0

/-- quant_mxint(xs, k) of R50: the scale and the element patterns. -/
def quantMxint (xs : List FVal) (k : Nat) : Nat × List Nat :=
  if xs.any FVal.notFinite then (0xFF, xs.map (fun _ => 0))
  else
    let mx := maxAbs xs
    if mx.isZero then (0, xs.map (fun _ => 0))
    else
      let e := mxScaleOf 0 mx
      (e, xs.map (fun x =>
        let q := toIntSat 0 (-(2 ^ (k - 1) : Nat)) ((2 ^ (k - 1) : Nat) - 1) (scale2 (127 - e + k - 2) x)
        (q % (2 ^ k : Nat)).toNat))

/-- quant_mxfp(xs, fmt) of R51. -/
def quantMxfp (xs : List FVal) (f : Fmt) : Nat × List Nat :=
  if xs.any FVal.notFinite then (0xFF, xs.map (fun _ => 0))
  else
    let mx := maxAbs xs
    if mx.isZero then (0, xs.map (fun _ => 0))
    else
      let e := mxScaleOf (if f.hasInf then 15 else 8) mx
      (e, xs.map (fun x => narrow f 0 false (scale2 (127 - e) x)))

/-- A block quantised to MX format code c: 0 to 2 MXINT, 3 E4M3, 4 E5M2. -/
def quantMx (c : Nat) (xs : List FVal) : Nat × List Nat := match c with
  | 0 => quantMxint xs 8
  | 1 => quantMxint xs 6
  | 2 => quantMxint xs 4
  | 3 => quantMxfp xs fmtE4m3
  | _ => quantMxfp xs fmtE5m2

/-! Sums (R54-R59). -/

/-- One level of a pairwise tree on values rounded to binary32. -/
def pairLevel : List FVal → List FVal
  | x :: y :: l => rne (fadd x y) :: pairLevel l
  | l => l

/-- `k` levels of the pairwise tree (R57, R59). -/
def pairTree : Nat → List FVal → List FVal
  | 0, l => l
  | k + 1, l => pairTree k (pairLevel l)

/-- The sum of exact values without rounding, in the special cases of R55: a NaN, or infinities of both signs, gives
a NaN. DEDUCED (log 67). -/
def exactSum (xs : List FVal) : FVal := match xs with
  | [] => .fin false 0 0 false
  | x :: l => l.foldl fadd x

end Sys2Proof.Machine
end

