-- ==== Sys2Proof/Machine/State.lean ====
section
/-!
DEFINITION. The machine: one YA-8400 device as plain data, its state after reset, and the reasons a step can stop.
-/

namespace Sys2Proof.Machine

/-- Why the machine stops without a next state. Every trap of the spec is a next state instead (R338). -/
inductive Fault where
  /-- Raised by `step` when its schedule names an ill-formed event (a core that does not exist, for example). Safe:
  the hardware has no such event. -/
  | illFormed
  deriving DecidableEq, Repr

/-- Why the model gives an instruction no meaning. -/
inductive Refusal where
  /-- Raised by an arm of `exec` that has no meaning yet, by the instruction's mnemonic. Safe: nothing is claimed. -/
  | notModelled (mnemonic : String)
  deriving DecidableEq, Repr

/-- Vector clock: one 24-bit word count for each sequencer (R62, R103). -/
structure Clk where
  s : BitVec 24 := 0
  v : BitVec 24 := 0
  m : BitVec 24 := 0
  c : BitVec 24 := 0
  f : BitVec 24 := 0
  deriving DecidableEq, Repr

/-- A pending post: its value, the poster's clock, and the accesses it releases that may not be performed yet
(R81, R83). -/
structure Post where
  value : Word := 0
  clk : Clk := {}
  rel : List Nat := []
  deriving DecidableEq, Repr

/-- What a sequencer waits for (R336 names the waits the watchdog limits). `replay` keeps the cause of the store that found the
replay queue full (R160). -/
inductive WaitKind where
  | post (ev : Nat) | await (ev : Nat) | tawait (ev : Nat) (limit : Nat)
  | awaitHeld (ev : Nat) | tawaitHeld (ev : Nat) (limit : Nat)
  | ring (r : Nat) (claim : Bool)
  | counter (k : Nat)
  | barrier (b : Nat)
  | sliceSet (n : Nat)
  | wfi
  | slip
  | quoin (age : Bool)
  | rfence | endt | fence (mark : Nat) | tlbi | tlbsync
  | copyPlaces | sendPlaces
  | replay (cause : Nat)
  | held
  | release
  | rte
  | other
  deriving DecidableEq, Repr

/-- A wait in progress: what for, since which cycle, and its place in the order of service (R82). -/
structure Wait where
  kind : WaitKind
  since : Nat
  order : Nat
  deriving DecidableEq, Repr

/-- One sequencer (R62). The pc is a number up to 65,536: the word after the last one traps when it is examined
(R17). `unpassed` marks the common words executed and not yet passed, oldest first, each by the number of the first
access issued after it (R66). `inKernel` says that pc has equalled the kernel offset (R70), `inIter` that an iteration of the
kernel has begun for the sequencer (R76). `wcat` is wc at the sequencer's latest common words, newest first (R103). `lastSafe` is the
latest SAFEPT of the kernel iteration (R76), and `atSafe` the safe point the sequencer stands just past (R130): its
entry, and whether it is a LOOPK. `acq` names the accesses acquired that may not be performed yet (R168), and `crel` what
the sequencer released at each of its latest common words, newest first (R68). -/
structure SeqState where
  pc : Nat := 0
  wc : BitVec 24 := 0
  cc : BitVec 32 := 0
  iter : BitVec 32 := 0
  vclk : Clk := {}
  unpassed : List Nat := []
  wcat : List (BitVec 24) := []
  ended : Bool := false
  inKernel : Bool := false
  inIter : Bool := false
  lastSafe : Option Nat := none
  atSafe : Option (Nat × Bool) := none
  wait : Option Wait := none
  pfx : List (BitVec 24) := []
  pfxPc : Nat := 0
  acq : List Nat := []
  crel : List (List Nat) := []
  deriving DecidableEq, Repr

/-! ## Launches and instances -/

/-- The loop record as read at candidacy (R116). -/
structure LoopRec where
  pro : Nat := 0
  kern : Nat := 0
  epi : Nat := 0
  trips : Nat := 0
  args : W64 := 0
  spTab : W64 := 0
  est : Nat := 0
  policy : BitVec 8 := 0
  cls : Nat := 0
  part : Nat := 0
  slipw : Nat := 0
  text : W64 := 0
  textLen : Nat := 0
  parent : Word := 0
  tokens : Nat := 0
  deriving DecidableEq, Repr

/-- One level of a loop table: its extent and kind (0 temporal, 1 over cores, 2 over dies); absent levels have
`present` false (R114). -/
structure Level where
  extent : Nat := 1
  kind : Nat := 0
  present : Bool := false
  deriving DecidableEq, Repr

/-- A loop table (R114): the grain and the four levels, outermost first. -/
structure LoopTab where
  grain : Nat := 1
  levels : List Level := [⟨1, 1, true⟩]
  deriving DecidableEq, Repr

/-- An instance of a launch still to be placed: its die point, its number within the point, and how often it ran
before (R118, R121). -/
structure Unplaced where
  p : Nat
  i : Nat
  die : Nat
  again : Nat
  deriving DecidableEq, Repr

/-- A launch accepted and not complete (R115-R118). `queue` is 0-7 for a submission queue and 8 + class for a child
from a spawn pool. `todo` are the instances of the step that are not placed, `stopped` means that nothing further is placed,
and `desc` is the context descriptor as it stood before it was cleared (R110). -/
structure Launch where
  num : Nat
  ctx : Nat
  queue : Nat
  cls : Nat
  lrec : LoopRec
  tab : LoopTab
  tabAddr : W64 := 0
  compAddr : W64 := 0
  flags : Nat := 0
  compCtr : Nat := 0
  started : Bool := false
  step : Nat := 0
  todo : List Unplaced := []
  retired : Nat := 0
  status : Nat := 0
  stopped : Bool := false
  desc : Option (List Byte) := none
  deriving DecidableEq, Repr

/-- A child in a spawn pool (R124-R126): its context, loop record and table as read, and the spawning launch. `no` gives
the order in which children entered the pools. -/
structure Child where
  ctx : Nat
  lrec : LoopRec
  tab : LoopTab
  tabAddr : W64
  by_ : Nat
  image : List Byte := []
  no : Nat := 0
  deriving DecidableEq, Repr

/-- The binding of an instance to a slice (R308, R322). -/
structure Binding where
  set : Nat
  n : Nat
  g : BitVec 16
  reg : Nat
  abandon : Nat
  deriving DecidableEq, Repr

/-- A recorded barrier arrival that a BARW waits on (R143): the word's address, the unit, the generation, and whether its n
differs. -/
structure BarWait where
  pc : Nat
  unit : Nat
  gen : Nat
  differs : Bool
  deriving DecidableEq, Repr

/-- An instance (R118, R119, R138): where its work lies and what it holds besides registers. `tokens` are the slice
tokens handed to it and outstanding (set, slice, generation); `barw` are the barrier arrivals that the words S waits at have
recorded (R143): its own word and, in a rebuild stub, the stub's. -/
structure Inst where
  launch : Nat
  ctx : Nat
  cls : Nat
  lrec : LoopRec
  tab : LoopTab
  tabAddr : W64 := 0
  step : Nat := 0
  p : Nat := 0
  i : Nat := 0
  first : Nat := 0
  count : Nat := 0
  base : Nat := 0
  units : Nat := 0
  placed : Nat := 0
  overlay : Bool := false
  again : Nat := 0
  bind : Option Binding := none
  tokens : List (Nat × Nat × BitVec 16) := []
  barw : List BarWait := []
  deriving DecidableEq, Repr

/-! ## Rings, copies, bank operations -/

/-- A slot (R240): its tag (0 empty, 1 filling, 2 full, 3 draining), expected, arrived and recorded counts, error
flag, owner and the clock deposited since it was claimed, if any (R103). `rel` names the accesses that filled it. -/
structure Slot where
  tag : Nat := 0
  x : Nat := 0
  a : Nat := 0
  b : Nat := 0
  err : Bool := false
  owner : Nat := 0
  clk : Option Clk := none
  rel : List Nat := []
  deriving DecidableEq, Repr

/-- A ring (R240). `rel` names the accesses its last RELS released. -/
structure Ring where
  valid : Bool := false
  base : Nat := 0
  size : Nat := 0
  count : Nat := 0
  fabric : Bool := false
  remote : Bool := false
  rd : Nat := 0
  cl : Nat := 0
  ovf : Bool := false
  slots : Sparse Slot := {}
  rel : List Nat := []
  deriving DecidableEq, Repr

/-- A byte source of a copy: a location and the key slot it is read under, or a constant. -/
inductive Src where
  | loc (a : Nat) (key : Nat)
  | const (b : Byte)
  deriving DecidableEq, Repr

/-- A transmit map entry (R265). -/
structure TxMap where
  ctx : Nat := 0
  w : Nat := 0
  z : Nat := 7
  loop : Bool := false
  op : Nat := 0
  cls : Nat := 0
  loopWin : Nat := 0
  dests : List (Nat × Nat) := []
  deriving DecidableEq, Repr

/-- One indivisible write of a copy operation. A line unit gives the location of its line and its key slot, the bytes to
move (offset in the line, source) and how many are skipped. -/
inductive Unit_ where
  /-- a destination line -/
  | line (loc key : Nat) (moves : List (Nat × Src)) (skipped : Nat)
  /-- a main-memory line whose translation or permission failed: it parks (R160) -/
  | park (va : Nat) (cause : Nat) (moves : List (Nat × Src)) (skipped : Nat)
  /-- a line in transmit space, under the version in force at issue (R237, R267) -/
  | tx (t : Nat) (m : TxMap) (moves : List (Nat × Src)) (skipped : Nat)
  /-- instruction words of COPYI -/
  | text (word : Nat) (srcs : List Src)
  /-- all entries of one SCACC or SFACC element in one window of 64: (value, output) locations -/
  | accum (loc : Nat) (op : Nat) (entries : List (Nat × Option Nat))
  /-- a line of CCOMB: whether it passes fine results through, the cause that parks it, and for each element its offset
  in the line and where coarse new, fine and coarse old lie -/
  | comb (loc key va : Nat) (cause : Option Nat) (exact : Bool)
      (elems : List (Nat × (Nat × Nat) × (Nat × Nat) × (Nat × Nat)))
  deriving DecidableEq, Repr

/-- The ring slot an operation counts toward: the core, the ring, the slot, and the instance whose ring it is. -/
structure Count where
  core : Nat
  ring : Nat
  slot : Nat
  launch : Nat
  inst : Nat
  deriving DecidableEq, Repr

/-- The report that a combine owes the coordinator (R252): the set as opened, slice, part, and whether the answer was 1. -/
structure Report where
  set : Nat
  opened : Nat
  n : Nat
  part : Nat
  settled : Bool
  norm : Word := 0
  differs : Bool := false
  deriving DecidableEq, Repr

/-- A copy operation in flight (R229): what it has still to write, what it counts toward, and what the locations that it has
overwritten and still reads held before it (R239). -/
structure CopyOp where
  id : Nat
  cls : Nat
  ctx : Nat
  owner : Nat × Nat
  units : List Unit_
  count : Option Count := none
  text : Option (Nat × Nat) := none
  report : Option Report := none
  before : Sparse (Option Byte) := {}
  deriving DecidableEq, Repr

/-- A BMV in flight (R224, R226): the weight format, columns, row stride, rows per page, the page locations with their key
slots, the x patterns read at issue, the rows not yet written, and the destination's location. -/
structure BmvOp where
  id : Nat
  owner : Nat × Nat
  fmt : Nat
  cols : Nat
  stride : Nat
  perPage : Nat
  pages : List (Nat × Nat)
  xs : List Nat
  rows : List Nat
  dest : Nat
  count : Count
  deriving DecidableEq, Repr

/-- A parked write (R160, R161): its bytes by their offset from its address, and `issued`, which numbers the access or
copy operation it comes from. A failed one has left the queue and waits for its sequencer; `retry` is set while a retry
waits for an older entry's. -/
structure Parked where
  id : Nat
  va : W64
  cls : Nat
  eng : Nat
  cause : Nat
  bytes : List (Nat × Byte)
  size : Nat
  ctx : Nat
  owner : Nat × Nat
  issued : Nat := 0
  poison : Bool := false
  failed : Bool := false
  retry : Bool := false
  deriving DecidableEq, Repr

/-- A TLB entry (R154, R159): context, first virtual address, log2 of the page size, physical address, permissions,
layout and key slot. -/
structure TlbEnt where
  ctx : Nat
  va : Nat
  bits : Nat
  pa : Nat
  r : Bool
  w : Bool
  x : Bool
  layout : Nat
  key : Nat
  deriving DecidableEq, Repr

/-- A region registered by the quoin checker (R104). -/
structure Region where
  base : Nat
  len : Nat
  write : Bool
  eng : Nat
  count : BitVec 24
  span : Option Nat
  deriving DecidableEq, Repr

/-- An invalidation sent and not complete (R171, R172): by core, kind 0 va, 1 context, 2 all. -/
structure Tlbi where
  id : Nat
  core : Nat
  kind : Nat
  ctx : Nat
  va : Nat
  deriving DecidableEq, Repr

/-! ## Accesses -/

/-- Where a deferred load delivers its bytes. -/
inductive Dest where
  | sreg (n : Nat) (bytes : Nat) (signed : Bool)
  | greg (eng n : Nat)
  | lanes (phys : Nat) (lanes : List Nat)
  deriving DecidableEq, Repr

/-- What an access does when it is performed. -/
inductive Effect where
  | write (key : Nat) (bytes : List (Nat × Byte))
  | read (dest : Dest) (locs : List (Nat × Nat))
  | counter (k : Nat) (add : Bool) (v : W64)
  deriving DecidableEq, Repr

/-- An access issued and not yet performed at package scope (R165): performed at core scope when `atCore` is true. `op`
names the instruction or copy operation that it is one part of, and `fenced` is set once a fence of S has performed it at core
scope (R170, R227). `fencedAt` is the number of the first access that an engine-scope fence orders after it (R170). -/
structure Access where
  id : Nat
  op : Option Nat := none
  n : Nat
  eng : Nat
  owner : Nat × Nat := (0, 0)
  cls : Nat
  atCore : Bool := false
  fenced : Bool := false
  fencedAt : Option Nat := none
  eff : Effect
  deriving DecidableEq, Repr

/-! ## Stops -/

/-- A trap raised and not yet entered (R338). `resumePc` is the trapping sequencer's saved pc. -/
structure TrapPend where
  cause : Nat
  addr : W64
  eng : Nat
  cw : Bool := false
  deriving DecidableEq, Repr

/-- A stop request in progress (R129-R131): a drain with the cycle its budget ends, or a checkpoint, the cc it stops at
once that is known, and the entry of its safe point. `ends` is set once the leader has executed ENDT instead, and `cut` once a
forced cut has stopped every sequencer. `serves` is the launch, die point and instance that the stop makes room for
(R127). -/
structure StopReq where
  serves : Nat × Nat × Nat := (0, 0, 0)
  drain : Bool
  since : Nat
  budget : Nat := 0
  k : Option (BitVec 32) := none
  ends : Bool := false
  cut : Bool := false
  index : Nat := 0
  loopk : Bool := false
  deriving DecidableEq, Repr

/-- Modes of a core (R330). -/
inductive Mode where
  | run | stub | handler
  deriving DecidableEq, Repr

/-- The registers a safe-point entry names live (R77): s, v, g of V, M, C, F, m, and tiles. -/
structure Live where
  s : BitVec 32 := BitVec.allOnes 32
  v : BitVec 32 := BitVec.allOnes 32
  g : BitVec 64 := BitVec.allOnes 64
  m : BitVec 8 := BitVec.allOnes 8
  t : BitVec 16 := BitVec.allOnes 16
  deriving DecidableEq, Repr

/-- A stopped instance (R133): parked while its record lies in the save buffer, else spilled. Rings and parked writes
are kept here; the rest lies in the record's bytes, but for what no program can read back: where each sequencer stands in
its kernel, what it has acquired (`hid`), and what the pending posts release (`posts`). `restage` is set once other text
has been staged on the core. -/
structure Stopped where
  inst : Inst
  spilled : Bool := false
  escalated : Bool := false
  rings : Sparse Ring := {}
  replay : List Parked := []
  live : Live := {}
  hid : Sparse SeqState := {}
  posts : Sparse (List (List Nat)) := {}
  restage : Bool := false
  deriving DecidableEq, Repr

/-! ## A core -/

abbrev VReg := Sparse Word
abbrev Tile := Sparse Word

/-- The state of a tile (R217). -/
inductive TileSt where
  | free | active | held
  deriving DecidableEq, Repr

/-- One core: a compute core, or the service core, number 128 (R62, R330). `cl0Hold` is the class-0 reserve that a core
holding class-0 instances keeps (R136). While S runs a rebuild stub, `stubPc` and `stubEnded` are its saved pc and ENDED
flag (R134), and `stubSafe` its saved `atSafe`. `turn` is one more than the tag of the sequencer that took its turn last in
this cycle: the sequencers of a core take their turns in tag order (R17, R82). `tjob` is CORE_TILE as the transfer under way took
it (R222). -/
structure Core where
  seqs : Sparse SeqState := {}
  sreg : Sparse W64 := {}
  greg : Sparse W64 := {}
  stack : Sparse (List W64) := {}
  hsreg : Sparse W64 := {}
  hgreg : Sparse W64 := {}
  hstack : List W64 := []
  hseqs : Sparse SeqState := {}
  vreg : Sparse VReg := {}
  mreg : Sparse (BitVec 256) := {}
  rrb : BitVec 4 := 0
  tile : Sparse Tile := {}
  tileOwner : Sparse Nat := {}
  tileSt : Sparse TileSt := {}
  tileAbs : BitVec 16 := 0
  fmtTab : Sparse Word := {}
  events : Sparse (List Post) := {}
  rings : Sparse Ring := {}
  cwRec : List Nat := []
  cwBase : Nat := 0
  slipw : BitVec 4 := 4
  spdmax : Nat := 0x10000
  spdist : Nat := 0
  detmode : Bool := false
  regions : List Region := []
  nfull : Nat := 0
  nage : Nat := 0
  ctx : BitVec 6 := 0
  mode : Mode := .run
  modeFrom : Mode := .run
  fwHandler : Bool := false
  trapCause : BitVec 16 := 0
  trapAddr : W64 := 0
  trapEng : BitVec 4 := 0
  trapBase : BitVec 12 := 0
  trapVec : Word := 0
  trapPc : Sparse (BitVec 16 × BitVec 32) := {}
  wdog : Nat := 0x8000
  ntrap : Nat := 0
  nesc : Nat := 0
  rfstat : W64 := 0
  npark : Nat := 0
  nmiss : Nat := 0
  nwalk : Nat := 0
  nfault : Nat := 0
  nser : Nat := 0
  nwait : Nat := 0
  nmma : Nat := 0
  nmcast : Nat := 0
  npois : Nat := 0
  novf : Nat := 0
  tlb : List TlbEnt := []
  replay : List Parked := []
  copies : List CopyOp := []
  bmvs : List BmvOp := []
  inst : Option Inst := none
  active : Bool := false
  parked : Option Stopped := none
  spilled : List Stopped := []
  trapPend : Option TrapPend := none
  stopReq : Option StopReq := none
  cancel : Option Nat := none
  abandon : Option W64 := none
  handlerSince : Nat := 0
  escCause : BitVec 16 := 0
  escEng : BitVec 3 := 0
  escPend : Bool := false
  ctile : BitVec 17 := 0
  tjob : BitVec 17 := 0
  tbusy : Bool := false
  tfull : Bool := false
  trefused : Bool := false
  barw : List BarWait := []
  halted : Bool := false
  cl0Hold : Option Nat := none
  stubPc : Nat := 0
  stubEnded : Bool := false
  stubSafe : Option (Nat × Bool) := none
  turn : Nat := 0
  deriving DecidableEq, Repr

/-! ## Slices -/

/-- A deferred or reported fault of a slice (R300, R308, R328). -/
structure FaultRec where
  cause : Nat
  eng : Nat
  addr : W64
  pc : Nat
  core : Nat
  gen : BitVec 16
  delivered : Bool := false
  program : Bool := false
  deriving DecidableEq, Repr

/-- A slice context (R300). -/
structure Slice where
  gen : BitVec 16 := 0
  seeded : Bool := false
  fine : Nat := 0
  fg : BitVec 16 := 0
  infl : Bool := false
  ist : Bool := false
  frec : Option FaultRec := none
  parts : Sparse (Option Word) := {}
  roundOpen : Bool := false
  diff : Bool := false
  settled : Bool := false
  jump : Word := 0
  swept : Bool := false
  roundBelow : Bool := false
  parent : Nat := 0
  value : Word := 0
  verdict : Nat := 0
  deriving DecidableEq, Repr

/-- A slice set (R296-R300). `state`: 0 closed, 1 open, 2 cancelled, 3 closing. `opener` is the opener's core and instance.
`out` lists the outstanding tokens by slice and generation, 2^16 more for one that firmware holds. `opened` tells one
opening from another, `tabEnd` is where the opener's partition ends, for a table in its scratchpad (R298), and `path` the slices
beyond slice 0 that a tree's settled path has gone through, those that SRECYC has freed since included (R311). -/
structure SliceSet where
  state : Nat := 0
  ctx : Nat := 0
  opener : Nat × Nat × Nat := (0, 0, 0)
  token : Bool := false
  tree : Bool := false
  w : Nat := 0
  base : Nat := 0
  h : Nat := 0
  parts : Nat := 1
  tol : Word := 0
  maxSweeps : Nat := 0
  sweeps : Nat := 0
  exhausted : Bool := false
  first : Nat := 0
  tabMain : Bool := false
  tab : Nat := 0
  tabVa : Nat := 0
  tabEnd : Nat := 0
  p : Nat := 1
  pt : Nat := 0
  path : List Nat := []
  slices : Sparse Slice := {}
  out : List (Nat × Nat) := []
  opened : Nat := 0
  deriving DecidableEq, Repr

/-! ## Fabric -/

/-- A receive window (R269); `off` is set once a recomputation has made a group-only window invalid. -/
structure RxWin where
  ctx : Nat := 0
  base : W64 := 0
  z : Nat := 7
  bound : Bool := false
  groupOnly : Bool := false
  ring : Nat := 0
  off : Bool := false
  deriving DecidableEq, Repr

/-- A slot table entry (R262). -/
structure FSlot where
  dur : Nat := 0
  guard : Nat := 0
  dests : List (Nat × Nat × BitVec 64) := []
  deriving DecidableEq, Repr

/-- The running or armed rotation (R290). -/
structure Rotation where
  start : Nat
  count : Nat
  running : Bool := false
  cur : Nat := 0
  curStart : Nat := 0
  inGuard : Bool := false
  stopping : Bool := false
  budget : List (Nat × Nat) := []
  deriving DecidableEq, Repr

/-- What a send carries. -/
inductive Payload where
  | line (o : Nat) (op : Nat) (enables : List Nat) (bytes : List Byte)
  | partial_ (seq lv pos lineNo : Nat) (ws : List Word)
  | result (seq lineNo : Nat) (ws : List Word)
  | ack (status : Nat)
  deriving DecidableEq, Repr

/-- One copy of a send to one destination (R266-R268, R273). `st`: 0 waiting in the device, 1 launched, 2 performed,
3 failed. `bulk` marks a line of FSEND or FQSEND (R282), and `fwd` a packet that this device passes on, with the device that it comes
from and the receive fibre that it came on (R259). -/
structure Send where
  id : Nat
  acc : Nat
  core : Nat
  eng : Nat
  owner : Nat × Nat
  ctx : Nat
  cls : Nat
  dev : Nat
  win : Nat
  loopb : Bool := false
  poison : Bool := false
  bulk : Bool := false
  load : Payload
  st : Nat := 0
  status : Nat := 0
  resends : Nat := 0
  fibre : Nat := 0
  fwd : Option (Nat × Nat) := none
  deriving DecidableEq, Repr

/-- An FSEND in flight or a queue entry of FQSEND: the map entry's index and version at issue, the source location and
transmit offset of the next line, and how many are still to send (R276, R283, R284). `w` is where the window began of the version that
a queue entry was last sent under, or queued under. `st` 3 is failed. -/
structure Bulk where
  id : Nat
  core : Nat
  owner : Nat × Nat
  ctx : Nat
  cls : Nat
  queued : Bool
  dev : Nat := 0
  idx : Nat := 0
  ver : TxMap := {}
  src : Nat
  t : Nat
  w : Nat := 0
  lines : Nat
  st : Nat := 0
  deriving DecidableEq, Repr

/-- A device's own participation in a reduction (R278): its value at node (level, pos), the owner of each present slot as
id + 1, whether its climb has ended, how many result lines have come, the first status that a packet of it met, and whether a
fence has reported that. -/
structure Part where
  core : Nat
  owner : Nat × Nat
  acc : Nat
  ctx : Nat
  cls : Nat
  op : Nat
  level : Nat
  pos : Nat
  v : List Word
  owners : Sparse Nat
  ended : Bool := false
  got : Nat := 0
  bad : Nat := 0
  badDev : Nat := 0
  told : Bool := false
  deriving DecidableEq, Repr

/-- A reduction context (R278, R279), named by its result window and the low 8 bits of its sequence, which are all that a
packet carries: partials by level, position and line, the devices that have sent them, and the own participation. -/
structure Red where
  win : Nat
  seq : Nat
  part : Option Part := none
  partials : List ((Nat × Nat × Nat) × List Word) := []
  senders : List Nat := []
  deriving DecidableEq, Repr

/-- A ring register group of a fibre ring (R292), with the FTIME of the monitor's latest update. -/
structure OptRing where
  heat : BitVec 12 := 0x800
  mon : BitVec 12 := 0
  monAt : Nat := 0
  lambda : BitVec 4 := 0
  en : Bool := false
  touched : Bool := false
  deriving DecidableEq, Repr

/-- A fibre (R292, R294). `retrain` is set while it retrains by itself, and `deafAt` since when the receiver has discarded its
packets because it was paused. -/
structure Fibre where
  sat : BitVec 17 := 0
  up : Bool := false
  paused : Bool := false
  pausedAt : Nat := 0
  wholeAt : Option Nat := none
  nretrain : Nat := 0
  failed : Bool := false
  retrain : Bool := false
  deafAt : Option Nat := none
  deriving DecidableEq, Repr

/-- A link key slot (R258) but its key and valid bit, which every key slot has. -/
structure LinkKey where
  salt : Word := 0
  peer : BitVec 12 := 0
  counter : Nat := 0
  deriving DecidableEq, Repr

/-- The fabric of the device. `circuits` is the phase configuration: each device joined by a circuit, the fibres that
carry circuits to it, and the devices joined to it (R259). `retraining` holds from the clearing of QUIESCE until the
links are trained (R260). `gone` names the reductions that this device has abandoned or whose participation has ended, as far
back as 8 bits of a sequence tell, and `refused` those of which a packet was refused here before the own participation, by
window, sequence and status (R388). -/
structure Fabric where
  devid : BitVec 12 := 0
  quiesce : Bool := true
  seal_ : Bool := false
  retraining : Bool := false
  circuits : List (Nat × List Nat × List Nat) := []
  slotMode : Bool := false
  epoch : Word := 0
  slotUsr : BitVec 7 := 0
  nrefused : Nat := 0
  nretry : Nat := 0
  ndrop : Nat := 0
  naband : Nat := 0
  txmap : Sparse (Option TxMap) := {}
  rxwin : Sparse (Option RxWin) := {}
  fslot : Sparse FSlot := {}
  fslotNext : Sparse (Option FSlot) := {}
  rot : Option Rotation := none
  rotsDone : Word := 0
  sends : List Send := []
  bulks : List Bulk := []
  reds : List Red := []
  gone : List (Nat × Nat) := []
  refused : List (Nat × Nat × Nat) := []
  rings : Sparse OptRing := {}
  fibres : Sparse Fibre := {}
  optTemp : BitVec 16 := 0
  optIrq0 : BitVec 64 := 0
  optIrq1 : BitVec 64 := 0
  lkey : Sparse LinkKey := {}
  deriving DecidableEq, Repr

/-! ## Host, queues and the plinth's records -/

/-- A consumed launch entry that is not accepted yet (R113): its addresses, flags and completion counter, whether its
must-be-zero bits are zero, and the record and table as read once it became a candidate, or the status that it completes
with (R116, R122). -/
structure QEntry where
  recAddr : W64 := 0
  tabAddr : W64 := 0
  compAddr : W64 := 0
  flags : Nat := 0
  compCtr : Nat := 0
  clean : Bool := true
  read : Option (Nat ⊕ (LoopRec × LoopTab)) := none
  deriving DecidableEq, Repr

/-- A submission queue (R113, R122, R349, R350). `check` is when the head's sequence number was first found wrong. -/
structure Queue where
  tail : Nat := 0
  head : Nat := 0
  halted : Bool := false
  nextSeq : Nat := 1
  check : Option Nat := none
  deficit : Nat := 0
  pend : List QEntry := []
  lastLaunch : Nat := 0
  deriving DecidableEq, Repr

/-- A barrier unit (R143): generations released, and n and the arrivals of the current generation and of those after it,
which fill while it is not released. -/
structure Barrier where
  gen : Nat := 0
  fills : List (Nat × Nat) := []
  deriving DecidableEq, Repr

/-- A BAR2 window (R351). -/
structure Bar2 where
  base : Nat := 0
  en : Bool := false
  key : Nat := 0
  deriving DecidableEq, Repr

/-- Host link, firmware-visible plinth blocks, boot and power. Queue q of context x is number 16·x + q, and q = 8 + c for
the pool entries of class c (R126); `visited` is the queue that selection visited last, and `inVisit` holds while it may
still accept from it. `msix` lists the vectors raised, oldest first, and `msixTab` holds the MSI-X
table as the host has written it (R348). -/
structure Plinth where
  ctxTab : Sparse Byte := {}
  queues : Sparse Queue := {}
  qentry : Sparse Byte := {}
  visited : Nat := 1023
  inVisit : Bool := false
  bar2 : Sparse Bar2 := {}
  nrelax : Nat := 0
  mailbox : Sparse Byte := {}
  msix : List Nat := []
  msixTab : Sparse Byte := {}
  stage : BitVec 4 := 0
  fatal : Bool := false
  fwver : Word := 0
  powered : Bool := false
  meas : Sparse (BitVec 256) := {}
  measIn : Sparse (Option Byte) := {}
  keyVal : Sparse Bool := {}
  keys : Sparse Byte := {}
  elog : Sparse Byte := {}
  elogHead : BitVec 9 := 0
  elogTail : BitVec 9 := 0
  nlost : Nat := 0
  staging : Sparse Byte := {}
  committed : Sparse Byte := {}
  ltsBusy : Bool := false
  ltsRefused : Bool := false
  ncommit : Nat := 0
  ltsLast : Option Nat := none
  pwrLim : Nat := 1500
  overLim : Bool := false
  throttle : Nat := 16
  throttleAt : Nat := 0
  intPend : BitVec 8 := 0
  intEn : BitVec 8 := 0
  esc : Sparse (BitVec 64) := {}
  deriving DecidableEq, Repr

/-- Launches, pools and counters. -/
structure Tasks where
  launches : List Launch := []
  lastNum : Nat := 0
  pools : Sparse (List Child) := {}
  ovf : Sparse (List Child) := {}
  ovfHead : Sparse Nat := {}
  live : List Nat := [0, 1, 2, 3]
  master : Nat := 0
  preDrain : Nat := 0x4000
  preKill : BitVec 16 := 0xFFFF
  cl0Part : Nat := 4
  nckpt : Nat := 0
  nkill : Nat := 0
  nforce : Nat := 0
  cause : BitVec 16 := 0
  novf : Nat := 0
  placedNo : Nat := 0
  counters : Sparse W64 := {}
  barriers : Sparse Barrier := {}
  deriving DecidableEq, Repr

/-- A turn of the schedule: which agent acts next. `seq` names a sequencer, and whether its accesses are left to be
performed later; `event` names an event row of the table, and whether a write that it makes at core scope is left to be
performed at package scope later; `tick` advances the cycle. -/
inductive Turn where
  | seq (core : Nat) (e : Eng) (defer : Bool)
  | event (i : Instr) (defer : Bool)
  | tick
  deriving DecidableEq, Repr

/-- What the default schedule does next: a sequencer's turn, or events until none is enabled. -/
inductive Phase where
  | seq (core : Nat) (e : Eng)
  | events
  deriving DecidableEq, Repr

/-- The bytes of every scratchpad and of main memory, by location. -/
abbrev Memory := Sparse Byte

/-- The whole device; `unitLast` is the context that a scratchpad unit was last given or reserved to, plus one, by 64 times
the core plus the unit (R112); `dropped` are translations that full caches have given up, which an invalidation still waits for
(R172). The last group of fields is the model's own, not the spec's: the schedule and its position, the
executing sequencer, the word it issues, whether its accesses are deferred, and the counters that give free values,
accesses and waits their numbers. -/
structure State where
  cores : Sparse Core := {}
  mem : Memory := {}
  lineKey : Sparse Nat := {}
  poison : Sparse Bool := {}
  imem : Sparse Word := {}
  hmem : Sparse Word := {}
  unitLast : Sparse Nat := {}
  accs : List Access := []
  tasks : Tasks := {}
  slices : Sparse SliceSet := {}
  sliceCnt : BitVec 64 := 0
  fabric : Fabric := {}
  plinth : Plinth := {}
  shared : List TlbEnt := []
  dropped : List TlbEnt := []
  tlbis : List Tlbi := []
  cycle : Nat := 0
  ftime : Nat := 0
  sched : List Turn := []
  phase : Phase := .seq 0 .s
  curCore : Nat := 0
  curEng : Eng := .s
  word : Word := 0
  defer : Bool := false
  nonce : Nat := 0
  nextId : Nat := 0
  order : Nat := 0
  deriving DecidableEq, Repr

/-- The machine right after reset: every field at the value the spec states for reset, and where it states none at
the value log 3, 4 and 5 name. No instance runs, and the boot sequence has not started (R353). -/
def State.reset : State := {}

end Sys2Proof.Machine
end

