-- ==== Sys2Proof/Machine/Mem.lean ====
section
/-!
DEFINITION. Memory: locations, bytes under key slots, poison, the per-core address map and its checks (R146-R149), and
translation (R152-R159).
-/

namespace Sys2Proof.Machine

/-! ## Locations

Every byte of the device has one location. Scratchpads lie at their package-window addresses (R146), main memory from
2^60 on in the module view (R152): module m, offset o at 2^60 + m·2^39 + o. -/

def spBase : Nat := 0x100000000
def mainBase : Nat := 2 ^ 60
def lineBytes : Nat := 128
def unitBytes : Nat := 0x10000

/-- The location of physical scratchpad offset `o` of core `n`. -/
def spLoc (n o : Nat) : Nat := spBase + n * 0x400000 + o

/-- Whether a location lies in main memory. -/
def isMain (a : Nat) : Bool := decide (mainBase ≤ a)

/-- What a location that no write has reached reads as: zero in scratchpad, and in main memory nothing fixed (R156).
DESIGN CHOICE (log 4). -/
def unlisted (a : Nat) : Option Byte := if isMain a then none else some 0

/-- The canonical form of memory: addresses rise, and no entry equals what an unlisted location reads as. -/
def Memory.wf (m : Memory) : Bool :=
  listRising none m.entries && m.entries.all (fun e => decide (unlisted e.1 ≠ some e.2))

/-- Memory with byte `b` at `a`, in canonical form. -/
def putByte (m : Memory) (a : Nat) (b : Byte) : Memory :=
  if unlisted a = some b then m.drop a else m.put a b

/-- The key slot of a cached translation whose slot is no longer valid: reads give zero, writes are lost (R157). -/
def deadKey : Nat := 1023

/-- The byte at `a` read under key slot `key` (R156): scratchpad has no key. DESIGN CHOICE (log 4).
A line goes by the number of the slot that it was written under, whatever KEYS firmware has loaded there since.
DESIGN CHOICE (log 94). -/
def memRead (s : State) (key a : Nat) : Byte :=
  if isMain a then
    if key = deadKey then 0
    else if s.lineKey.get 0 (a / lineBytes) = key + 1 then (s.mem.get? a).getD (Config.freeByte s.nonce a)
    else Config.freeByte s.nonce a
  else s.mem.get 0 a

/-- Every byte of line `l` given a value, for a line last written under another key slot or never (R156).
DESIGN CHOICE (log 66). -/
def fillLine (s : State) (l : Nat) : Memory :=
  (List.range lineBytes).foldl
    (fun m i => putByte m (l * lineBytes + i) (Config.freeByte s.nonce (l * lineBytes + i))) s.mem

/-- The state with `bytes`, all of line `l`, written under `key` as one indivisible write (R22, R156, R164): a write of
the whole line clears its poison. DESIGN CHOICE (log 66). -/
def writeLine (s : State) (key l : Nat) (bytes : List (Nat × Byte)) : State :=
  if isMain (l * lineBytes) ∧ key = deadKey then s
  else
    let whole := decide (bytes.length = lineBytes)
    let m0 :=
      if isMain (l * lineBytes) ∧ s.lineKey.get 0 l ≠ key + 1 ∧ whole = false then fillLine s l else s.mem
    { s with
      mem := bytes.foldl (fun m e => putByte m e.1 e.2) m0
      lineKey := if isMain (l * lineBytes) then s.lineKey.set 0 l (key + 1) else s.lineKey
      poison := if whole then s.poison.drop l else s.poison }

/-- The lines that a list of located bytes touches, in the order met. -/
def linesOf (bytes : List (Nat × Byte)) : List Nat :=
  bytes.foldl (fun ls e => if ls.contains (e.1 / lineBytes) then ls else ls ++ [e.1 / lineBytes]) []

/-- The state with located bytes written, line by line. -/
def writeBytes (s : State) (key : Nat) (bytes : List (Nat × Byte)) : State :=
  (linesOf bytes).foldl
    (fun t l => writeLine t key l (bytes.filter (fun e => e.1 / lineBytes == l))) s

/-- Bytes in ascending order as a little-endian number (R2), and the first n bytes of a number. -/
def leNat : List Byte → Nat
  | [] => 0
  | b :: l => b.toNat + 256 * leNat l
def leBytes : Nat → Nat → List Byte
  | 0, _ => []
  | n + 1, v => BitVec.ofNat 8 v :: leBytes n (v / 256)

/-- The bytes at n consecutive locations from `a`, without regard to accesses still pending. -/
def readLocs (s : State) (key a n : Nat) : List Byte := (List.range n).map (fun i => memRead s key (a + i))

/-- Located bytes from `a` upward. -/
def locate (a : Nat) (bs : List Byte) : List (Nat × Byte) := bs.mapIdx (fun i b => (a + i, b))

/-- Plinth reads and writes at locations, at package scope. -/
def readNat (s : State) (key a n : Nat) : Nat := leNat (readLocs s key a n)
def writeNat (s : State) (key a n v : Nat) : State := writeBytes s key (locate a (leBytes n v))

/-! ## Physical addresses and translation -/

/-- The location of a physical address in the view its bit 43 names, where memory is fitted (R152).
DESIGN CHOICE (log 6). -/
def paLoc (pa : Nat) : Option Nat :=
  if bitsOf pa 43 1 = 1 then
    if bitsOf pa 0 39 < Config.moduleBytes then some (mainBase + bitsOf pa 39 4 * 2 ^ 39 + bitsOf pa 0 39) else none
  else
    let x := bitsOf pa 0 43
    if x < 16 * Config.moduleBytes then
      some (mainBase + (x >>> 12) % 16 * 2 ^ 39 + ((x >>> 16) <<< 12 + x % 4096))
    else none

/-- Whether `n` bytes from a physical address, aligned to n, lie wholly within fitted memory of its view. -/
def paFits (pa n : Nat) : Bool :=
  if bitsOf pa 43 1 = 1 then decide (bitsOf pa 0 39 + n ≤ Config.moduleBytes)
  else decide (bitsOf pa 0 43 + n ≤ 16 * Config.moduleBytes)

/-- A context descriptor field: `n` bytes at offset `o` of context `x` (R110). -/
def ctxField (s : State) (x o n : Nat) : Nat :=
  leNat ((List.range n).map (fun i => s.plinth.ctxTab.get 0 (64 * x + o + i)))

def ctxValid (s : State) (x : Nat) : Bool := decide (bitsOf (ctxField s x 0x0B 1) 0 1 = 1)
def ctxKey (s : State) (x : Nat) : Nat := ctxField s x 0x08 2 % 512

/-- Whether key slot k may be named by a leaf (R157). -/
def keyValid (s : State) (k : Nat) : Bool := s.plinth.keyVal.get false k

def pageBits (lvl : Nat) : Nat := if lvl = 0 then 16 else if lvl = 1 then 21 else 30
def walkShift (lvl : Nat) : Nat := if lvl = 4 then 48 else if lvl = 3 then 39 else if lvl = 2 then 30 else if lvl = 1 then 21 else 16
def walkBits (lvl : Nat) : Nat := if lvl = 4 then 4 else if lvl = 0 then 5 else 9

/-- Whether a leaf entry is malformed (R154). -/
def leafBad (s : State) (e lvl : Nat) : Bool :=
  let pa := bitsOf e 12 32 * 4096
  let layout := bitsOf e 5 2
  decide (pa % 2 ^ pageBits lvl ≠ 0) || decide (layout = 3) ||
  (decide (layout = 1 ∨ layout = 2) && (decide (lvl = 0) || decide (bitsOf pa 43 1 = 0))) ||
  decide (bitsOf e 44 9 ≥ 448) || !keyValid s (bitsOf e 44 9) || !paFits pa (2 ^ pageBits lvl) ||
  decide (bitsOf e 7 5 ≠ 0) || decide (bitsOf e 53 11 ≠ 0)

/-- The walk of R154 from the table at `t`, `lvl` levels above the last. A fault is none: 0x0008. A root that is no multiple of 4 KiB is
walked from where it stands, and its bits above 43 name nothing. DESIGN CHOICE (log 94). -/
def walkFrom (s : State) (x va : Nat) : Nat → Nat → Option TlbEnt
  | lvl, t =>
    if !paFits t 4096 then none
    else
      match paLoc (t + 8 * bitsOf va (walkShift lvl) (walkBits lvl)) with
      | none => none
      | some a =>
        let e := readNat s (ctxKey s x) a 8
        if bitsOf e 0 1 = 0 then none
        else if bitsOf e 1 1 = 0 then
          match lvl with
          | 0 => none
          | l + 1 =>
            if bitsOf e 2 10 ≠ 0 ∨ bitsOf e 44 20 ≠ 0 then none
            else walkFrom s x va l (bitsOf e 12 32 * 4096)
        else if lvl > 2 ∨ leafBad s e lvl then none
        else some ⟨x, va / 2 ^ pageBits lvl * 2 ^ pageBits lvl, pageBits lvl, bitsOf e 12 32 * 4096,
          decide (bitsOf e 2 1 = 1), decide (bitsOf e 3 1 = 1), decide (bitsOf e 4 1 = 1), bitsOf e 5 2, bitsOf e 44 9⟩

/-- The walk of R154 of context x's tables, for an address of main memory (R146). DESIGN CHOICE (log 20). -/
def walk (s : State) (x va : Nat) : Option TlbEnt :=
  if 0x10000000000 ≤ va ∧ va < 0x10000000000000 then walkFrom s x va 4 (ctxField s x 0 8) else none

/-- Whether a cached entry translates address va of context x. -/
def TlbEnt.hits (t : TlbEnt) (x va : Nat) : Bool :=
  decide (t.ctx = x) && decide (va / 2 ^ t.bits = t.va / 2 ^ t.bits)

/-- The location that an entry gives an address, and the key slot it is reached under (R157). -/
def TlbEnt.place (t : TlbEnt) (s : State) (va : Nat) : Nat × Nat :=
  ((paLoc (t.pa + va % 2 ^ t.bits)).getD mainBase, if keyValid s t.key then t.key else deadKey)

/-! ## Cores and sequencers -/

def State.core (s : State) (n : Nat) : Core := s.cores.get {} n
def State.setCore (s : State) (n : Nat) (c : Core) : State := { s with cores := s.cores.set {} n c }
def Core.seq (c : Core) (e : Eng) : SeqState := (if c.mode = .handler then c.hseqs else c.seqs).get {} e.tag
def Core.setSeq (c : Core) (e : Eng) (q : SeqState) : Core :=
  if c.mode = .handler then { c with hseqs := c.hseqs.set {} e.tag q } else { c with seqs := c.seqs.set {} e.tag q }

/-- Saturating increment of a count of `w` bits. -/
def satInc (w n : Nat) : Nat := if n + 1 < 2 ^ w then n + 1 else 2 ^ w - 1

/-- The context a core's accesses run in (R159): the running instance's, or CTX on the service core. -/
def Core.ctxOf (c : Core) (n : Nat) : Nat :=
  if n = Config.serviceCore then c.ctx.toNat
  else match c.inst with
    | some i => i.ctx
    | none => 0

/-- Privileged code: the service core always, a compute core in handler mode (R330). -/
def Core.priv (c : Core) (n : Nat) : Bool := decide (n = Config.serviceCore) || decide (c.mode = .handler)

/-- Entries that full caches have given up: what was translated through them may still be in flight (R172). -/
def State.displace (s : State) (l : List TlbEnt) : State :=
  { s with dropped := s.dropped ++ l.filter (fun t => !s.dropped.contains t) }

/-- Translation of an address (R159): the core's TLB, then the shared cache, then a walk; what is found is cached, the
oldest entry leaving a full cache (log 5). Nothing that faults is cached. DESIGN CHOICE (log 20). -/
def xlate (s : State) (n x va : Nat) : State × Option TlbEnt :=
  let c := s.core n
  match c.tlb.find? (fun t => t.hits x va) with
  | some t => (s, some t)
  | none =>
    let c := { c with nmiss := satInc 16 c.nmiss }
    match s.shared.find? (fun t => t.hits x va) with
    | some t => ((s.displace (c.tlb.drop 511)).setCore n { c with tlb := (t :: c.tlb).take 512 }, some t)
    | none =>
      let c := { c with nwalk := satInc 16 c.nwalk }
      match walk s x va with
      | none => (s.setCore n { c with nfault := satInc 16 c.nfault }, none)
      | some t =>
        let s1 := s.displace (c.tlb.drop 511 ++ s.shared.drop 16383)
        ({ s1 with shared := (t :: s.shared).take 16384 }.setCore n { c with tlb := (t :: c.tlb).take 512 }, some t)

/-! ## The address map -/

/-- What an access does with the bytes: a load or operand read, a store, a copy's write, or a text read (R148, R154). -/
inductive Acc where
  | load | store | copyWrite | text
  deriving DecidableEq, Repr

/-- Where a checked address leads. -/
inductive Place where
  | mem (a key : Nat)
  | tx (t : Nat)
  | dev (off : Nat)
  deriving DecidableEq, Repr

/-- The partition of an instance holds the bytes (R112). -/
def Inst.holds (i : Inst) (off len : Nat) : Bool :=
  decide (i.base * unitBytes ≤ off) && decide (off + len ≤ (i.base + i.units) * unitBytes)

/-- The instances a core has given partitions to: running, parked and spilled (R112, R133). -/
def Core.insts (c : Core) : List Inst :=
  c.inst.toList ++ (c.parked.toList ++ c.spilled).map (·.inst)

/-- An access through a window lies within a partition given to an instance of context x (R147). DEDUCED (log 14). -/
def windowOk (s : State) (t x off len : Nat) : Bool :=
  (s.core t).insts.any (fun i => decide (i.ctx = x) && i.holds off len)

/-- Range, reach and partition (check 3 of R149) and the privilege of core 128 (check 4): the place before translation,
where main memory stands as `none`. DEDUCED (log 14). -/
def placeOf (s : State) (n : Nat) (e : Eng) (acc : Acc) (a len : Nat) : Except Nat (Option Place) :=
  let c := s.core n
  let service := decide (n = Config.serviceCore)
  let ld := decide (acc = .load) || decide (acc = .text)
  if a + len ≤ 0x400000 then
    match c.inst with
    | some i => if a + len ≤ i.units * unitBytes then .ok (some (.mem (spLoc n (i.base * unitBytes + a)) 0)) else .error 6
    | none => if service && decide (a + len ≤ 0x100000) then .ok (some (.mem (spLoc n a) 0)) else .error 6
  else if 0x1000000 ≤ a ∧ a + len ≤ 0x3000000 then
    let k := (a - 0x1000000) / 0x400000
    let off := (a - 0x1000000) % 0x400000
    let t := n / 8 * 8 + k
    if service ∨ off + len > 0x400000 ∨ e = .f ∨ (e = .m ∧ ld = false) then .error 6
    else if windowOk s t (c.ctxOf n) off len then .ok (some (.mem (spLoc t off) 0)) else .error 6
  else if 0x100000000 ≤ a ∧ a + len ≤ 0x100000000 + 129 * 0x400000 then
    let t := (a - 0x100000000) / 0x400000
    let off := (a - 0x100000000) % 0x400000
    if off + len > 0x400000 ∨ e = .m ∨ e = .f then .error 6
    else if t = Config.serviceCore then
      if off + len > 0x100000 then .error 6
      else if service then .ok (some (.mem (spLoc t off) 0))
      else if e ≠ .s then .error 6
      else if c.priv n then .ok (some (.mem (spLoc t off) 0)) else .error 4
    else if service then .ok (some (.mem (spLoc t off) 0))
    else if windowOk s t (c.ctxOf n) off len then .ok (some (.mem (spLoc t off) 0)) else .error 6
  else if 0x300000000 ≤ a ∧ a + len ≤ 0x400000000 then
    if e = .m ∨ ld ∨ (e = .c ∧ acc = .store) then .error 6 else .ok (some (.tx (a - 0x300000000)))
  else if 0x400000000 ≤ a ∧ a + len ≤ 0x401000000 then
    if e = .s ∧ service then .ok (some (.dev (a - 0x400000000))) else .error 6
  else if 0x10000000000 ≤ a ∧ a + len ≤ 0x10000000000000 then
    if e = .v ∨ e = .m ∨ e = .f then .error 6 else .ok none
  else .error 6

/-- A trap cause with the address it reports. -/
abbrev Bad := Nat × W64

/-- Checks 2 to 6 of R149 on `len` bytes at `a` that lie in one line or one aligned word, for an access of sequencer e
of core n. The state keeps what translation cached and counted. -/
def resolve (s : State) (n : Nat) (e : Eng) (acc : Acc) (a len : Nat) : State × Except Bad Place :=
  let ld := decide (acc = .load) || decide (acc = .text)
  if ld ∧ 0x300000000 ≤ a ∧ a < 0x400000000 then (s, .error (7, BitVec.ofNat 64 a))
  else
    match placeOf s n e acc a len with
    | .error c => (s, .error (c, BitVec.ofNat 64 a))
    | .ok (some p) => (s, .ok p)
    | .ok none =>
      match xlate s n ((s.core n).ctxOf n) a with
      | (s, none) => (s, .error (8, BitVec.ofNat 64 a))
      | (s, some t) =>
        let ok := match acc with
          | .load => t.r
          | .store => t.w
          | .copyWrite => t.w
          | .text => t.x
        if ok then
          let p := t.place s a
          (s, .ok (.mem p.1 p.2))
        else
          let c := s.core n
          (s.setCore n { c with nfault := satInc 16 c.nfault }, .error (9, BitVec.ofNat 64 a))

end Sys2Proof.Machine
end

