-- ==== Sys2Proof/Machine/Regs.lean ====
section
/-!
DEFINITION. The registers of a core and of its sequencers: every read and write goes through these accessors, where the
hard-wired registers, the handler banks and the rotation live.
-/

namespace Sys2Proof.Machine

/-! ## Vector clocks (R62, R103, R106) -/

def Clk.get (k : Clk) : Eng → BitVec 24
  | .s => k.s | .v => k.v | .m => k.m | .c => k.c | .f => k.f
def Clk.set (k : Clk) (e : Eng) (x : BitVec 24) : Clk := match e with
  | .s => { k with s := x } | .v => { k with v := x } | .m => { k with m := x } | .c => { k with c := x }
  | .f => { k with f := x }

/-- x ≥ y on counts modulo 2^24 (R106). -/
def cntGe (x y : BitVec 24) : Bool := decide ((x - y).toNat < 2 ^ 23)
def cntMax (x y : BitVec 24) : BitVec 24 := if cntGe x y then x else y
def Clk.merge (a b : Clk) : Clk :=
  ⟨cntMax a.s b.s, cntMax a.v b.v, cntMax a.m b.m, cntMax a.c b.c, cntMax a.f b.f⟩

/-- A slot with clock k deposited on it: merged, component by component, with what was deposited before (R103). -/
def Slot.deposit (x : Slot) (k : Clk) : Slot := { x with clk := some (x.clk.elim k (·.merge k)) }

/-- The vector clock v merged with a deposited clock, where one was deposited (R103). -/
def Clk.learn (v : Clk) (k : Option Clk) : Clk := k.elim v v.merge

/-! ## Scalar and general registers, stacks (R62, R331) -/

/-- sn: s0 reads zero (R62); a handler has a bank of its own (R331). -/
def Core.s (c : Core) (n : Nat) : W64 :=
  if n = 0 then 0 else if c.mode = .handler then c.hsreg.get 0 n else c.sreg.get 0 n

/-- sn := v; a write to s0 is discarded (R62). -/
def Core.setS (c : Core) (n : Nat) (v : W64) : Core :=
  if n = 0 then c
  else if c.mode = .handler then { c with hsreg := c.hsreg.set 0 n v } else { c with sreg := c.sreg.set 0 n v }

/-- gn of engine e. -/
def Core.g (c : Core) (e : Eng) (n : Nat) : W64 :=
  if c.mode = .handler then c.hgreg.get 0 n else c.greg.get 0 (16 * e.tag + n)
def Core.setG (c : Core) (e : Eng) (n : Nat) (v : W64) : Core :=
  if c.mode = .handler then { c with hgreg := c.hgreg.set 0 n v }
  else { c with greg := c.greg.set 0 (16 * e.tag + n) v }

/-- The parameter stack of engine e, top first (R95). -/
def Core.stk (c : Core) (e : Eng) : List W64 := if c.mode = .handler then c.hstack else c.stack.get [] e.tag
def Core.setStk (c : Core) (e : Eng) (l : List W64) : Core :=
  if c.mode = .handler then { c with hstack := l } else { c with stack := c.stack.set [] e.tag l }

/-! ## Vector and mask registers (R71, R173, R174) -/

/-- The physical register of a vector field (R71). -/
def phys (n : Nat) (rrb : BitVec 4) : Nat := if n < 16 then n else 16 + (n - 16 + rrb.toNat) % 16

def VReg.lane (v : VReg) (i : Nat) : Word := v.get 0 i
def Core.v (c : Core) (n : Nat) : VReg := c.vreg.get {} (phys n c.rrb)
def Core.setV (c : Core) (n : Nat) (v : VReg) : Core := { c with vreg := c.vreg.set {} (phys n c.rrb) v }

/-- mn: m0 reads all ones, and writes to it are discarded (R174). -/
def Core.m (c : Core) (n : Nat) : BitVec 256 := if n = 0 then BitVec.allOnes 256 else c.mreg.get 0 n
def Core.setM (c : Core) (n : Nat) (v : BitVec 256) : Core := if n = 0 then c else { c with mreg := c.mreg.set 0 n v }

/-- The 256 bits whose bit i is f i. -/
def maskOf (f : Nat → Bool) : BitVec 256 :=
  BitVec.ofNat 256 ((List.range 256).foldl (fun a i => if f i then a + 2 ^ i else a) 0)

/-! ## Tiles (R198, R199) -/

/-- The physical cell of logical element (i, j) under direction d, as 32·row + column (R199). -/
def cellIx (d i j : Nat) : Nat := match d with
  | 0 => 32 * i + j
  | 1 => 32 * j + i
  | 2 => 32 * i + (i + j) % 32
  | _ => 32 * i + (j + 32 - i) % 32

/-- The logical column of physical cell (r, c) under direction d, with its row: the inverse of `cellIx`. -/
def cellInv (d k : Nat) : Nat × Nat :=
  let r := k / 32
  let c := k % 32
  match d with
  | 0 => (r, c)
  | 1 => (c, r)
  | 2 => (r, (c + 32 - r) % 32)
  | _ => (r, (c + r) % 32)

def Core.cell (c : Core) (t d i j : Nat) : Word := (c.tile.get {} t).get 0 (cellIx d i j)

/-- Tile t with logical element (i, j) under direction d set to f i j, for all of them. -/
def Core.setTile (c : Core) (t d : Nat) (f : Nat → Nat → Word) : Core :=
  { c with tile := c.tile.set {} t (Sparse.ofFn 1024 0 (fun k => let p := cellInv d k; f p.1 p.2)) }

/-- Byte o of a tile's image (R198). -/
def Core.tileByte (c : Core) (t o : Nat) : Byte :=
  ((c.tile.get {} t).get 0 (o / 4)).extractLsb' (8 * (o % 4)) 8

/-- The tile of an image given byte by byte. -/
def tileOfImage (f : Nat → Byte) : Tile :=
  Sparse.ofFn 1024 0 (fun k => BitVec.ofNat 32 (leNat [f (4 * k), f (4 * k + 1), f (4 * k + 2), f (4 * k + 3)]))

/-! ## The executing sequencer -/

def State.me (s : State) : Core := s.core s.curCore
def State.setMe (s : State) (c : Core) : State := s.setCore s.curCore c
def State.q (s : State) : SeqState := s.me.seq s.curEng
def State.setQ (s : State) (q : SeqState) : State := s.setMe (s.me.setSeq s.curEng q)
def State.sval (s : State) (n : BitVec 5) : W64 := s.me.s n.toNat
def State.gval (s : State) (n : BitVec 4) : W64 := s.me.g s.curEng n.toNat
def State.putS (s : State) (n : BitVec 5) (v : W64) : State := s.setMe (s.me.setS n.toNat v)
def State.putG (s : State) (n : BitVec 4) (v : W64) : State := s.setMe (s.me.setG s.curEng n.toNat v)

/-- The running instance of a core, as a pair that names it: launch number and placement number. -/
def Inst.key (i : Inst) : Nat × Nat := (i.launch, i.placed)
def Core.owner (c : Core) : Nat × Nat := match c.inst with
  | some i => i.key
  | none => (0, 0)

/-- The running context. -/
def State.ctxNow (s : State) : Nat := s.me.ctxOf s.curCore

/-! ## Rings of an instance (R240, R244) -/

/-- The rings of the instance that `key` names on core c: running, parked or spilled. -/
def Core.ringsOf (c : Core) (key : Nat × Nat) : Sparse Ring :=
  if c.owner = key then c.rings
  else match ((c.parked.toList ++ c.spilled).find? (fun p => p.inst.key = key)) with
    | some p => p.rings
    | none => {}

def Stopped.withRings (key : Nat × Nat) (r : Sparse Ring) (p : Stopped) : Stopped :=
  if p.inst.key = key then { p with rings := r } else p

def Core.setRingsOf (c : Core) (key : Nat × Nat) (r : Sparse Ring) : Core :=
  if c.owner = key then { c with rings := r }
  else { c with parked := c.parked.map (Stopped.withRings key r), spilled := c.spilled.map (Stopped.withRings key r) }

end Sys2Proof.Machine
end

