-- ==== Sys2Proof/Machine/Save.lean ====
section
/-!
DEFINITION. The save record of a stopped instance: its layout, parking and spilling (R132, R133, R219, R244, R344,
R345).
-/

namespace Sys2Proof.Machine

/-- Physical scratchpad location of byte o of a core's save buffer, unit 63 (R112, R344). -/
def saveLoc (n o : Nat) : Nat := spLoc n (63 * unitBytes + o)
def recordBytes : Nat := 0xF000

/-- What a stop adds to the state it saves: FORCED, the safe-point index, the stub word, the pending trap. -/
structure StopInfo where
  forced : Bool := false
  index : Nat := 0
  stub : Option Nat := none
  trap : Option TrapPend := none
  live : Live := {}
  deriving DecidableEq, Repr

/-- A slice token (R299). -/
def sliceToken (set n : Nat) (g : BitVec 16) : W64 := BitVec.ofNat 64 (g.toNat * 2 ^ 32 + n * 2 ^ 16 + set)

def boolBit (b : Bool) (k : Nat) : Nat := if b then 2 ^ k else 0

/-- A nonzero byte of an area that the safe-point entry does not name: zero or the register's value (R344).
DESIGN CHOICE (log 22). -/
def deadByte (s : State) (o : Nat) (b : Byte) : Byte := if Config.freeBool s.nonce o then b else 0

/-- The bytes of one register's area at offset o. -/
def regArea (s : State) (live : Bool) (o n v : Nat) : List (Nat × Byte) :=
  (locate o (leBytes n v)).map (fun e => if live then e else (e.1, deadByte s e.1 e.2))

/-- Tiles of the held and spilled masks of a stop (R219). -/
def heldMask (c : Core) (x : Nat) (live : BitVec 16) : BitVec 16 :=
  BitVec.ofNat 16 ((List.range 16).foldl (fun a t =>
    if live.getLsbD t && decide (c.tileSt.get .free t = .active) && decide (c.tileOwner.get 0 t = x) &&
      !c.tileAbs.getLsbD t then a + 2 ^ t else a) 0)

/-- S is at a rebuild stub, where its own pc and ENDED flag wait for the stub's RTE (R134, R342). -/
def Core.inStub (c : Core) : Bool := decide (c.mode = .stub) || (decide (c.mode = .handler) && decide (c.modeFrom = .stub))

/-- The header of a record (R345). A binding exists only with its deferral enabled, bit 16 of the abandon word (R308, R322). Of a pc of
65,536 the record holds the low 16 bits, 0. DESIGN CHOICE (log 94). -/
def headerBytes (c : Core) (i : Inst) (info : StopInfo) : List (Nat × Byte) :=
  let f (o n v : Nat) := locate o (leBytes n v)
  let q (e : Eng) := c.seqs.get {} e.tag
  let lowest := ((Eng.all.map (fun e => (q e).cc.toNat)).foldl min (q .s).cc.toNat)
  let highest := ((Eng.all.map (fun e => (q e).cc.toNat)).foldl max 0)
  let done (e : Eng) : Bool := if e = .s ∧ c.inStub then c.stubEnded else (q e).ended
  let pc (e : Eng) : Nat := if e = .s ∧ c.inStub then c.stubPc else (q e).pc
  let ended := (Eng.all.map (fun e => boolBit (done e) (6 + e.tag))).foldl (· + ·) 0
  let tr := info.trap.getD ⟨0, 0, 0, false⟩
  f 0x00 4 1
  ++ f 0x04 4 (boolBit info.forced 0 + boolBit info.stub.isSome 1 + boolBit info.trap.isSome 3 +
      boolBit i.bind.isSome 4 + boolBit i.overlay 5 + ended)
  ++ f 0x08 2 info.index
  ++ f 0x0C 4 (info.stub.getD 0)
  ++ Eng.all.flatMap (fun e => f (0x10 + 2 * e.tag) 2 (pc e))
  ++ Eng.all.flatMap (fun e => f (0x20 + 4 * e.tag) 4 (q e).cc.toNat)
  ++ Eng.all.flatMap (fun e => f (0x38 + 4 * e.tag) 4 (q e).iter.toNat)
  ++ Eng.all.flatMap (fun e => f (0x50 + 4 * e.tag) 4 (q e).wc.toNat)
  ++ f 0x64 1 c.rrb.toNat ++ f 0x65 1 c.slipw.toNat ++ f 0x66 1 (boolBit c.detmode 0)
  ++ f 0x68 4 ((c.stack.get [] 1).length + 16 * (c.stack.get [] 2).length + 256 * (c.stack.get [] 3).length +
      4096 * (c.stack.get [] 4).length)
  ++ f 0x6C 2 (heldMask c i.ctx info.live.t).toNat
  ++ f 0x6E 2 (info.live.t &&& c.tileAbs).toNat
  ++ f 0x70 1 (c.replay.filter (fun p => p.owner = i.key ∧ p.failed = false)).length
  ++ f 0x78 4 (tr.cause + 2 ^ 16 * tr.eng) ++ f 0x80 8 tr.addr.toNat
  ++ (match i.bind with
      | some b => f 0x88 8 (sliceToken b.set b.n b.g).toNat ++ f 0x90 8 (b.abandon % 2 ^ 16 + 2 ^ 16 + 2 ^ 17 * b.reg)
      | none => [])
  ++ f 0x98 8 i.launch
  ++ f 0xA0 1 (highest - lowest)
  ++ (c.cwRec.take (highest - lowest)).zipIdx.flatMap (fun p => f (0xA2 + 2 * p.2) 2 p.1)

/-- The register, stack and event areas of a record (R344). -/
def areaBytes (s : State) (c : Core) (info : StopInfo) : List (Nat × Byte) :=
  (List.range 32).flatMap (fun n => regArea s (info.live.s.getLsbD n) (0x100 + 8 * n) 8 (c.sreg.get 0 n).toNat)
  ++ (List.range 64).flatMap (fun k =>
      regArea s (info.live.g.getLsbD k) (0x200 + 8 * k) 8 (c.greg.get 0 (16 + k)).toNat)
  ++ (List.range 4).flatMap (fun k =>
      ((c.stack.get [] (k + 1)).reverse.zipIdx).flatMap (fun p => locate (0x400 + 64 * k + 8 * p.2) (leBytes 8 p.1.toNat)))
  ++ (List.range 8).flatMap (fun n => regArea s (info.live.m.getLsbD n) (0x500 + 32 * n) 32 (c.m n).toNat)
  ++ (List.range 16).flatMap (fun n => locate (0x600 + 4 * n) (leBytes 4 (c.fmtTab.get 0 n).toNat))
  ++ (List.range 64).flatMap (fun e =>
      (0x640 + e, BitVec.ofNat 8 (c.events.get [] e).length) ::
      ((c.events.get [] e).zipIdx).flatMap (fun p => locate (0x1000 + 32 * e + 4 * p.2) (leBytes 4 p.1.value.toNat)))
  ++ (List.range 32).flatMap (fun n =>
      ((c.vreg.get {} n).entries).flatMap (fun l =>
        regArea s (info.live.v.getLsbD n) (0x7000 + 1024 * n + 4 * l.1) 4 l.2.toNat))

/-- Opaque areas: the replay entries and ring descriptors (R344), whose contents the spec does not give.
DESIGN CHOICE (log 22). -/
def opaqueBytes (s : State) (c : Core) (i : Inst) : List (Nat × Byte) :=
  (List.range (256 * (c.replay.filter (fun p => p.owner = i.key ∧ p.failed = false)).length)).map
    (fun o => (0x1800 + o, Config.freeByte s.nonce (0x1800 + o)))
  ++ (c.rings.entries).flatMap (fun r =>
      (List.range 16).map (fun o => (0x2800 + 16 * r.1 + o, Config.freeByte s.nonce (0x2800 + 16 * r.1 + o))))

/-- Memory with `n` scratchpad bytes from `a` read as zero. -/
def zeroRange (m : Memory) (a n : Nat) : Memory :=
  ⟨m.entries.filter (fun e => !(decide (a ≤ e.1) && decide (e.1 < a + n)))⟩

/-- The record of instance i of core n written to the save buffer. -/
def writeRecord (s : State) (n : Nat) (i : Inst) (info : StopInfo) : State :=
  let c := s.core n
  let bs := headerBytes c i info ++ areaBytes s c info ++ opaqueBytes s c i
  { s with mem := bs.foldl (fun m e => putByte m (saveLoc n e.1) e.2) (zeroRange s.mem (saveLoc n 0) recordBytes) }

/-- The first virtual address of the save slot of class k on core n in the save area of context x (R133). -/
def saveSlot (s : State) (x n k : Nat) : Nat := ctxField s x 0x30 8 + 0x140000 * n + 0x50000 * k

/-- Located bytes from virtual address va of context x on, by fresh walks; a byte whose page is absent or without W is lost
(log 7). -/
def plinthLocate (s : State) (x va : Nat) (bs : List Byte) : List (Nat × Byte) :=
  (locate va bs).filterMap (fun e =>
    (walk s x e.1).bind (fun t => if t.w then some ((t.place s e.1).1, e.2) else none))

/-- The plinth reads and writes what a program's pages hold: records, tables, completion records. Each page gives its own key
slot (R156). -/
def programWrite (s : State) (x va : Nat) (bs : List Byte) : State := match walk s x va with
  | some t => writeBytes s (t.place s va).2 (plinthLocate s x va bs)
  | none => s

def programRead (s : State) (x va len : Nat) : Option (List Byte) :=
  (List.range len).mapM (fun i =>
    (walk s x (va + i)).bind (fun t => if t.r then some (memRead s (t.place s (va + i)).2 (t.place s (va + i)).1) else none))

/-- The key slot under which the plinth reaches the save area and the overflow queue of context x (R156). One that is not valid reads
zero and loses writes, as a cached translation's does (R157); a table walk goes on under the context's key. DESIGN CHOICE (log 7). -/
def plinthKey (s : State) (x : Nat) : Nat := if keyValid s (ctxKey s x) then ctxKey s x else deadKey

/-- The plinth reads and writes save areas and overflow queues under the context's key slot (R156).
DESIGN CHOICE (log 7). -/
def plinthWrite (s : State) (x va : Nat) (bs : List Byte) : State := writeBytes s (plinthKey s x) (plinthLocate s x va bs)

def plinthRead (s : State) (x va len : Nat) : Option (List Byte) :=
  (List.range len).mapM (fun i =>
    (walk s x (va + i)).bind (fun t => if t.r then some (memRead s (plinthKey s x) (t.place s (va + i)).1) else none))

/-- The record of `len` bytes in the save buffer of core n goes to the save slot of the instance that it is of, and says so
(R133). -/
def spillRecord (s : State) (n : Nat) (i : Inst) (len : Nat) : State :=
  let s1 := { s with mem := putByte s.mem (saveLoc n 4) ((s.mem.get 0 (saveLoc n 4)) ||| 4#8) }
  plinthWrite s1 i.ctx (saveSlot s1 i.ctx n i.cls) (readLocs s1 0 (saveLoc n 0) len)

/-- The parked instance of core n becomes spilled (R133). -/
def spillParked (s : State) (n : Nat) : State :=
  let c := s.core n
  match c.parked with
  | none => s
  | some p =>
    (spillRecord s n p.inst recordBytes).setCore n { c with parked := none, spilled := { p with spilled := true } :: c.spilled }

/-- All words of a core's instruction memory as bytes. -/
def textBytes (s : State) (n : Nat) : List Byte :=
  (List.range 65536).flatMap (fun w => leBytes 4 (s.imem.get 0 (65536 * n + w)).toNat)

/-- Tiles at a stop (R219): those of the held mask become held, every other one of the context becomes free, and
TILE_ABS is cleared. -/
def stopTiles (c : Core) (x : Nat) (held : BitVec 16) : Core :=
  (List.range 16).foldl (fun c t =>
    if c.tileOwner.get 0 t = x ∧ c.tileSt.get .free t = .active then
      if held.getLsbD t then { c with tileSt := c.tileSt.set .free t .held }
      else { c with tileSt := c.tileSt.set .free t .free, tileOwner := c.tileOwner.set 0 t 0, tile := c.tile.set {} t {} }
    else c) { c with tileAbs := 0 }

/-- Frees the tiles active under context x, as a kill does (R219). DEDUCED (log 70). -/
def freeTiles (c : Core) (x : Nat) : Core := stopTiles c x 0

/-- The core without a running instance: sequencers, registers, events, rings and regions of the instance are gone. -/
def Core.cleared (c : Core) : Core :=
  { c with
    seqs := {}, sreg := {}, greg := {}, stack := {}, vreg := {}, mreg := {}, rrb := 0, fmtTab := {}, events := {}
    rings := {}, cwRec := [], cwBase := 0, regions := [], inst := none, active := false, mode := .run, modeFrom := .run
    hsreg := {}, hgreg := {}, hstack := [], hseqs := {}, trapPend := none, stopReq := none
    cancel := none, abandon := none, spdist := 0, stubPc := 0, stubEnded := false, stubSafe := none }

/-- What a stop keeps of each sequencer besides its record: in a rebuild stub S's own pc and safe point are the saved ones
(R134). -/
def Core.hidden (c : Core) : Sparse SeqState :=
  if c.inStub then c.seqs.set {} 0 { c.seqs.get {} 0 with pc := c.stubPc, atSafe := c.stubSafe } else c.seqs

/-- The running instance of core n stops and is parked with its record in the save buffer (R133, R163, R219, R244,
R344); an instance already parked is spilled first. -/
def parkInst (s : State) (n : Nat) (info : StopInfo) (escalated : Bool) : State :=
  let s := spillParked s n
  match (s.core n).inst with
  | none => s
  | some i =>
    let s := writeRecord s n i info
    let s := if i.overlay then
        plinthWrite s i.ctx (saveSlot s i.ctx n i.cls + 0x10000) (textBytes s n)
      else s
    let c := s.core n
    let held := heldMask c i.ctx info.live.t
    let p : Stopped :=
      { inst := i, escalated := escalated, rings := c.rings, live := info.live
        replay := c.replay.filter (fun p => p.owner = i.key)
        hid := c.hidden
        posts := ⟨c.events.entries.map (fun e => (e.1, e.2.map (·.rel)))⟩ }
    let c := stopTiles c i.ctx held
    s.setCore n { c.cleared with replay := c.replay.filter (fun p => p.owner ≠ i.key), parked := some p }

end Sys2Proof.Machine
end

