-- ==== Sys2Proof/Machine/SliceOps.lean ====
section
/-!
DEFINITION. The slice coordinator's own operations (R296-R318): tokens, generations, rounds, fault records, the settled
prefix, cancellation and closing. The slice instructions are in Slices.
-/

namespace Sys2Proof.Machine

def tokSet (t : W64) : Nat := (t.extractLsb' 0 4).toNat
def tokN (t : W64) : Nat := (t.extractLsb' 16 12).toNat
def tokG (t : W64) : BitVec 16 := t.extractLsb' 32 16
/-- A bit outside the fields of a token is set (R299). -/
def tokBad (t : W64) : Bool := decide (t &&& 0xFFFF0000F000FFF0#64 ≠ 0)
/-- A status in place of a token (R299). -/
def sliceStatus (code : Nat) : W64 := BitVec.ofNat 64 (2 ^ 63 + code)

def State.set (s : State) (k : Nat) : SliceSet := s.slices.get {} k
def State.putSet (s : State) (k : Nat) (t : SliceSet) : State := { s with slices := s.slices.set {} k t }
def SliceSet.slice (t : SliceSet) (n : Nat) : Slice := t.slices.get {} n
def SliceSet.putSlice (t : SliceSet) (n : Nat) (c : Slice) : SliceSet := { t with slices := t.slices.set {} n c }
def SliceSet.inWindow (t : SliceSet) (n : Nat) : Bool := decide (t.base ≤ n) && decide (n < t.h)

/-- The set a token names as context x finds it: none unless it is open, cancelled or closing and x's (R296). -/
def findSet (s : State) (x : Nat) (tok : W64) : Option SliceSet :=
  let t := s.set (tokSet tok)
  if t.state ≠ 0 ∧ t.ctx = x then some t else none

/-- One of four 16-bit counts in a register, saturating (R318). -/
def incField (w : BitVec 64) (k : Nat) : BitVec 64 :=
  let v := (w.extractLsb' (16 * k) 16).toNat
  if v = 0xFFFF then w else w + (1#64 <<< (16 * k))
def addField (w : BitVec 64) (k : Nat) : Nat → BitVec 64
  | 0 => w
  | n + 1 => addField (incField w k) k n
def State.sliceInc (s : State) (k n : Nat) : State := { s with sliceCnt := addField s.sliceCnt k n }

/-- Tree mode: slice n and the parents above it, down to slice 0, as far as drafts name them (R314). -/
def SliceSet.ancestors (t : SliceSet) : Nat → Nat → List Nat
  | 0, n => [n]
  | fuel + 1, n => if n = 0 ∨ (t.slice n).seeded = false then [n] else n :: t.ancestors fuel (t.slice n).parent

/-- The settled path in token mode (R311): slices 0 to P − 1 of a chain, and slice 0 and the committed ones of a tree. -/
def SliceSet.onPath (t : SliceSet) (n : Nat) : Bool :=
  if t.tree then decide (n = 0) || t.path.contains n else decide (n < t.p)

def SliceSet.parentOf (t : SliceSet) (n : Nat) : Nat := if t.tree then (t.slice n).parent else n - 1

/-- Slice d is a proper descendant of slice n. -/
def SliceSet.below (t : SliceSet) (n d : Nat) : Bool :=
  if t.tree then decide (d ≠ n) && (t.ancestors 4096 d).contains n else decide (n < d)

/-- Slice n is a drafted child of slice x (R314). -/
def SliceSet.childOf (t : SliceSet) (x n : Nat) : Bool :=
  decide (n ≠ 0) && (t.slice n).seeded && decide ((t.slice n).parent = x)

/-- The inputs of slice n are final (R307). -/
def SliceSet.final (t : SliceSet) (n : Nat) : Bool :=
  if t.token then t.onPath (t.parentOf n) else decide (n < t.p)

/-- A change of generation of one slice (R301, R310): the number of fault records it discards comes with it. -/
def bumpSlice (c : Slice) : Slice × Nat :=
  let lost := match c.frec with
    | some r => !r.delivered
    | none => false
  ({ c with
    gen := c.gen + 1
    ist := c.ist || c.infl
    fine := if lost then 2 else if c.fine = 1 then 2 else c.fine
    frec := if lost then none else c.frec }, if lost then 1 else 0)

def SliceSet.bump (t : SliceSet) (n : Nat) : SliceSet × Nat :=
  let b := bumpSlice (t.slice n)
  (t.putSlice n b.1, b.2)

/-- Generation changes of several slices. -/
def SliceSet.bumpAll (t : SliceSet) (ns : List Nat) : SliceSet × Nat :=
  ns.foldl (fun a n => let b := a.1.bump n; (b.1, a.2 + b.2)) (t, 0)

/-- Slices of the window that satisfy f, ascending. -/
def SliceSet.which (t : SliceSet) (f : Nat → Bool) : List Nat :=
  ((List.range (t.h - t.base)).map (· + t.base)).filter f

/-- Invalidated slices also lose their seeded bit and verdict (R312). -/
def SliceSet.invalidate (t : SliceSet) (ns : List Nat) : SliceSet × Nat :=
  let b := t.bumpAll ns
  (ns.foldl (fun u n => u.putSlice n { u.slice n with seeded := false, verdict := 0 }) b.1, b.2)

def SliceSet.done (t : SliceSet) : Bool := decide (t.p ≥ t.h)

/-- The slice SFBEG hands out, if any (R302). -/
def SliceSet.candidate (t : SliceSet) : Option Nat :=
  (t.which (fun n =>
    let c := t.slice n
    c.seeded && decide (c.fine ≠ 1) && !c.infl &&
    (if t.token then decide (1 ≤ n) && decide (c.verdict = 0) && !t.onPath n else decide (n + 2 ≤ t.h)))).head?

/-- The maximum of part norms: a NaN makes it the canonical NaN (R252, R304). -/
def normMax (a b : Word) : Word :=
  if (f32 a).isNan || (f32 b).isNan then 0x7FC00000#32 else if fltVal (f32 a) (f32 b) then b else a

/-- A part's report (R304): it joins the round, and the last part completes it. Also gives the number of records
discarded. -/
def SliceSet.report (t : SliceSet) (n part : Nat) (norm : Word) (differs settledAnswer : Bool) : SliceSet × Nat :=
  let c := t.slice n
  let c := if c.roundOpen then c else { c with roundOpen := true, settled := true, diff := false, parts := {} }
  let c := { c with
    settled := c.settled && settledAnswer
    diff := c.diff || differs
    parts := c.parts.put part (some norm) }
  if (List.range t.parts).all (fun k => (c.parts.get none k).isSome) then
    let norms := (List.range t.parts).map (fun k => (c.parts.get none k).getD 0)
    let t1 := t.putSlice n { c with jump := norms.foldl normMax 0, swept := true, roundOpen := false, diff := false,
                                    settled := false, parts := {} }
    let t2 := t1.putSlice (n + 1) { t1.slice (n + 1) with roundBelow := true }
    let b := if c.diff then t2.bump (n + 1) else (t2, 0)
    (if c.settled ∧ t.state = 1 then { b.1 with p := min b.1.h (max b.1.p (n + 2)) } else b.1, b.2)
  else (t.putSlice n c, 0)

/-- The answer to a combine's query, apart from answer 3 and the part check (R304). -/
def SliceSet.answer (t : SliceSet) (n : Nat) (g : BitVec 16) : Nat :=
  let c := t.slice n
  if n < t.base ∨ n + 1 ≥ t.h then 4
  else if (c.fine ≠ 1 ∧ c.fine ≠ 2) ∨ g ≠ c.fg then 2
  else if n < t.p ∧ c.fine = 1 ∧ g = c.gen then 1
  else 0

/-- The largest unsettled jump, whether the sweep converges, and whether an unsettled slice had no round (R306, R324). -/
def SliceSet.sweep (t : SliceSet) : Word × Bool × Bool :=
  let ns := ((List.range (t.h - 1 - (t.p - 1))).map (· + (t.p - 1)))
  let mx := ns.foldl (fun a n => normMax a (t.slice n).jump) 0
  let conv := ns.all (fun n => (t.slice n).swept && fleVal (f32 (t.slice n).jump) (f32 t.tol))
  (mx, conv, ns.any (fun n => !(t.slice n).swept))

/-- The prefix word (R325). -/
def SliceSet.prefixWord (t : SliceSet) : W64 :=
  BitVec.ofNat 64 (t.p % 2 ^ 13 + 2 ^ 16 * (t.h % 2 ^ 13) + 2 ^ 32 * (t.pt % 2 ^ 12) + boolBit (decide (t.state = 1)) 48
    + boolBit (decide (t.state ≠ 1)) 49 + boolBit t.done 50 + boolBit t.exhausted 51 + 2 ^ 52 * (min t.out.length 127))

/-- Closes a set: its undelivered records go, its contexts are free (R316). -/
def closeSet (s : State) (k : Nat) : State :=
  let t := s.set k
  let lost := (t.which (fun n => match (t.slice n).frec with
    | some r => !r.delivered
    | none => false)).length
  (s.putSet k {}).sliceInc 0 lost

/-- A closing set with no token outstanding closes by itself (R316). -/
def closeIfIdle (s : State) (k : Nat) : State :=
  if (s.set k).state = 3 ∧ (s.set k).out = [] then closeSet s k else s

/-- The sequencer that leads an instance: the highest cc among those that have not executed ENDT, and among equals the
lowest tag (R130, R315). -/
def Core.leader (c : Core) : Option Eng :=
  Eng.all.foldl (fun a e =>
    let q := c.seqs.get {} e.tag
    if q.ended then a
    else match a with
      | none => some e
      | some b => if (c.seqs.get {} b.tag).cc.toNat < q.cc.toNat then some e else a) none

/-- Cancels an open set (R315): records discarded, and each running instance bound to it marked for abandonment at its
leader's next safe point. `final` is 2 for SCANCEL, 3 where the opener is gone. -/
def cancelSet (s : State) (k final : Nat) : State :=
  let t := s.set k
  if t.state = 0 then s
  else
    let lost := t.which (fun n => match (t.slice n).frec with
      | some r => !r.delivered
      | none => false)
    let t1 := lost.foldl (fun u n => u.putSlice n { u.slice n with frec := none, fine := 2 }) t
    let s1 := (s.putSet k { t1 with state := max t.state final }).sliceInc 0 lost.length
    let s2 := (List.range 128).foldl (fun u n =>
      let c := u.core n
      match c.inst with
      | some i =>
        if i.bind.any (fun b => b.set = k) ∧ c.cancel = none then
          u.setCore n { c with cancel := some ((c.leader.map Eng.tag).getD 0) }
        else u
      | none => u) s1
    closeIfIdle s2 k

/-- A token is no longer outstanding (R315, R316). -/
def returnToken (s : State) (k n : Nat) : State :=
  let t := s.set k
  let t := t.putSlice n { t.slice n with infl := false }
  closeIfIdle (s.putSet k { t with out := t.out.filter (fun e => e.1 ≠ n) }) k

/-- An instance has ended, or was killed, reissued or discarded: its tokens return and the sets it opened are cancelled
and close (R316). -/
def sliceGone (s : State) (i : Inst) : State :=
  let s := i.tokens.foldl (fun u t => returnToken u t.1 t.2.1) s
  (List.range 16).foldl (fun u k =>
    let t := u.set k
    if t.state ≠ 0 ∧ t.opener.2 = i.key then cancelSet u k 3 else u) s

/-- The delivery due to the instance that runs on core n (R310): the lowest slice of the lowest set it opened whose inputs
are final and whose record is undelivered and of the current generation. R310 orders the slices of one set; which of two sets comes first
it does not say. DESIGN CHOICE (log 91). -/
def dueDelivery (s : State) (n : Nat) : Option (Nat × Nat) :=
  let c := s.core n
  ((List.range 16).filterMap (fun k =>
    let t := s.set k
    if t.state = 1 ∧ t.opener = (n, c.owner) then
      ((t.which (fun m => t.final m && (match (t.slice m).frec with
        | some r => !r.delivered && decide (r.gen = (t.slice m).gen)
        | none => false))).head?).map (fun m => (k, m))
    else none)).head?

/-- The delivery recorded (R310). -/
def markDelivered (s : State) (k n : Nat) : State :=
  let t := s.set k
  let c := t.slice n
  (s.putSet k (t.putSlice n { c with frec := c.frec.map (fun r => { r with delivered := true }), fine := 0 })).sliceInc 1 1

/-- Deferrable causes (R308). -/
def deferrable (c : Nat) : Bool :=
  [0x1, 0x5, 0x6, 0x7, 0x8, 0x9, 0xA, 0xB, 0xC, 0xD, 0x10, 0x11, 0x13, 0x16, 0x18, 0x19].contains c

/-- A fault of the bound slice is kept: it is of the slice's current generation, which has not changed while the slice was handed out (R310). -/
def keepsRecord (s : State) (b : Binding) : Bool :=
  let c := (s.set b.set).slice b.n
  decide (c.gen = b.g) && !c.ist

/-- The fault of a bound slice is recorded, or discarded at once (R308, R310). -/
def recordFault (s : State) (b : Binding) (r : FaultRec) : State :=
  let t := s.set b.set
  let c := t.slice b.n
  if keepsRecord s b = false then
    (s.putSet b.set (t.putSlice b.n { c with fine := 2, infl := false })).sliceInc 0 1
  else s.putSet b.set (t.putSlice b.n { c with fine := 3, infl := false, frec := some r })

end Sys2Proof.Machine
end

