-- ==== Sys2Proof/Machine/Ops.lean ====
section
/-!
DEFINITION. The operations every instruction is built from: completing a word, waiting, taking a trap and returning from
one (R308, R309, R338-R342), accesses and what performs them (R165-R168), and the quoin checker (R103-R106).
-/

namespace Sys2Proof.Machine

abbrev Out := Host.Outcome State Fault Refusal

/-! ## Completing and waiting -/

/-- How an instruction ends without completing: a trap with its address, or a wait. -/
inductive Stop where
  | trap (cause : Nat) (addr : W64)
  | wait (kind : WaitKind)
  deriving DecidableEq, Repr

/-- The sequencer after its word completes: wc counts it, its clock follows, prefixes and wait are over (R62, R103). -/
def SeqState.step (q : SeqState) (e : Eng) (pc : Nat) : SeqState :=
  { q with pc := pc, wc := q.wc + 1, vclk := q.vclk.set e (q.wc + 1), pfx := [], wait := none, atSafe := none }

/-- The word completes and the pc goes to `pc`. -/
def advanceTo (pc : Nat) (s : State) : State := s.setQ (s.q.step s.curEng pc)

/-- The word completes and the next word follows. -/
def retire (s : State) : State := advanceTo (s.q.pc + 1) s

/-- A stall of the quoin checker counts when it begins (R108). -/
def Core.countStall (c : Core) : WaitKind → Core
  | .quoin false => { c with nfull := satInc 16 c.nfull }
  | .quoin true => { c with nage := satInc 16 c.nage }
  | _ => c

/-- The event that a wait would take a post from. -/
def WaitKind.awaited : WaitKind → Option Nat
  | .await ev => some ev
  | .awaitHeld ev => some ev
  | .tawait ev _ => some ev
  | .tawaitHeld ev _ => some ev
  | _ => none

/-- The two are waits of one word for a post of one event. -/
def WaitKind.goesOn (a b : WaitKind) : Bool := a.awaited.isSome && decide (a.awaited = b.awaited)

/-- The sequencer stalls at its word: a wait keeps the cycle in which it began, and one for a post its order of service,
whatever holds the post (R82, R336). DEDUCED (log 32). -/
def stallIn (k : WaitKind) (s : State) : State :=
  let q := s.q
  let begins : State :=
    { (s.setMe (s.me.countStall k)).setQ { q with wait := some ⟨k, s.cycle, s.order⟩ } with order := s.order + 1 }
  match q.wait with
  | some w =>
    if w.kind = k then s
    else if w.kind.goesOn k then s.setQ { q with wait := some ⟨k, s.cycle, w.order⟩ }
    else begins
  | none => begins

/-! ## Accesses outstanding (R165-R168) -/

/-- The class that a unit of a copy in class cls carries: in transmit space that of its own map entry (R165, R237, R266). -/
def Unit_.clsIn (cls : Nat) : Unit_ → Nat
  | .tx _ m _ _ => m.cls
  | _ => cls

/-- Units of a copy in class cls carry a class that f covers; a copy with nothing left to write carries its own. -/
def unitsCarry (cls : Nat) (us : List Unit_) (f : Nat → Bool) : Bool :=
  us.any (fun u => f (u.clsIn cls)) || (us.isEmpty && f cls)

/-- What a copy has still to write carries a class that f covers. -/
def CopyOp.carries (o : CopyOp) (f : Nat → Bool) : Bool := unitsCarry o.cls o.units f

/-- The number that places an access in its sequencer's program order: that of the instruction or operation it is part of. -/
def Access.no (a : Access) : Nat := a.op.getD a.id

/-- The parked writes that the stops of a core's instances have saved (R163). -/
def Core.parkedSaved (c : Core) : List Parked := (c.parked.toList ++ c.spilled).flatMap (·.replay)

/-- Parked writes of a core: those saved with its stopped instances, and those in its queue (R163). -/
def Core.parkedAll (c : Core) : List Parked := c.parkedSaved ++ c.replay

/-- A copy of a stopped instance waits behind its own saved entry of a class that it carries, until the instance resumes: it holds back
nothing of another instance, nor the resumption, which returns the entry to the queue (R132, R163, R346). DEDUCED (log 33). -/
def stuck (c : Core) (o : CopyOp) : Bool :=
  decide (o.owner ≠ c.owner) && c.parkedSaved.any (fun p => decide (p.eng = 3) && decide (p.owner = o.owner) && !p.failed &&
    decide (p.issued ≤ o.id) && o.carries (fun k => k = p.cls))

/-- An access, copy operation, BMV, bulk send or parked write named by `id` is not yet performed, at core scope or at
package scope, where a reflected store is performed once every copy has left the device (R80). -/
def pendingAt (s : State) (atCore : Bool) (id : Nat) : Bool :=
  s.accs.any (fun a => decide (a.no = id) && !(atCore && a.atCore)) ||
  s.cores.entries.any (fun e =>
    e.2.copies.any (fun c => decide (c.id = id)) || e.2.bmvs.any (fun b => decide (b.id = id)) ||
    e.2.parkedAll.any (fun p => (decide (p.id = id) || decide (p.issued = id)) && !p.failed)) ||
  s.fabric.bulks.any (fun b => decide (b.id = id) && decide (b.lines ≠ 0) && decide (b.st = 0)) ||
  (!atCore && s.fabric.sends.any (fun d => decide (d.acc = id) && decide (d.st = 0)))

/-- What sequencer e of core n has issued in the classes up to `top` and that is not performed at package scope, with what
it has acquired. -/
def outstanding (s : State) (n : Nat) (e : Eng) (top : Nat) : List Nat :=
  let c := s.core n
  (s.accs.filter (fun a => a.n = n ∧ a.eng = e.tag ∧ a.cls ≤ top)).map (·.no)
  ++ (c.replay.filter (fun p => p.eng = e.tag ∧ p.cls ≤ top ∧ p.owner = c.owner)).map (·.issued)
  ++ (if e = .c then (c.copies.filter (fun o => o.owner = c.owner ∧ o.carries (fun k => k ≤ top))).map (·.id) else [])
  ++ (if e = .m ∧ 15 ≤ top then (c.bmvs.filter (fun b => b.owner = c.owner)).map (·.id) else [])
  ++ (if e = .f then (s.fabric.bulks.filter (fun b => b.core = n ∧ b.owner = c.owner ∧ b.cls ≤ top)).map (·.id) else [])
  ++ (s.fabric.sends.filter (fun d => d.core = n ∧ d.eng = e.tag ∧ d.cls ≤ top ∧ d.st = 0 ∧ d.owner = c.owner)).map (·.acc)
  ++ (c.seq e).acq.filter (pendingAt s false)

/-- What a post, a release or a common word of sequencer e names: its accesses in classes 0-14, and what it has acquired
(R68, R142, R168). -/
def releaseSet (s : State) (n : Nat) (e : Eng) : List Nat := outstanding s n e 14

/-- What an edge within the core names for sequencer e: its release set and, where it is S, every access that a fence of S has
performed at core scope, of whatever class (R68, R168, R170). -/
def edgeSet (s : State) (n : Nat) (e : Eng) : List Nat :=
  releaseSet s n e ++ (if e = .s then (s.accs.filter (fun a => a.n = n ∧ a.fenced)).map (·.no) else [])

/-- The release step of R142 is over for sequencer e of core n. -/
def released (s : State) (n : Nat) (e : Eng) : Bool := (releaseSet s n e).all (fun i => !pendingAt s false i)

/-- As `released`, for every class (R137). -/
def releasedAll (s : State) (n : Nat) (e : Eng) : Bool := (outstanding s n e 15).all (fun i => !pendingAt s false i)

/-- The executing sequencer acquires what `ids` name (R168). -/
def acquire (ids : List Nat) (s : State) : State :=
  let q := s.q
  s.setQ { q with acq := (q.acq ++ ids).filter (pendingAt s false) }

/-- Everything that holds a trap cut (R338 step 4): accesses not performed at core scope, and every copy, bank operation
and send of the core still in the device, a stopped instance's included. Parked entries stay parked. -/
def drained (s : State) (n : Nat) : Bool :=
  let c := s.core n
  !(s.accs.any (fun a => decide (a.n = n) && !a.atCore)) && c.copies.isEmpty && c.bmvs.isEmpty &&
  !(s.fabric.sends.any (fun d => decide (d.core = n) && decide (d.st = 0))) &&
  !(s.fabric.bulks.any (fun b => decide (b.core = n) && decide (b.lines ≠ 0) && decide (b.st = 0)))

/-- Ordinary accesses alone, which hold a pre-emption stop (R132). -/
def quiet (s : State) (n : Nat) : Bool := !(s.accs.any (fun a => decide (a.n = n) && !a.atCore))

/-! ## Who may issue, and whose limit has passed (R78, R330, R336) -/

/-- The sequencers of a core: the service core has S and C only (R10, R62). -/
def team (n : Nat) : List Eng := if n = Config.serviceCore then [.s, .c] else Eng.all

/-- A line of a copy of the running instance fails translation and finds the replay queue full: C stalls until an entry
leaves (R160). -/
def Core.copyStalled (c : Core) : Bool :=
  decide (16 ≤ (c.replay.filter (fun p => !p.failed)).length) &&
  c.copies.any (fun o => decide (o.owner = c.owner) &&
    (match o.units with
     | .park _ _ mv _ :: _ => !mv.isEmpty
     | .comb _ _ _ cause _ _ :: _ => cause.isSome
     | _ => false) &&
    !c.copies.any (fun x => decide (x.owner = o.owner) && x.carries (fun k => k = o.cls) && decide (x.id < o.id)) &&
    !c.replay.any (fun p => decide (p.eng = 3) && decide (p.cls = o.cls) && decide (p.owner = o.owner) && !p.failed &&
      decide (p.issued ≤ o.id)))

/-- Sequencer e of core n may issue: its core runs, no trap or abandonment holds it, its mode lets it run (R330), it has not
executed ENDT (R80), no checkpoint or forced cut has stopped it (R130, R131), and no copy of its holds C (R160). -/
def canIssue (s : State) (n : Nat) (e : Eng) : Bool :=
  let c := s.core n
  let q := c.seq e
  c.active && c.trapPend.isNone && c.abandon.isNone && !q.ended && !(decide (e = .c) && c.copyStalled) &&
  (if n = Config.serviceCore then !c.halted && (decide (e = .s) || (decide (e = .c) && !c.fwHandler))
   else match c.mode with
    | .run => (match c.stopReq with
        | some r => !r.cut && (match r.k with
            | some k => decide (q.cc.toNat < k.toNat)
            | none => true)
        | none => true)
    | .stub => decide (e = .s) && !c.stopReq.any (·.cut)
    | .handler => decide (e = .s) || decide (e = .m))

/-- The core is in its handler. DEDUCED (log 28). -/
def Core.handling (c : Core) (n : Nat) : Bool := if n = Config.serviceCore then c.fwHandler else decide (c.mode = .handler)

/-- The cause of a write that has failed translation or permission and for which the wait stalls its sequencer (R160). -/
def WaitKind.parkCause : WaitKind → Option Nat
  | .replay cause => some cause
  | _ => none

/-- A wait that the watchdog limits, as TRAP_ADDR reports it: its kind and its number (R334, R336). -/
def WaitKind.limited : WaitKind → Option (Nat × Nat)
  | .post e => some (0, e)
  | .await e => some (0, e)
  | .tawait e _ => some (0, e)
  | .ring r _ => some (1, r)
  | .counter k => some (2, k)
  | .barrier b => some (3, b)
  | .sliceSet n => some (4, n)
  | .wfi => some (5, 0)
  | .slip => some (6, 0)
  | .quoin _ => some (7, 0)
  | _ => none

/-- The wait ends by itself before WDOG cycles have passed, or with them: a TAWAIT whose timeout does not exceed WDOG (R336). -/
def Wait.ends (w : Wait) (wdog : Nat) : Bool := match w.kind with
  | .tawait _ l => decide (l ≤ w.since + wdog)
  | _ => false

/-- What the watchdog reports of sequencer e of core n, if its wait has lasted WDOG cycles. -/
def overdue (s : State) (n : Nat) (e : Eng) : Option W64 :=
  let c := s.core n
  if canIssue s n e ∧ c.handling n = false then
    match (c.seq e).wait with
    | some w => if w.since + c.wdog ≤ s.cycle ∧ w.ends c.wdog = false then
        w.kind.limited.map (fun k => BitVec.ofNat 64 (k.1 * 2 ^ 56 + k.2 % 4096)) else none
    | none => none
  else none

/-- The distance counter of a core runs: an instance is resident, not in handler mode, and some sequencer has not executed
ENDT (R78, R341). -/
def Core.distanceRuns (c : Core) (n : Nat) : Bool :=
  decide (n < 128) && c.active && c.inst.isSome && decide (c.mode ≠ .handler) &&
  Eng.all.any (fun e => !(c.seqs.get {} e.tag).ended)

/-- SPDIST would exceed SPDMAX (R78), and no wait has reached the watchdog's limit in the same cycle (R336). -/
def tooFar (s : State) (n : Nat) : Option Eng :=
  let c := s.core n
  if c.distanceRuns n ∧ c.spdmax ≤ c.spdist ∧ c.trapPend.isNone ∧ c.abandon.isNone ∧
    !(team n).any (fun e => (overdue s n e).isSome) then c.leader else none

/-- A sequencer of lower tag whose wait has reached the watchdog's limit, or that the safe-point distance makes trap, in the cycle
in which e traps: it is the one that takes the trap, with its cause and address (R338 step 3). -/
def forestalled (s : State) (n : Nat) (e : Eng) : Option (Eng × Nat × W64) :=
  match (team n).find? (fun p => decide (p.tag < e.tag) && (overdue s n p).isSome) with
  | some p => (overdue s n p).map (fun a => (p, 0x17, a))
  | none => ((tooFar s n).filter (fun p => p.tag < e.tag)).map (fun p => (p, 0xE, BitVec.ofNat 64 (s.core n).spdist))

/-! ## Abandonment (R309) -/

/-- A sequencer at the abandon word, at the highest counts of the core. It stays in its kernel, and past its latest SAFEPT
there (R70, R76). -/
def SeqState.abandon (q : SeqState) (cc iter : BitVec 32) (k : Clk) (pc : Nat) : SeqState :=
  { q with pc := pc, cc := cc, iter := iter, vclk := k, unpassed := [], wcat := [], ended := false, atSafe := none,
           wait := none, pfx := [], crel := [] }

/-- A stop request that has chosen no cut yet. -/
def StopReq.anew (r : StopReq) : StopReq := { r with k := none, ends := false, index := 0, loopk := false }

/-- Steps 3 to 5 of R309 for the instance bound on core n; `kept` says that a record was kept for this abandonment. A checkpoint
under way chooses its cut anew, since the counts and the safe points of the old one are gone. DESIGN CHOICE (log 85). -/
def abandonNow (s : State) (n : Nat) (code : W64) (kept : Bool) : State :=
  let c := s.core n
  match c.inst with
  | none => s
  | some i =>
    match i.bind with
    | none => s.setCore n { c with abandon := none, cancel := none }
    | some b =>
      let q (e : Eng) := c.seqs.get {} e.tag
      let cc := Eng.all.foldl (fun a e => if a.toNat < (q e).cc.toNat then (q e).cc else a) 0
      let it := Eng.all.foldl (fun a e => if a.toNat < (q e).iter.toNat then (q e).iter else a) 0
      let k : Clk := ⟨(q .s).wc, (q .v).wc, (q .m).wc, (q .c).wc, (q .f).wc⟩
      let c1 := Eng.all.foldl (fun c e => c.setSeq e ((q e).abandon cc it k b.abandon)) { c with mode := .run }
      let c2 := { c1 with
        stack := {}, events := {}, cwRec := [], cwBase := cc.toNat, regions := [], spdist := 0, abandon := none
        cancel := none
        stopReq := c.stopReq.map StopReq.anew
        inst := some { i with bind := none, tokens := i.tokens.filter (fun t => t ≠ (b.set, b.n, b.g)), barw := [] } }
      let c3 := c2.setS b.reg code
      let t := s.set b.set
      let t1 := t.putSlice b.n { t.slice b.n with infl := false, fine := if kept then 3 else 2 }
      let s1 := ((s.putSet b.set t1).sliceInc 3 1).setCore n c3
      returnToken s1 b.set b.n

/-- Abandonment proceeds once everything issued has performed its writes (R309 step 2); until then the core is held. -/
def tryAbandon (s : State) (n : Nat) : State :=
  match (s.core n).abandon with
  | some code => if drained s n then abandonNow s n code false else s
  | none => s

/-! ## Traps -/

/-- Sequencer e cut before its first prefix: the prefixes have not been issued, so wc and its clock go back with the pc (R28,
R103, R338). -/
def SeqState.cut (e : Eng) (q : SeqState) : SeqState :=
  if q.pfx = [] then { q with wait := none }
  else
    let w := q.wc - BitVec.ofNat 24 q.pfx.length
    { q with pc := q.pfxPc, wc := w, vclk := q.vclk.set e w, pfx := [], wait := none }

/-- The five sequencers of the instance at the cut. -/
def Core.cutAll (c : Core) : Core :=
  { c with seqs := Eng.all.foldl (fun m e => m.set {} e.tag ((m.get {} e.tag).cut e)) c.seqs }

/-- Step 5 of R338: the trap registers. DEDUCED (log 17). Of a pc of 65,536 TRAP_PC holds the low 16 bits, 0.
DESIGN CHOICE (log 94). -/
def Core.trapRegs (c : Core) (tp : TrapPend) : Core :=
  { c with
    trapCause := BitVec.ofNat 16 tp.cause
    trapAddr := tp.addr
    trapEng := BitVec.ofNat 4 (tp.eng + boolBit tp.cw 3)
    trapPc := Eng.all.foldl (fun m e =>
      m.set (0, 0) e.tag (BitVec.ofNat 16 (c.seqs.get {} e.tag).pc, (c.seqs.get {} e.tag).cc)) c.trapPc }

/-- The trap is escalated (R340, R341): the instance stops with a forced record and the trap pending, and the service
core is signalled. A trap in stub mode is saved with STUB = 1 (R342). NFORCE counts it among the forced
cuts, which R340 does not say. DEDUCED (log 59). After a handler trap the record holds that trap pending, not the one that the handler
was entered for. DESIGN CHOICE (log 97). -/
def escalate (s : State) (n : Nat) (tp : TrapPend) : State :=
  let c := s.core n
  let stub := if c.inStub then some (c.seqs.get {} 0).pc else none
  let s1 := parkInst s n { forced := true, stub := stub, trap := some { tp with cw := false } } true
  let c1 := s1.core n
  let s2 := s1.setCore n { c1 with
    escCause := BitVec.ofNat 16 tp.cause, escEng := BitVec.ofNat 3 tp.eng, escPend := true, nesc := satInc 16 c1.nesc
    ntrap := satInc 16 c1.ntrap }
  { s2 with
    tasks := { s2.tasks with nforce := satInc 16 s2.tasks.nforce }
    plinth := { s2.plinth with
      esc := s2.plinth.esc.set 0 (n / 64) (s2.plinth.esc.get 0 (n / 64) ||| (1#64 <<< (n % 64)))
      intPend := s2.plinth.intPend ||| 1#8 } }

/-- The core enters handler mode (R331, R339): empty banks, S and M at TRAP_BASE + 4·cause of handler memory, where the
clocks of the two go on (R103). -/
def Core.enterHandler (c : Core) (cause cycle : Nat) : Core :=
  let at_ (t : Nat) : SeqState :=
    { pc := c.trapBase.toNat + 4 * cause, wc := (c.seqs.get {} t).wc, vclk := (c.seqs.get {} t).vclk }
  { c with
    modeFrom := c.mode, mode := .handler, hsreg := {}, hgreg := {}, hstack := []
    hseqs := ((({} : Sparse SeqState).set {} 0 (at_ 0)).set {} 2 (at_ 2))
    handlerSince := cycle, trapPend := none, ntrap := satInc 16 c.ntrap }

/-- The trap on the service core (R339, R341): S goes to its vector and C is held; in its handler the core halts.
DEDUCED (log 28). -/
def serviceTrap (s : State) (tp : TrapPend) : State :=
  let c := s.core Config.serviceCore
  if c.fwHandler then
    let s1 := s.setCore Config.serviceCore { c with halted := true, trapPend := none }
    { s1 with plinth := { s1.plinth with fatal := true } }
  else
    let q := c.seqs.get {} 0
    s.setCore Config.serviceCore { c with
      fwHandler := true, trapPend := none, ntrap := satInc 16 c.ntrap, handlerSince := s.cycle
      seqs := c.seqs.set {} 0 { q with pc := c.trapBase.toNat + 4 * tp.cause, wait := none } }

/-- The instance on core n is bound to a slice whose inputs are not final (R308). DEDUCED (log 68). -/
def provisional (s : State) (n : Nat) : Option Binding :=
  match (s.core n).inst with
  | some i => i.bind.bind (fun b => if (s.set b.set).final b.n then none else some b)
  | none => none

/-- Trap entry after the cut is formed and everything issued before it is performed (R338, R339): the registers are
written, and the trap is deferred, handled on the core, escalated, or taken by the service core. DEDUCED (log 17). -/
def enterTrap (s : State) (n : Nat) (tp : TrapPend) : State :=
  let c := (s.core n).trapRegs tp
  let s := s.setCore n { c with trapPend := none }
  if n = Config.serviceCore then serviceTrap s tp
  else if c.mode = .handler then escalate s n tp
  else
    match (if deferrable tp.cause then provisional s n else none) with
    | some b =>
      let r : FaultRec := { cause := tp.cause, eng := tp.eng, addr := tp.addr
                            pc := (c.seqs.get {} tp.eng).pc, core := n, gen := b.g }
      abandonNow (recordFault s b r) n 0x800000000000000A#64 (keepsRecord s b)
    | none =>
      if c.stopReq.any (fun r => !r.drain) then
        let stub := if c.mode = .stub then some (c.seqs.get {} 0).pc else none
        let s1 := parkInst s n { forced := true, stub := stub, trap := some tp } false
        { s1 with tasks := { s1.tasks with nforce := satInc 16 s1.tasks.nforce } }
      else if tp.cause ≤ 0x1F ∧ c.trapVec.getLsbD (tp.cause % 32) then
        s.setCore n ((s.core n).enterHandler tp.cause s.cycle)
      else escalate s n tp

/-- A trap pending on core n is entered as soon as the cut allows (R338 step 4). In handler mode it is a handler trap:
no instance sequencer runs, and the original cut stands (R341). A checkpoint under way waits for ordinary accesses alone
(R132), but for a fault that becomes an abandonment (R309 step 2). -/
def tryTrap (s : State) (n : Nat) : State :=
  let c := s.core n
  match c.trapPend with
  | some tp =>
    if drained s n ∨ (c.mode ≠ .handler ∧ c.stopReq.any (fun r => !r.drain) ∧ quiet s n ∧
        !(deferrable tp.cause && (provisional s n).isSome)) then enterTrap s n tp else s
  | none => s

/-- TAKING A TRAP: sequencer e of core n traps at its word, which has written nothing, unless one of lower tag traps in the same
cycle: e is then cut before its word. Every sequencer is cut at its word boundary, and entry follows (R338). A trap raised during
a checkpoint also ends it as a forced cut (R131). DEDUCED (log 34). DEDUCED (log 68). -/
def raise (s : State) (n : Nat) (e : Eng) (cause : Nat) (addr : W64) (cw : Bool) : State :=
  let c := s.core n
  let c1 := if c.mode = .handler then c else c.cutAll
  let tp : TrapPend := match forestalled s n e with
    | some x => ⟨x.2.1, x.2.2, x.1.tag, false⟩
    | none => ⟨cause, addr, e.tag, cw⟩
  tryTrap (s.setCore n { c1 with trapPend := some tp }) n

/-- The executing sequencer traps at its word. -/
def trapHere (cause : Nat) (addr : W64) (s : State) : State := raise s s.curCore s.curEng cause addr false

/-- The word being issued, zero-extended: what TRAP_ADDR reports for checks on the word (R334). -/
def State.wordVal (s : State) : W64 := s.word.setWidth 64

/-- How an instruction's outcome becomes the next state. -/
def conclude (s : State) (r : Except Stop State) : Out :=
  match r with
  | .ok t => .next t
  | .error (.trap c a) => .next (trapHere c a s)
  | .error (.wait k) => .next (stallIn k s)

/-- As `conclude`, for an instruction that may have translated addresses before it stopped: what the caches hold and count
stays where it traps. Where it stalls it translates when it issues, so that every access is counted once (R158), unless it is a
store that has failed already and waits for a place in the replay queue (R160). DESIGN CHOICE (log 95). -/
def concludeIn (s : State) (r : State × Except Stop State) : Out := match r.2 with
  | .error (.wait k) => conclude (if k.parkCause.isSome then r.1 else s) r.2
  | _ => conclude r.1 r.2

/-! ## RTE (R342) -/

/-- A sequencer restarted at word address `pc`. Elsewhere than where it was cut it no longer stands past its safe point. -/
def SeqState.restart (q : SeqState) (pc : Nat) : SeqState :=
  { q with pc := pc, wait := none, pfx := [], atSafe := if pc = q.pc then q.atSafe else none }

/-- The arrivals of barrier words that S no longer waits at are over: it stands at addresses that f covers (R143).
DESIGN CHOICE (log 91). -/
def Core.keepBars (c : Core) (f : Nat → Bool) : Core :=
  { c with
    inst := c.inst.map (fun i => { i with barw := i.barw.filter (fun b => f b.pc) })
    barw := c.barw.filter (fun b => f b.pc) }

/-- The pc that TRAP_PC holds for S. -/
def Core.savedPc (c : Core) : Nat := (c.trapPc.get (0, 0) 0).1.toNat

/-- Every sequencer of the instance restarts at its saved pc as TRAP_PC holds it. One that has executed ENDT has ended for good,
wherever a handler has moved its pc (R80, R342). DESIGN CHOICE (log 91). -/
def Core.restartAt (c : Core) : Core :=
  { c with seqs := Eng.all.foldl (fun m e =>
      m.set {} e.tag ((m.get {} e.tag).restart (c.trapPc.get (0, 0) e.tag).1.toNat)) c.seqs }

/-- A checkpoint that waits for its safe point stops the core at once where the leader stands just past one (R130). -/
def StopReq.atOnce (c : Core) (r : StopReq) : StopReq :=
  if r.drain ∨ r.k.isSome ∨ r.ends ∨ c.mode ≠ .run then r
  else
    match c.leader with
    | none => r
    | some e =>
      let q := c.seqs.get {} e.tag
      match q.atSafe with
      | some (i, k) => { r with k := some q.cc, index := i, loopk := k }
      | none => r
def Core.stopAtOnce (c : Core) : Core := { c with stopReq := c.stopReq.map (StopReq.atOnce c) }

/-- The clocks of S and M go on in the instance where the handler leaves them (R103). -/
def Core.keepClocks (c : Core) : Core :=
  { c with seqs := [0, 2].foldl (fun m t =>
      m.set {} t { m.get {} t with wc := (c.hseqs.get {} t).wc, vclk := (c.hseqs.get {} t).vclk }) c.seqs }

/-- Leaving handler mode: to stub mode with S alone restarted, or to instance mode (R342). -/
def Core.leaveHandler (c : Core) : Core :=
  let c0 := { c.keepClocks with hsreg := {}, hgreg := {}, hstack := [], hseqs := {} }
  if c.modeFrom = .stub then
    { (c0.keepBars (fun a => a = c.savedPc || a = c.stubPc)) with
      mode := .stub, seqs := c0.seqs.set {} 0 ((c0.seqs.get {} 0).restart c.savedPc) }
  else { (c0.keepBars (· = c.savedPc)).restartAt with mode := .run }.stopAtOnce

/-- The service core leaves its trap handler: C and S restart at TRAP_PC (R342). -/
def Core.leaveService (c : Core) : Core :=
  { (c.keepBars (· = c.savedPc)) with
    fwHandler := false
    seqs := [0, 3].foldl (fun m t =>
      let q := m.get {} t
      m.set {} t { q with pc := (c.trapPc.get (0, 0) t).1.toNat, wait := none, pfx := [] }) c.seqs }

/-! ## Issuing accesses -/

/-- A copy, bank or bulk-send operation of sequencer e of core n in class cls, issued by instance `key` before access number
`mark`, is in flight: its accesses come first (R167, R229). The entries of a send queue follow every other send (R276).
DESIGN CHOICE (log 41). -/
def backgroundHeld (s : State) (n : Nat) (key : Nat × Nat) (e : Eng) (cls mark : Nat) : Bool :=
  let c := s.core n
  (decide (e = .c) && c.copies.any (fun o => decide (o.owner = key) && o.carries (fun k => k = cls) && decide (o.id < mark))) ||
  (decide (e = .m) && decide (cls = 15) && c.bmvs.any (fun o => decide (o.owner = key) && decide (o.id < mark))) ||
  (decide (e = .f) && s.fabric.bulks.any (fun b => decide (b.core = n) && decide (b.owner = key) && decide (b.cls = cls) &&
    !b.queued && decide (b.lines ≠ 0) && decide (b.st = 0) && decide (b.id < mark)))

/-- A store that core n has seen and that is still to be performed at package scope writes one of these bytes (R166).
DEDUCED (log 43). -/
def seenOver (s : State) (n : Nat) (locs : List Nat) : Bool :=
  s.accs.any (fun a => decide (a.n = n) && a.atCore && (match a.eff with
    | .write _ bs => bs.any (fun b => locs.contains b.1)
    | _ => false))

/-- A store of sequencer e of core n that a fence at engine scope orders before access number `mark` writes one of these bytes and is
still pending (R170, R365). -/
def fencedOver (s : State) (n : Nat) (e : Eng) (mark : Nat) (locs : List Nat) : Bool :=
  s.accs.any (fun a => decide (a.n = n) && decide (a.eng = e.tag) && a.fencedAt.any (fun m => decide (m ≤ mark)) &&
    decide (a.no < mark) && (match a.eff with
      | .write _ bs => bs.any (fun b => locs.contains b.1)
      | _ => false))

/-- An access that core n has seen joins the pending ones, after those the core saw before it and before those it has not
seen. -/
def State.addSeen (s : State) (a : Access) : State :=
  { s with accs := s.accs.filter (·.atCore) ++ [{ a with atCore := true }] ++ s.accs.filter (fun x => !x.atCore) }

/-- An older access holds one of class cls of sequencer e of core n to `locs`: one of the sequencer and class, a reflected
store still in the device included, or a store to one of these bytes that the core has seen (R166, R167). DEDUCED (log 43). -/
def olderHeld (s : State) (n : Nat) (e : Eng) (cls : Nat) (locs : List Nat) : Bool :=
  s.fabric.sends.any (fun d => decide (d.core = n) && decide (d.eng = e.tag) && decide (d.owner = (s.core n).owner) &&
    decide (d.cls = cls) && decide (d.st = 0)) ||
  backgroundHeld s n (s.core n).owner e cls s.nextId ||
  s.accs.any (fun a => decide (a.n = n) && decide (a.eng = e.tag) && decide (a.owner = (s.core n).owner) &&
    decide (a.cls = cls)) ||
  seenOver s n locs || fencedOver s n e s.nextId locs

def State.withId (s : State) : State := { s with nextId := s.nextId + 1 }

/-- A store's bytes, performed at once, or left pending where the schedule defers it or an older access holds it.
DEDUCED (log 43). -/
def issueStore (s : State) (cls key : Nat) (bytes : List (Nat × Byte)) : State :=
  if s.defer ∨ olderHeld s s.curCore s.curEng cls (bytes.map (·.1)) then
    { s.withId with accs := s.accs ++ [{ id := s.nextId, n := s.curCore, eng := s.curEng.tag, owner := s.me.owner, cls := cls,
                                         eff := .write key bytes }] }
  else writeBytes s.withId key bytes

/-- The parked writes of sequencer e of core n that the instance `owner` issued: those of one that does not run are saved with it
(R163). -/
def ownParked (s : State) (n : Nat) (owner : Nat × Nat) (e : Eng) : List Parked :=
  (if (s.core n).owner = owner then (s.core n).replay else (s.core n).parkedAll).filter (fun p =>
    p.eng = e.tag ∧ p.owner = owner ∧ p.failed = false)

/-- What the latest write of an instance on sequencer e of core n that is parked gives location a, and the number of the
instruction that it comes from: the page is looked up again, as a retry does (R161, R167). -/
def parkedByte (s : State) (n : Nat) (owner : Nat × Nat) (e : Eng) (a : Nat) : Option (Nat × Byte) :=
  ((ownParked s n owner e).filterMap (fun p =>
    (p.bytes.find? (fun b => (walk s p.ctx (p.va.toNat + b.1)).any (fun t =>
      decide ((t.place s (p.va.toNat + b.1)).1 = a)))).map (fun b => (p.issued, b.2)))).getLast?

/-- The byte that a reader of core n, sequencer e, for the instance `owner`, finds at location a: its own latest write, pending or
parked, or a store of its core that has been performed there, or memory (R166, R167). A translation whose slot is no longer valid
reads zero (R157). -/
def loadByteOf (s : State) (n : Nat) (owner : Nat × Nat) (e : Eng) (key a : Nat) : Byte :=
  if isMain a ∧ key = deadKey then 0 else
  let seen := s.accs.filterMap (fun x =>
    match x.eff with
    | .write k bs =>
      if x.n = n ∧ (x.eng = e.tag ∨ x.atCore) ∧ k = key then (listGet a bs).map (fun b => (x, b)) else none
    | _ => none)
  let there := match seen.getLast? with
    | some x => x.2
    | none => memRead s key a
  match parkedByte s n owner e a with
  | some p => if seen.any (fun x => decide (x.1.eng = e.tag) && decide (p.1 < x.1.no)) then there else p.2
  | none => there

/-- As `loadByteOf`, for the running instance. -/
def loadByte (s : State) (n : Nat) (e : Eng) (key a : Nat) : Byte := loadByteOf s n (s.core n).owner e key a

/-- Line l is poisoned as a reader of core n, sequencer e, for the instance `owner`, meets it: its bit is set, and no earlier write
of all 128 bytes that the reader sees there, pending or parked, clears it (R164, R166, R167). DEDUCED (log 43). -/
def poisonSeen (s : State) (n : Nat) (owner : Nat × Nat) (e : Eng) (l : Nat) : Bool :=
  let cells := (List.range lineBytes).map (l * lineBytes + ·)
  s.poison.get false l &&
  !s.accs.any (fun x => decide (x.n = n) && (decide (x.eng = e.tag) || x.atCore) && (match x.eff with
    | .write k bs => !(isMain (l * lineBytes) && decide (k = deadKey)) && cells.all (fun a => (listGet a bs).isSome)
    | _ => false)) &&
  !(ownParked s n owner e).any (fun p => decide (p.bytes.length = lineBytes) && !p.poison &&
    (walk s p.ctx p.va.toNat).any (fun t => decide (t.place s p.va.toNat = (l * lineBytes, t.key)) && keyValid s t.key))

/-- As `poisonSeen`, for the executing sequencer. -/
def poisonHere (s : State) (l : Nat) : Bool := poisonSeen s s.curCore s.me.owner s.curEng l

/-- The bytes at (location, key) pairs as the executing sequencer finds them. -/
def loadBytes (s : State) (locs : List (Nat × Nat)) : List Byte :=
  locs.map (fun l => loadByte s s.curCore s.curEng l.2 l.1)

/-- A value delivered to a register: the bytes of a load in ascending order (R169, R99, R195). -/
def deliver (c : Core) (d : Dest) (bs : List Byte) : Core := match d with
  | .sreg n bytes signed =>
    let v := leNat bs
    c.setS n (BitVec.ofNat 64 (if signed ∧ v ≥ 2 ^ (8 * bytes - 1) then 2 ^ 64 + v - 2 ^ (8 * bytes) else v))
  | .greg eng n => c.setG (Eng.ofTag eng) n (BitVec.ofNat 64 (leNat bs))
  | .lanes p ls =>
    let old := c.vreg.get {} p
    { c with vreg := c.vreg.set {} p (ls.zipIdx.foldl (fun (v : VReg) x =>
        v.set 0 x.1 (BitVec.ofNat 32 (leNat ((bs.drop (4 * x.2)).take 4)))) old) }

/-- The loads of one instruction of the executing sequencer: each part is atomic, and they are performed at once, or left
pending, apart from one another, behind what holds them (R166). -/
def issueLoads (s : State) (cls : Nat) (ps : List (Dest × List (Nat × Nat))) : State :=
  if s.defer ∨ olderHeld s s.curCore s.curEng cls [] then
    { s with
      nextId := s.nextId + max 1 ps.length
      accs := s.accs ++ ps.zipIdx.map (fun p =>
        { id := s.nextId + p.2, op := some s.nextId, n := s.curCore, eng := s.curEng.tag, owner := s.me.owner, cls := cls
          eff := .read p.1.1 p.1.2 }) }
  else s.withId.setMe (ps.foldl (fun c p => deliver c p.1 (loadBytes s p.2)) s.me)

/-- A load of one part. -/
def issueLoad (s : State) (cls : Nat) (d : Dest) (locs : List (Nat × Nat)) : State := issueLoads s cls [(d, locs)]

/-- Whether a word may name the register that a pending load will write (R109), by its register fields: 5-bit fields of
S and V words, 4-bit fields of g registers. Holding a word that does not read the register only delays it.
DESIGN CHOICE (log 26). -/
def namesDest (c : Core) (w : Word) : Dest → Bool
  | .sreg n _ _ =>
    decide ((fld w 19 5).toNat = n) || decide ((fld w 14 5).toNat = n) || decide ((fld w 9 5).toNat = n) ||
    decide (n = 31)
  | .greg _ n => [20, 19, 16, 15, 14, 12, 3, 0].any (fun lo => decide ((fld w lo 4).toNat = n))
  | .lanes p _ => [19, 14, 9, 4].any (fun lo => decide (phys (fld w lo 5).toNat c.rrb = p)) ||
      decide (phys (fld w 3 4).toNat c.rrb = p)

/-- The word waits for a load of its sequencer that is still pending (R109). DESIGN CHOICE (log 26). -/
def interlocked (s : State) (n : Nat) (e : Eng) (w : Word) : Bool :=
  s.accs.any (fun a => decide (a.n = n) && decide (a.eng = e.tag) && (match a.eff with
    | .read d _ => namesDest (s.core n) w d
    | _ => false))

/-! ## Accesses behind the replay queue (R160, R161) -/

/-- The failed entry p leaves the queue of core n as its cause is delivered at a word of sequencer e. Where another sequencer's
trap comes first (R338 step 3), the word faults again later, and the entry stays for it. -/
def deliverFailed (s : State) (n : Nat) (e : Eng) (p : Parked) : State :=
  let c := s.core n
  if (forestalled s n e).isSome then s
  else s.setCore n { c with replay := c.replay.filter (fun x => x.id ≠ p.id) }

/-- What the common words that the executing sequencer has passed order before its accesses is not performed at core scope: an
access in a class of 0-14 waits for it (R68). Only a sequencer that has executed ENDT can have left it, since it counts as having
passed every common word (R66). DEDUCED (log 88). -/
def slipHeld (s : State) (f : Nat → Bool) : Bool :=
  (List.range 15).any f && (team s.curCore).any (fun p =>
    let x := s.me.seqs.get {} p.tag
    x.ended && x.crel.flatten.any (fun i => s.q.acq.contains i && pendingAt s true i))

/-- The queue of a core holds an entry of a class that f covers: of the running instance, or one that the operations of a stopped or
discarded instance have parked there. The entries that the stop of another instance has saved have left the queue (R132, R163).
DEDUCED (log 33). -/
def Core.queued (c : Core) (f : Nat → Bool) : Bool :=
  c.replay.any (fun p => (decide (p.owner = c.owner) || !p.failed) && f p.cls)

/-- A word of the executing sequencer that would wait on a parked or failed entry of a class that `f` covers: a failed
entry leaves the queue and its cause is delivered there, else the word waits. `any` makes every entry of the queue
count, as a fence does; the others are accesses, which also follow what common words order before them.
DEDUCED (log 33). -/
def behindParked (s : State) (any : Bool) (f : Nat → Bool) : State × Except Stop Unit :=
  let c := s.me
  let e := s.curEng
  let mine := c.replay.filter (fun p => p.owner = c.owner ∧ f p.cls)
  match mine.find? (fun p => p.failed && decide (p.eng = e.tag)) with
  | some p => (deliverFailed s s.curCore e p, .error (.trap p.cause p.va))
  | none =>
    if (any && c.replay.any (fun p => !p.failed && f p.cls)) || mine.any (fun p => !p.failed && decide (p.eng = e.tag)) then
      (s, .error (.wait .held))
    else if !any ∧ slipHeld s f then (s, .error (.wait .held))
    else (s, .ok ())

/-- The entries of a stopped instance of core n that its record counts: those saved with it, and those that its background
operations have parked since (R132, R163). -/
def Core.savedCount (c : Core) (p : Stopped) : Nat :=
  ((p.replay ++ c.replay.filter (fun x => x.owner = p.inst.key)).filter (fun x => !x.failed)).length

/-- The record of the stopped instance `key` of core n says how many entries are parked, at most 16 (R345); where one has come, it holds
that one too, whose content the spec does not give (R132). It stands in the save buffer or in the save slot. Of another instance
there is no record. DESIGN CHOICE (log 22). -/
def noteSaved (s : State) (n : Nat) (key : Nat × Nat) (come : Bool) : State :=
  let c := s.core n
  match (c.parked.toList ++ c.spilled).find? (fun q => q.inst.key = key) with
  | none => s
  | some p =>
    let k := c.savedCount p
    let at_ := 0x1700 + 256 * k
    let bs := if come ∧ k ≤ 16 then (List.range 256).map (fun o => Config.freeByte s.nonce (at_ + o)) else []
    let count := BitVec.ofNat 8 (min 16 k)
    if p.spilled then
      let a := saveSlot s p.inst.ctx n p.inst.cls
      plinthWrite (plinthWrite s p.inst.ctx (a + 0x70) [count]) p.inst.ctx (a + at_) bs
    else { s with mem := (locate at_ bs).foldl (fun m e => putByte m (saveLoc n e.1) e.2) (putByte s.mem (saveLoc n 0x70) count) }

/-- A main-memory write that fails translation or permission parks with its data (R160); on a full queue its sequencer
stalls. A background write of a stopped instance enters the queue as an entry of that instance and is saved with its others (R132): it
counts in NPARK, which R162 does not say of it, and its record takes it up at once. DESIGN CHOICE (log 86). -/
def parkWrite (s : State) (n : Nat) (p : Parked) : Except Stop State :=
  let c := s.core n
  if (c.replay.filter (fun p => !p.failed)).length ≥ 16 then .error (.wait (.replay p.cause))
  else
    let t := s.withId.setCore n { c with replay := c.replay ++ [{ p with id := s.nextId }], npark := satInc 16 c.npark }
    let t := { t with plinth := { t.plinth with intPend := t.plinth.intPend ||| 2#8 } }
    .ok (if p.owner = c.owner then t else noteSaved t n p.owner true)

/-! ## The quoin checker (R103-R106) -/

/-- A footprint in the core's own scratchpad: physical offset, length, whether written, and for MMA and MLD reads the
layout span (R104, R105). -/
structure Foot where
  base : Nat
  len : Nat
  write : Bool
  layout : Option Nat := none
  record : Option Nat := none
  deriving DecidableEq, Repr

def overlapAt (a la b lb : Nat) : Option Nat :=
  let lo := max a b
  if lo < min (a + la) (b + lb) then some lo else none

/-- The clock of the word that the executing sequencer issues now (R103): wc counts the word itself.
DEDUCED (log 12). -/
def State.issueClk (s : State) : Clk := s.q.vclk.set s.curEng (s.q.wc + 1)

/-- The lowest byte of an unordered overlap with a live entry, if any. R105 does not say which overlap is reported where a
footprint conflicts with several entries: here the lowest byte over all of them. DESIGN CHOICE (log 76). -/
def Core.conflict (c : Core) (e : Eng) (f : Foot) : Option Nat :=
  let k := (c.seq e).vclk
  (c.regions.filterMap (fun r =>
    if r.eng ≠ e.tag ∧ (f.write ∨ r.write) ∧ !cntGe (k.get (Eng.ofTag r.eng)) r.count then
      overlapAt f.base f.len r.base r.len
    else none)).foldl (fun a x => match a with
      | none => some x
      | some y => some (min x y)) none

/-- The lowest byte where the layout span differs from a copy's (R105). -/
def Core.spanClash (c : Core) (e : Eng) (f : Foot) : Option Nat :=
  match f.layout with
  | none => none
  | some sp =>
    (c.regions.filterMap (fun r =>
      match r.span with
      | some x => if r.eng ≠ e.tag ∧ x ≠ sp then overlapAt f.base f.len r.base r.len else none
      | none => none)).foldl (fun a x => match a with
        | none => some x
        | some y => some (min x y)) none

/-- The issue-time checks and registration of an instruction's footprints on the executing sequencer (R104-R106), off while
DETMODE is 0. Addresses reported are those of the instance's own map. R105 and R106 leave four points open: of two
footprints the first that conflicts is reported, a word that conflicts traps although the table is full or its oldest entry
too old, a word stalls where its footprints do not all find a free entry, and one that meets both conditions of R106 waits for the
table first, and for its old entry, as a new wait, once there is room. DEDUCED (log 12). DESIGN CHOICE (log 76). -/
def quoin (s : State) (fs : List Foot) : Except Stop State :=
  let c := s.me
  let e := s.curEng
  if c.detmode = false ∨ fs = [] then .ok s
  else
    let shift := match c.inst with
      | some i => i.base * unitBytes
      | none => 0
    let rep (x : Nat) : W64 := BitVec.ofNat 64 (x - shift)
    match (fs.filterMap (c.conflict e)).head? with
    | some x => .error (.trap 0xC (rep x))
    | none =>
      match (fs.filterMap (c.spanClash e)).head? with
      | some x => .error (.trap 0xD (rep x))
      | none =>
        let q := c.seq e
        let old := c.regions.filter (fun r => r.eng = e.tag)
        if c.regions.length + fs.length > 64 then .error (.wait (.quoin false))
        else if old.any (fun r => decide ((q.wc + 1 - r.count).toNat ≥ 2 ^ 23)) then .error (.wait (.quoin true))
        else .ok (s.setMe { c with regions := c.regions ++ fs.map (fun f =>
          { base := f.base, len := f.len, write := f.write, eng := e.tag, count := q.wc + 1, span := f.record }) })

/-- The clock of sequencer e: in handler mode those of S and M go on there. -/
def Core.clock (c : Core) (e : Eng) : Clk :=
  if c.mode = .handler ∧ (e = .s ∨ e = .m) then (c.hseqs.get {} e.tag).vclk else (c.seqs.get {} e.tag).vclk

/-- A live entry of a core whose sequencers are `es` retires once every other one that has not ended follows it (R106). -/
def Core.retires (c : Core) (es : List Eng) (r : Region) : Bool :=
  es.all (fun p => decide (p.tag = r.eng) || (c.seqs.get {} p.tag).ended ||
    cntGe ((c.clock p).get (Eng.ofTag r.eng)) r.count)
def Core.prune (c : Core) (es : List Eng) : Core := { c with regions := c.regions.filter (fun r => !c.retires es r) }

/-- The footprint of `len` bytes at a location, where it lies in the scratchpad of the executing core reached through
its own range. -/
def ownFoot (s : State) (a loc len : Nat) (write : Bool) : List Foot :=
  if a < 0x400000 then [{ base := loc - spLoc s.curCore 0, len := len, write := write }] else []

/-! ## Ring slots (R240-R242) -/

def Ring.slot (r : Ring) (j : Nat) : Slot := r.slots.get {} j
def Ring.putSlot (r : Ring) (j : Nat) (x : Slot) : Ring := { r with slots := r.slots.set {} j x }

/-- Counts `written` and `skipped` bytes into slot j, the written ones first where both do not fit, notes the accesses that wrote
and are still to be performed at package scope, and makes the slot full when A reaches X (R241, R242). The Bool says that OVF was set.
DESIGN CHOICE (log 87). -/
def Ring.countIn (r : Ring) (j written skipped : Nat) (rel : List Nat) : Ring × Bool :=
  let x := r.slot j
  if x.tag ≠ 1 then
    if written = 0 then (r, false) else ({ r with ovf := true }, true)
  else
    let room := x.x - x.a
    let tooMany := decide (written + skipped > room)
    let w := min written room
    let sk := min skipped (room - w)
    let y := { x with
      a := x.a + w + sk, b := x.b + w, rel := x.rel ++ rel }
    let y := if y.a ≥ y.x then { y with tag := 2 } else y
    ({ (r.putSlot j y) with ovf := r.ovf || tooMany }, tooMany)

/-- Counted bytes of an operation that counts toward `ct`. DEDUCED (log 51). Where OVF is set the NOVF of the core that issued the operation
rises, and for a reflected arrival that of the ring's core. DESIGN CHOICE (log 96). -/
def countSlot (s : State) (issuer : Nat) (ct : Count) (written skipped : Nat) (rel : List Nat) : State :=
  let c := s.core ct.core
  let rs := c.ringsOf (ct.launch, ct.inst)
  let r := (rs.get {} ct.ring).countIn ct.slot written skipped rel
  let s1 := s.setCore ct.core (c.setRingsOf (ct.launch, ct.inst) (rs.set {} ct.ring r.1))
  if r.2 then
    let d := s1.core issuer
    s1.setCore issuer { d with novf := satInc 16 d.novf }
  else s1

/-- The filling slot within which `len` bytes at own-scratchpad address a lie wholly (R225, R243). -/
def Ring.filling (r : Ring) (a len : Nat) : Option Nat :=
  if !r.valid ∨ r.size = 0 ∨ a < r.base then none
  else
    let j := (a - r.base) / r.size
    if j < r.count ∧ a + len ≤ r.base + (j + 1) * r.size ∧ (r.slot j).tag = 1 then some j else none

/-- What the latest RELS of the counted ring released is still pending: no counted write may come before it (R168). -/
def countHeld (s : State) (ct : Option Count) : Bool := match ct with
  | some ct => (((s.core ct.core).ringsOf (ct.launch, ct.inst)).get {} ct.ring).rel.any (pendingAt s true)
  | none => false

/-- The error flag of the slot an operation counts toward is set (R226). -/
def markSlot (s : State) (ct : Count) : State :=
  let c := s.core ct.core
  let rs := c.ringsOf (ct.launch, ct.inst)
  let r := rs.get {} ct.ring
  if (r.slot ct.slot).tag = 1 then
    s.setCore ct.core (c.setRingsOf (ct.launch, ct.inst) (rs.set {} ct.ring
      (r.putSlot ct.slot { r.slot ct.slot with err := true })))
  else s

/-- The address of the slot an operation counts toward, as the error log gives it (R356). -/
def slotAddr (s : State) (ct : Option Count) : W64 := match ct with
  | some ct =>
    let r := ((s.core ct.core).ringsOf (ct.launch, ct.inst)).get {} ct.ring
    BitVec.ofNat 64 (r.base + ct.slot * r.size)
  | none => 0

/-- A slot that is not drained yet made full at once with its error flag set (R238): one that is full already keeps B and takes the flag,
and a draining or empty one stays as it is. DESIGN CHOICE (log 96). -/
def failSlot (s : State) (ct : Count) : State :=
  let c := s.core ct.core
  let rs := c.ringsOf (ct.launch, ct.inst)
  let r := rs.get {} ct.ring
  let x := r.slot ct.slot
  if x.tag = 1 ∨ x.tag = 2 then
    s.setCore ct.core (c.setRingsOf (ct.launch, ct.inst) (rs.set {} ct.ring (r.putSlot ct.slot { x with tag := 2, err := true })))
  else s

/-! ## The system error log (R356) -/

/-- Appends a record, or counts it lost where the ring holds 511. -/
def logError (s : State) (type core eng module : Nat) (addr info : W64) : State :=
  let p := s.plinth
  if (p.elogTail - p.elogHead).toNat ≥ 511 then { s with plinth := { p with nlost := satInc 16 p.nlost } }
  else
    let a := 32 * p.elogTail.toNat
    let bs := locate a (leBytes 2 type ++ leBytes 1 core ++ leBytes 1 (eng % 8) ++ leBytes 2 module ++ leBytes 2 0 ++
      leBytes 8 addr.toNat ++ leBytes 8 s.ftime ++ leBytes 8 info.toNat)
    { s with plinth := { p with
        elog := bs.foldl (fun m e => m.set 0 e.1 e.2) p.elog
        elogTail := p.elogTail + 1
        intPend := p.intPend ||| 0x80#8 } }

/-- The record of a poisoned line that a word of sequencer e reads at a location (types 1 and 2 of R356), unless the word is cut first
(R338 step 3). -/
def logPoison (s : State) (n : Nat) (e : Eng) (a : Nat) : State :=
  if (forestalled s n e).isSome then s
  else if isMain a then
    let o := (a - mainBase) / lineBytes * lineBytes
    logError s 2 n e.tag (o / 2 ^ 39) (BitVec.ofNat 64 (2 ^ 43 + o)) 0
  else
    let o := (a - spBase) / lineBytes * lineBytes
    logError s 1 n e.tag 0xFFFF (BitVec.ofNat 64 (o % 0x400000 + 2 ^ 22 * (o / 0x400000))) 0

end Sys2Proof.Machine
end

