-- ==== Sys2Proof/Machine/Operands.lean ====
section
/-!
DEFINITION. Operand forms: immediates with their prefixes (R21, R28, R29), branch targets (R17), register results, and
the parameter stack (R95).
-/

namespace Sys2Proof.Machine

/-- The prefix fields the executing sequencer holds, joined above a field of `w` bits: p0 : p1 : imm as an integer, signed
(R28, R29). -/
def withPrefixes (s : State) (w : Nat) (imm : BitVec w) : Int :=
  match s.q.pfx with
  | [] => imm.toInt
  | [p] => (p ++ imm).toInt
  | p0 :: p1 :: _ => (p0 ++ p1 ++ imm).toInt

/-- The first prefix word the executing sequencer holds: what a trap at it reports (R28, R29, R334). -/
def prefixWord (s : State) : W64 :=
  let hi : BitVec 8 := BitVec.ofNat 8 (32 * s.curEng.tag + 31)
  (hi ++ s.q.pfx.headD 0).setWidth 64

/-- The immediate of an S-imm target or of an engine target: sign-extended, its low 64 bits kept (R21, R28, R29). -/
def immVal (s : State) {w : Nat} (imm : BitVec w) : W64 := BitVec.ofInt 64 (withPrefixes s w imm)

/-- The value of LUP: the field times 2^13, modulo 2^64 (R28, R90). -/
def upperVal (s : State) (imm : BitVec 19) : W64 := BitVec.ofInt 64 (withPrefixes s 19 imm * 8192)

/-- A word address as a branch target: none outside 0 to 65,535 (R17). -/
def target (pc : Nat) {w : Nat} (off : BitVec w) : Int := (pc : Int) + off.toInt

/-- A branch, taken or not: its target is checked either way (R91), and an illegal one traps 0x0006 with the target. -/
def branch (taken : Bool) {w : Nat} (off : BitVec w) (s : State) : Out :=
  let t := target s.q.pc off
  if 0 ≤ t ∧ t ≤ 65535 then .next (advanceTo (if taken then t.toNat else s.q.pc + 1) s)
  else .next (trapHere 6 (BitVec.ofInt 64 t) s)

/-- A jump to a register value (R92). -/
def jumpTo (v : W64) (s : State) : Out :=
  if v.toNat ≤ 65535 then .next (advanceTo v.toNat s) else .next (trapHere 6 v s)

/-- A result in sd: the word completes. -/
def resultS (d : BitVec 5) (v : W64) (s : State) : Out := .next (retire (s.putS d v))

/-- A result in gd: the word completes. -/
def resultG (d : BitVec 4) (v : W64) (s : State) : Out := .next (retire (s.putG d v))

def State.stk (s : State) : List W64 := s.me.stk s.curEng
def State.putStk (s : State) (l : List W64) : State := s.setMe (s.me.setStk s.curEng l)

/-- The depth of the parameter stack, as a trap reports it (R334). -/
def depthVal (s : State) : W64 := BitVec.ofNat 64 s.stk.length

/-- Pushes a value: a full stack traps 0x0010 before it pushes (R95). -/
def push (v : W64) (s : State) : Out :=
  if s.stk.length ≥ 8 then .next (trapHere 0x10 (depthVal s) s) else .next (retire (s.putStk (v :: s.stk)))

/-- The top n entries, or the trap 0x0010 with nothing popped (R95). -/
def needs (s : State) (n : Nat) : Except Stop Unit :=
  if s.stk.length < n then .error (.trap 0x10 (depthVal s)) else .ok ()

/-- Entry i from the top of the stack. -/
def State.arg (s : State) (i : Nat) : W64 := s.stk.getD i 0

/-- The stack without its top n entries. -/
def State.pop (s : State) (n : Nat) : State := s.putStk (s.stk.drop n)

def trapIf (b : Bool) (cause : Nat) (addr : W64) : Except Stop Unit :=
  if b then .error (.trap cause addr) else .ok ()

/-- A trap 0x0001 of an operand value, reported as the word (R334). -/
def badOperand (s : State) (b : Bool) : Except Stop Unit := trapIf b 1 s.wordVal

/-- In handler mode the word is a handler trap (R331), whose cause the spec does not name: a free value among the causes
(log 8). -/
def notInHandler (s : State) : Except Stop Unit :=
  if s.me.mode = .handler then
    .error (.trap (Config.freeNat s.nonce 8 % 0x1A + 1) s.wordVal)
  else .ok ()

end Sys2Proof.Machine
end

