-- ==== Sys2Proof/Machine/Fetch.lean ====
section
/-!
DEFINITION. Which sequencers issue, and what they find at their pc (R15, R17, R19, R330, R331).
-/

namespace Sys2Proof.Machine

/-- The word at address a of core n: instruction memory, or handler memory in handler mode (R16, R331). -/
def wordAt (s : State) (n a : Nat) : Word :=
  if (s.core n).mode = .handler then s.hmem.get 0 (4096 * n + a) else s.imem.get 0 (65536 * n + a)

/-- Word address a of core n's text holds a LOOPK. -/
def loopkAt (s : State) (n a : Nat) : Bool := match decode (s.imem.get 0 (65536 * n + a)) with
  | .ok (.loopk _) => true
  | _ => false

/-- The word addresses that exist (R17, R331). -/
def textLimit (s : State) (n : Nat) : Nat := if (s.core n).mode = .handler then 4096 else 65536

/-- The state with sequencer e of core n executing at its pc. -/
def State.as (s : State) (n : Nat) (e : Eng) : State :=
  { s with curCore := n, curEng := e, word := wordAt s n ((s.core n).seq e).pc, defer := false }

/-- The word 0x1A00_3001, RTE: the stop point of M in handler mode (R331). -/
def rteWord : Word := 0x1A003001#32

/-- Whether sequencer e of core n examines a word as its own or a common one (R15, R17, R331). In a handler, S takes the words
of the held engines, which trap there. DEDUCED (log 34). -/
def takes (s : State) (n : Nat) (e : Eng) (w : Word) : Bool :=
  let t := (fld w 29 3).toNat
  let handler := decide ((s.core n).mode = .handler)
  decide (t = e.tag) || decide (t = 7) ||
  (decide (e = .s) && (decide (t = 5) || decide (t = 6) ||
    (decide (n = Config.serviceCore) && (decide (t = 1) || decide (t = 2) || decide (t = 4))) ||
    (handler && (decide (t = 1) || decide (t = 3) || decide (t = 4))))) ||
  (decide (e = .m) && handler && decide (w = rteWord))

/-- What the examination of up to eight words finds: a word at an address, an address beyond the text, or eight foreign
words. -/
inductive Exam where
  | found (pc : Nat) (w : Word)
  | beyond (a : Nat)
  | foreign
  deriving DecidableEq, Repr

def examineFrom (s : State) (n : Nat) (e : Eng) : Nat → Nat → Exam
  | 0, _ => .foreign
  | k + 1, a =>
    if a ≥ textLimit s n then .beyond a
    else if takes s n e (wordAt s n a) then .found a (wordAt s n a)
    else examineFrom s n e k (a + 1)

/-- One cycle's examination of the executing sequencer (R17). -/
def examine (s : State) : Exam := examineFrom s s.curCore s.curEng 8 s.q.pc

/-- The sequencer goes on to `pc` over foreign words. It is inside the kernel once its pc has equalled the kernel offset (R70).
The first iteration of the kernel, which decides the entry of a stop at LOOPK, begins for it when it comes to the kernel offset,
be it among the foreign words that one cycle passes (R17, R76). DEDUCED (log 30). One that has left the kernel is inside it again
when its pc equals the offset once more. DESIGN CHOICE (log 94). -/
def SeqState.comeTo (q : SeqState) (kern pc : Nat) : SeqState :=
  let begins := !q.inIter && decide (q.pc ≤ kern) && decide (kern ≤ pc)
  { q with
    pc := pc
    inKernel := q.inKernel || decide (q.pc = kern) || decide (pc = kern)
    inIter := q.inIter || begins
    lastSafe := if begins then none else q.lastSafe }

/-- The kernel offset of the executing core's instance. -/
def State.kern (s : State) : Option Nat := s.me.inst.map (·.lrec.kern)

def State.notePc (s : State) (pc : Nat) : State :=
  s.setQ (match s.kern with
    | some k => if s.me.mode = .run then s.q.comeTo k pc else { s.q with pc := pc }
    | none => { s.q with pc := pc })

/-- FOREIGN_WORDS_PASSED (R17): eight words that are not the sequencer's own are passed, or the first address beyond the text
traps. -/
def execForeignWordsPassed (s : State) : Out :=
  match examine s with
  | .foreign => .next (s.notePc (s.q.pc + 8))
  | .beyond a => .next (trapHere 6 (BitVec.ofNat 64 a) s)
  | .found _ _ => .next s

/-- RESERVED_TAG (R18). -/
def execReservedTag (s : State) : Out := .next (trapHere 2 s.wordVal s)

/-- ZERO_WORD (R18). -/
def execZeroWord (s : State) : Out := .next (trapHere 3 0 s)

end Sys2Proof.Machine
end

