-- ==== Sys2Proof/Machine/Common.lean ====
section
/-!
DEFINITION. The common words (R65-R80) but RFENCE, and what every one of them does: the common-word record, slip, the
passed count, the clocks, and what a safe point decides.
-/

namespace Sys2Proof.Machine

/-- The common words sequencer p has passed; none once it has executed ENDT, when it has passed every one (R66). -/
def SeqState.passed (q : SeqState) : Option Nat := if q.ended then none else some (q.cc.toNat - q.unpassed.length)

/-- The slip bound lets sequencer e of core n execute its next common word (R67). -/
def slipOk (c : Core) (n : Nat) (e : Eng) : Bool :=
  (team n).all (fun p =>
    match (c.seqs.get {} p.tag).passed with
    | some k => decide ((c.seqs.get {} e.tag).cc.toNat + 1 ≤ k + c.slipw.toNat)
    | none => true)

/-- The address recorded for the next common word of sequencer q, if another sequencer has executed it (R65). -/
def Core.recorded (c : Core) (q : SeqState) : Option Nat := c.cwRec[q.cc.toNat - c.cwBase]?

/-- A sequencer stalls at an RFENCE elsewhere as its next common word, which has the executing one's number: it came to it first
(R65, R273). DEDUCED (log 48). -/
def fenceElsewhere (s : State) : Bool :=
  (team s.curCore).any (fun p => decide (p ≠ s.curEng) &&
    (let x := s.me.seqs.get {} p.tag
     x.wait.any (fun w => decide (w.kind = .rfence)) && decide (x.cc = s.q.cc) && decide (x.pc ≠ s.q.pc)))

/-- What a common word is checked for before it executes: no handler (R331), no stub (R134), the record (R65), slip (R67). A word that
would trap and that slip would hold traps. DESIGN CHOICE (log 94). -/
def commonReady (s : State) : Except Stop Unit := do
  notInHandler s
  trapIf (decide (s.me.mode = .stub)) 1 s.wordVal
  trapIf ((s.me.recorded s.q).any (fun a => decide (a ≠ s.q.pc)) || fenceElsewhere s) 1 s.wordVal
  if slipOk s.me s.curCore s.curEng then .ok () else .error (.wait .slip)

/-- An access of sequencer e of core n that was issued before access number `mark`, in classes 0-14, is not performed at
core scope (R66). A parked write that firmware has failed, which is never performed, no longer holds the passing, of which R66 says
nothing. DESIGN CHOICE (log 85). -/
def heldBefore (s : State) (n : Nat) (e : Eng) (mark : Nat) : Bool :=
  let c := s.core n
  s.accs.any (fun a => decide (a.n = n) && decide (a.eng = e.tag) && decide (a.cls < 15) && !a.atCore && decide (a.no < mark)) ||
  c.replay.any (fun p => decide (p.eng = e.tag) && decide (p.owner = c.owner) && decide (p.cls ≠ 15) && !p.failed &&
    decide (p.issued < mark)) ||
  (decide (e = .c) && c.copies.any (fun o => decide (o.owner = c.owner) && o.carries (fun k => k ≠ 15) && decide (o.id < mark))) ||
  (decide (e = .f) && s.fabric.bulks.any (fun b => decide (b.core = n) && decide (b.owner = c.owner) && decide (b.cls ≠ 15) &&
    decide (b.lines ≠ 0) && decide (b.st = 0) && decide (b.id < mark)))

/-- wc of sequencer p at its k-th common word (R103). -/
def SeqState.wcAt (q : SeqState) (k : Nat) : Option (BitVec 24) := q.wcat[q.cc.toNat - k]?

/-- What the clock of a sequencer follows when it executes its c-th common word (R103). -/
def slipClock (c : Core) (n : Nat) (k : Clk) (cc : Nat) : Clk :=
  if cc > c.slipw.toNat then
    (team n).foldl (fun k p =>
      match (c.seqs.get {} p.tag).wcAt (cc - c.slipw.toNat) with
      | some w => k.set p (cntMax (k.get p) w)
      | none => k) k
  else k

/-- What sequencer p released at its k-th common word (R68). -/
def SeqState.relAt (q : SeqState) (k : Nat) : List Nat := q.crel.getD (q.cc.toNat - k) []

/-- What passing the c-th common word acquires: what every sequencer released at its (c − SLIPW)-th (R68, R142, R168).
DEDUCED (log 88). -/
def slipAcquired (c : Core) (n cc : Nat) : List Nat :=
  if cc > c.slipw.toNat then (team n).flatMap (fun p => (c.seqs.get {} p.tag).relAt (cc - c.slipw.toNat)) else []

/-- The record holds what some sequencer has executed and another has not (R65). -/
def Core.trimRec (c : Core) (n : Nat) : Core :=
  let low := ((team n).map (fun p => (c.seqs.get {} p.tag).cc.toNat)).foldl min (c.seqs.get {} 0).cc.toNat
  { c with cwRec := c.cwRec.drop (low - c.cwBase), cwBase := max c.cwBase low }

/-- The common word counts: cc, the record, the clocks, what it releases and acquires, and the passing, which is registered at
once where nothing issued before the word is outstanding (R65, R66, R68, R103). The word has still to complete.
DEDUCED (log 12). -/
def countCommon (s : State) : State :=
  let c := s.me
  let e := s.curEng
  let q := s.q
  let q1 := { q with
    cc := q.cc + 1
    vclk := slipClock c s.curCore q.vclk (q.cc.toNat + 1)
    wcat := (q.wc + 1) :: q.wcat.take 31
    crel := edgeSet s s.curCore e :: q.crel.take 31
    acq := (q.acq ++ slipAcquired c s.curCore (q.cc.toNat + 1)).filter (pendingAt s false)
    unpassed := if q.unpassed = [] ∧ heldBefore s s.curCore e s.nextId = false then [] else q.unpassed ++ [s.nextId] }
  let c1 := { c.setSeq e q1 with
    cwRec := if c.recorded q = none then c.cwRec ++ [q.pc] else c.cwRec }
  s.setMe (c1.trimRec s.curCore)

/-- A safe-point word raised cc above that of every other sequencer that has not executed ENDT (R78).
DEDUCED (log 30). -/
def leads (c : Core) (n : Nat) (e : Eng) : Bool :=
  (team n).all (fun p => decide (p = e) || (c.seqs.get {} p.tag).ended ||
    decide ((c.seqs.get {} p.tag).cc.toNat < (c.seqs.get {} e.tag).cc.toNat))

/-- What a completed safe-point word decides: SPDIST (R78), an abandonment for a cancelled set (R315), and then the count a
checkpoint stops at (R130). `idx` is the entry a stop here uses (R76). DEDUCED (log 30). -/
def safePoint (idx : Nat) (loopk : Bool) (s : State) : State :=
  let c := s.me
  let e := s.curEng
  let q := s.q
  let c1 := { c.setSeq e { q with atSafe := some (idx, loopk) } with spdist := if leads c s.curCore e then 0 else c.spdist }
  if c.cancel = some e.tag then
    let c2 := Eng.all.foldl (fun c p => c.setSeq p ((c.seqs.get {} p.tag).cut p)) c1
    tryAbandon (s.setMe { c2 with abandon := some (sliceStatus 11) }) s.curCore
  else
    s.setMe { c1 with stopReq := c.stopReq.map (fun r =>
      if !r.drain ∧ r.k = none ∧ !r.ends ∧ leads c s.curCore e then { r with k := some q.cc, index := idx, loopk := loopk }
      else r) }

/-- The trip count of the core's instance (R73). DESIGN CHOICE (log 29). -/
def State.trips (s : State) : Nat := match s.me.inst with
  | some i => i.lrec.trips
  | none => Config.firmwareTrips

/-- NOPC (R79). -/
def execNopc (s : State) : Out := conclude s (do
  commonReady s
  .ok (retire (countCommon s)))

/-- SAFEPT (R75). A SAFEPT of a kernel iteration is its latest (R76). -/
def execSafept (i : BitVec 16) (s : State) : Out := conclude s (do
  commonReady s
  let t := countCommon s
  let q := t.q
  let t := t.setQ { q with lastSafe := if q.inIter then some i.toNat else none }
  .ok (safePoint i.toNat false (retire t)))

/-- The target of a common branch, checked (R17). -/
def commonTarget (o : BitVec 24) (s : State) : Except Stop Nat :=
  let t := target s.q.pc o
  if 0 ≤ t ∧ t ≤ 65535 then .ok t.toNat else .error (.trap 6 (BitVec.ofInt 64 t))

/-- LOOPK (R73): count, rotation and branch in one step. A target that R17 forbids is reported first, 0x0006: before the 0x0001 of
a rebuild stub (R134), and before that of a word that differs from the common-word record (R65). DESIGN CHOICE (log 76). -/
def execLoopk (o : BitVec 24) (s : State) : Out := conclude s (do
  notInHandler s
  let t ← commonTarget o s
  commonReady s
  let u := countCommon s
  let q := u.q
  let again := decide ((q.iter + 1).toNat < s.trips)
  let u := u.setQ { q with iter := q.iter + 1, lastSafe := none, inKernel := q.inKernel && again
                           inIter := q.inIter && again }
  let u := if s.curEng = .v then u.setMe { u.me with rrb := u.me.rrb + 1 } else u
  .ok (safePoint (q.lastSafe.getD 0) true (advanceTo (if again then t else s.q.pc + 1) u)))

/-- LEXIT (R74). Its checks come in LOOPK's order: the target before the stub and the common-word record.
DESIGN CHOICE (log 76). -/
def execLexit (o : BitVec 24) (s : State) : Out := conclude s (do
  notInHandler s
  let t ← commonTarget o s
  commonReady s
  let u := countCommon s
  let q := u.q
  .ok (advanceTo t (u.setQ { q with inKernel := false, inIter := false })))

/-- ENDT (R80): the sequencer has executed the word and stays at it. Where it leads and a checkpoint waits for its next
safe point, the instance ends and nothing is saved (R130). -/
def execEndt (s : State) : Out := conclude s (do
  commonReady s
  let lead := decide (s.me.leader = some s.curEng)
  let u := advanceTo s.q.pc (countCommon s)
  let u := u.setQ { u.q with ended := true, unpassed := [] }
  let c := u.me
  .ok (u.setMe { c with stopReq := c.stopReq.map (fun r => if lead ∧ r.k = none then { r with ends := true } else r) }))

/-- COMMON_WORD_PASS (R66): the oldest unpassed common word of sequencer q is registered as passed. -/
def execCommonWordPass (n : Nat) (e : Eng) (s : State) : Out :=
  let c := s.core n
  let q := c.seqs.get {} e.tag
  match q.unpassed with
  | [] => .next s
  | m :: l =>
    if heldBefore s n e m then .next s
    else .next (s.setCore n { c with seqs := c.seqs.set {} e.tag { q with unpassed := l } })

/-- An access of an instance has drained: nothing is left unpassed at a cut (R66, R346). -/
def Core.passAll (c : Core) : Core :=
  { c with seqs := Eng.all.foldl (fun m e => m.set {} e.tag { m.get {} e.tag with unpassed := [] }) c.seqs }

/-- The deferred slice fault due to the instance traps before S's next word, but in no handler (R310). -/
def deliverDue (s : State) : Option State :=
  if s.curEng = .s ∧ s.me.mode ≠ .handler ∧ s.me.fwHandler = false ∧ s.q.pfx = [] then
    (dueDelivery s s.curCore).map (fun d =>
      trapHere 0x12 (sliceToken d.1 d.2 ((s.set d.1).slice d.2).gen) (markDelivered s d.1 d.2))
  else none

/-- A stalled sequencer takes up its word again as `f` says, unless a deferred slice fault comes before it (R310). -/
def resumeWord (s : State) (f : Out) : Out := match deliverDue s with
  | some t => .next t
  | none => f

end Sys2Proof.Machine
end

