-- ==== Sys2Proof/Machine/Events.lean ====
section
/-!
DEFINITION. Events: posts and awaits of S and of the engines, TAWAIT, and what wakes a waiting sequencer (R81-R86).
-/

namespace Sys2Proof.Machine

def Core.fifo (c : Core) (ev : Nat) : List Post := c.events.get [] ev
def Core.setFifo (c : Core) (ev : Nat) (l : List Post) : Core := { c with events := c.events.set [] ev l }

/-- A wait to post on the event, and a wait to take a post from it. -/
def WaitKind.posts (ev : Nat) : WaitKind → Bool
  | .post e => decide (e = ev)
  | _ => false
def WaitKind.takes (ev : Nat) : WaitKind → Bool
  | .await e => decide (e = ev)
  | .awaitHeld e => decide (e = ev)
  | .tawait e _ => decide (e = ev)
  | .tawaitHeld e _ => decide (e = ev)
  | _ => false

/-- Another sequencer of the core began to wait earlier in a wait that f covers (R82). DEDUCED (log 32). -/
def queuedBefore (s : State) (f : WaitKind → Bool) : Bool :=
  let c := s.me
  let mine := match s.q.wait with
    | some w => w.order
    | none => s.order
  Eng.all.any (fun p => decide (p ≠ s.curEng) && (match (c.seqs.get {} p.tag).wait with
    | some w => f w.kind && decide (w.order < mine)
    | none => false))

/-- A post with value v enters the FIFO with the poster's clock and what it releases; a full event stalls the poster
(R81-R83). -/
def postTo (ev : Nat) (v : Word) (s : State) : Except Stop State := do
  notInHandler s
  let c := s.me
  if (c.fifo ev).length ≥ 8 ∨ queuedBefore s (WaitKind.posts ev) then .error (.wait (.post ev))
  else
    let p : Post := { value := v, clk := s.issueClk, rel := edgeSet s s.curCore s.curEng }
    .ok (s.setMe (c.setFifo ev (c.fifo ev ++ [p])))

/-- The oldest post where it can be taken: there is one, no earlier awaiter waits for it, and what it releases has been
performed at core scope or has failed (R82, R83). `inl` says whether the await waits for accesses alone. -/
def takeable (ev : Nat) (s : State) : Bool ⊕ (Post × List Post) :=
  match s.me.fifo ev with
  | [] => .inl false
  | p :: l =>
    if queuedBefore s (WaitKind.takes ev) then .inl false
    else if p.rel.any (pendingAt s true) then .inl true
    else .inr (p, l)

/-- The post p is consumed: its clock is merged and what it releases is acquired (R82, R168). -/
def takePost (ev : Nat) (p : Post) (l : List Post) (s : State) : State :=
  let s1 := s.setMe (s.me.setFifo ev l)
  let q := s1.q
  acquire p.rel (s1.setQ { q with vclk := q.vclk.merge p.clk })

/-- An await: the state after the post is consumed, and its value. -/
def awaitOn (ev : Nat) (s : State) : Except Stop (State × Word) := do
  notInHandler s
  match takeable ev s with
  | .inr (p, l) => .ok (takePost ev p l s, p.value)
  | .inl true => .error (.wait (.awaitHeld ev))
  | .inl false => .error (.wait (.await ev))

/-! S event instructions (R84). -/

def execPost (e : BitVec 6) (s : State) : Out := conclude s (do .ok (retire (← postTo e.toNat 0 s)))
def execPostv (r : BitVec 5) (e : BitVec 6) (s : State) : Out :=
  conclude s (do .ok (retire (← postTo e.toNat ((s.sval r).setWidth 32) s)))
def execAwait (e : BitVec 6) (s : State) : Out := conclude s (do .ok (retire (← awaitOn e.toNat s).1))
def execAwaitv (r : BitVec 5) (e : BitVec 6) (s : State) : Out := conclude s (do
  let t ← awaitOn e.toNat s
  .ok (retire (t.1.putS r (t.2.setWidth 64))))

/-- The event and the limit of a TAWAIT's wait. -/
def WaitKind.limit : WaitKind → Option (Nat × Nat)
  | .tawait ev l => some (ev, l)
  | .tawaitHeld ev l => some (ev, l)
  | _ => none

/-- The cycle in which the TAWAIT that the sequencer stands at expires, set at its first issue. -/
def State.limit (s : State) (t : Nat) : Nat := match s.q.wait.bind (fun w => w.kind.limit) with
  | some x => x.2
  | none => s.cycle + t

/-- TAWAIT (R84): a post that can be consumed up to and in the cycle of the limit is consumed; after that cycle, sd is 0. A
limit of 0 cycles polls: it waits for the end of the cycle of issue, when every post of the cycle is in. -/
def execTawait (r : BitVec 5) (e : BitVec 6) (s : State) : Out := conclude s (do
  notInHandler s
  let l := s.limit (bitsOf (s.sval r).toNat 0 32)
  if l < s.cycle then .ok (retire (s.putS r 0))
  else
    match takeable e.toNat s with
    | .inr (p, tl) => .ok (retire ((takePost e.toNat p tl s).putS r (BitVec.ofNat 64 (2 ^ 32 + p.value.toNat))))
    | .inl true => .error (.wait (.tawaitHeld e.toNat l))
    | .inl false => .error (.wait (.tawait e.toNat l)))

/-! Engine event instructions (R85). -/

def execEpost (_e : Eng) (v : BitVec 6) (s : State) : Out := conclude s (do .ok (retire (← postTo v.toNat 0 s)))
def execEpostv (_e : Eng) (v : BitVec 6) (g : BitVec 4) (s : State) : Out :=
  conclude s (do .ok (retire (← postTo v.toNat ((s.gval g).setWidth 32) s)))
def execEwait (_e : Eng) (v : BitVec 6) (s : State) : Out := conclude s (do .ok (retire (← awaitOn v.toNat s).1))
def execEwaitv (_e : Eng) (v : BitVec 6) (g : BitVec 4) (s : State) : Out := conclude s (do
  let t ← awaitOn v.toNat s
  .ok (retire (t.1.putG g (t.2.setWidth 64))))

/-! Wakes. -/

/-- Sequencer e of core n stands waiting in a wait that f covers and may issue. -/
def waiting (s : State) (n : Nat) (e : Eng) (f : WaitKind → Bool) : Bool :=
  canIssue s n e && (match ((s.core n).seq e).wait with
    | some w => f w.kind
    | none => false)

/-- Any wait to take a post. -/
def WaitKind.isAwait : WaitKind → Bool
  | .await _ => true
  | .awaitHeld _ => true
  | .tawait _ _ => true
  | .tawaitHeld _ _ => true
  | _ => false

/-- EVENT_WAIT_WAKE (R86): the stalled await consumes the post where it can. -/
def execEventWaitWake (n : Nat) (e : Eng) (s : State) : Out :=
  let t := s.as n e
  if waiting s n e WaitKind.isAwait then
    match decode t.word with
    | .ok (.await v) => resumeWord t (execAwait v t)
    | .ok (.awaitv r v) => resumeWord t (execAwaitv r v t)
    | .ok (.tawait r v) => resumeWord t (execTawait r v t)
    | .ok (.ewait x v) => resumeWord t (execEwait x v t)
    | .ok (.ewaitv x v g) => resumeWord t (execEwaitv x v g t)
    | _ => .next s
  else .next s

/-- TAWAIT_TIMEOUT (R84): the cycle of the limit is over: 0 is written and nothing consumed. -/
def execTawaitTimeout (n : Nat) (s : State) : Out :=
  let t := s.as n .s
  match ((s.core n).seq .s).wait, decode t.word with
  | some w, .ok (.tawait r v) =>
    if canIssue s n .s ∧ w.kind.isAwait ∧ t.limit 0 < s.cycle then resumeWord t (execTawait r v t) else .next s
  | _, _ => .next s

/-- Sequencer e of core n can take a post from the event now, and S, which waits in TAWAIT since place `order`, does not come
before it. -/
def takesBefore (s : State) (n ev order : Nat) (e : Eng) : Bool :=
  waiting s n e (WaitKind.takes ev) && ((s.core n).seq e).wait.any (fun w => decide (w.order ≤ order)) &&
  (takeable ev (s.as n e)).isRight

/-- The TAWAIT of core n has reached the cycle of its limit: a post that it can take is taken now, after those that the sequencers
that wait before it take (R82, R84). -/
def execTawaitLast (n : Nat) (s : State) : Out :=
  match ((s.core n).seq .s).wait with
  | some w => match w.kind.limit with
    | some (ev, l) =>
      if l ≤ s.cycle then
        match (team n).find? (takesBefore s n ev w.order) with
        | some e => execEventWaitWake n e s
        | none => .next s
      else .next s
    | none => .next s
  | none => .next s

end Sys2Proof.Machine
end

