-- ==== Sys2Proof/Machine/Access.lean ====
section
/-!
DEFINITION. What every instruction that reads or writes memory does around the access itself: the checks of R149 in their
order, waiting behind parked writes (R160), the quoin checker (R104), and the clocks that writes into filling slots
deposit (R103).
-/

namespace Sys2Proof.Machine

/-- Checks 2 to 4 of R149, which need no translation. -/
def spaceCheck (s : State) (n : Nat) (e : Eng) (acc : Acc) (a len : Nat) : Except Stop Unit :=
  let ld := decide (acc = .load) || decide (acc = .text)
  if ld ∧ 0x300000000 ≤ a ∧ a < 0x400000000 then .error (.trap 7 (BitVec.ofNat 64 a))
  else match placeOf s n e acc a len with
    | .error c => .error (.trap c (BitVec.ofNat 64 a))
    | .ok _ => .ok ()

/-- Runs `f` where `r` allows it: the first stop ends the instruction, and the state so far is kept. -/
def andThen {α β : Type} (r : State × Except Stop α) (f : State → α → State × Except Stop β) : State × Except Stop β :=
  match r.2 with
  | .ok a => f r.1 a
  | .error e => (r.1, .error e)

/-- A check of the state that leaves it as it is. -/
def check (s : State) (r : Except Stop Unit) : State × Except Stop Unit := (s, r)

/-- The lowest location from `a` on, within `len` bytes, whose line the executing sequencer finds poisoned (check 7
of R149). -/
def poisonedAt (s : State) (a len : Nat) : Option Nat :=
  if len = 0 then none
  else
    let first := a / lineBytes
    let last := (a + len - 1) / lineBytes
    ((List.range (last - first + 1)).find? (fun i => poisonHere s (first + i))).map
      (fun i => max a ((first + i) * lineBytes))

/-- Check 7 of R149 on bytes at a location that the address `a` names: the trap reports the first poisoned byte, and the
error log gets its record (R356). -/
def poisonCheck (s : State) (a loc len : Nat) : State × Except Stop Unit :=
  match poisonedAt s loc len with
  | some x => (logPoison s s.curCore s.curEng x, .error (.trap 0xB (BitVec.ofNat 64 (a + (x - loc)))))
  | none => (s, .ok ())

/-- Checks 1 to 6 of R149 on an access of the executing sequencer, of `len` bytes aligned to `align`, in class cls: it waits
behind a parked write of its class (R160). DEDUCED (log 33). -/
def reach (s : State) (acc : Acc) (a len align cls : Nat) : State × Except Stop Place :=
  andThen (check s (do
    trapIf (decide (a % align ≠ 0)) 5 (BitVec.ofNat 64 a)
    spaceCheck s s.curCore s.curEng acc a len)) fun s _ =>
  andThen (behindParked s false (fun c => c = cls)) fun s _ =>
  match resolve s s.curCore s.curEng acc a len with
  | (s, .ok p) => (s, .ok p)
  | (s, .error b) => (s, .error (.trap b.1 b.2))

/-- Registers footprints with the quoin checker. DEDUCED (log 38). -/
def register (s : State) (fs : List Foot) : State × Except Stop Unit :=
  match quoin s fs with
  | .ok t => (t, .ok ())
  | .error e => (s, .error e)

/-- The clock of the executing sequencer deposited on the filling slots of its rings that own-scratchpad ranges (location,
length) touch (R103). -/
def depositClocks (s : State) (rs : List (Nat × Nat)) : State :=
  let c := s.me
  match c.inst with
  | none => s
  | some i =>
    let lo := spLoc s.curCore (i.base * unitBytes)
    let k := s.issueClk
    let touch (r : Ring) (j : Nat) : Bool :=
      decide ((r.slot j).tag = 1) && rs.any (fun x => (overlapAt (lo + r.base + j * r.size) r.size x.1 x.2).isSome)
    let upd (r : Ring) : Ring :=
      (r.slots.keys.filter (touch r)).foldl (fun r j =>
        r.putSlot j ((r.slot j).deposit k)) r
    s.setMe { c with rings := ⟨c.rings.entries.map (fun e => (e.1, upd e.2))⟩ }
def depositClock (s : State) (loc len : Nat) : State := depositClocks s [(loc, len)]

/-- The clock of the executing sequencer deposited on a slot of its core that an operation counts toward: in the rings of the
instance, running or stopped, that the count names (R103, R237). -/
def depositCount (s : State) (ct : Count) : State :=
  let c := s.me
  let rs := c.ringsOf (ct.launch, ct.inst)
  let r := rs.get {} ct.ring
  let x := r.slot ct.slot
  if x.tag = 1 then
    s.setMe (c.setRingsOf (ct.launch, ct.inst) (rs.set {} ct.ring
      (r.putSlot ct.slot (x.deposit s.issueClk))))
  else s

/-- The runs of consecutive locations in a list, as (location, length). -/
def runsOf : List Nat → List (Nat × Nat)
  | [] => []
  | a :: l => match runsOf l with
    | (b, k) :: r => if b = a + 1 then (a, k + 1) :: r else (a, 1) :: (b, k) :: r
    | [] => [(a, 1)]

/-- Older accesses of the executing sequencer in class cls are not yet performed: a value that must be read at issue waits
for them (R167). DESIGN CHOICE (log 41). -/
def classBusy (s : State) (cls : Nat) : Bool :=
  s.accs.any (fun a => decide (a.n = s.curCore) && decide (a.eng = s.curEng.tag) && decide (a.owner = s.me.owner) &&
    decide (a.cls = cls)) ||
  backgroundHeld s s.curCore s.me.owner s.curEng cls s.nextId

/-- `len` bytes read at issue, in class cls, with every check of R149 and the poison check. DESIGN CHOICE (log 41). -/
def readNow (s : State) (a len align cls : Nat) : State × Except Stop (List Byte) :=
  andThen (reach s .load a len align cls) fun s p =>
  match p with
  | .mem loc key =>
    andThen (poisonCheck s a loc len) fun s _ =>
    if classBusy s cls then (s, .error (.wait .other))
    else (s, .ok (loadBytes s ((List.range len).map (fun i => (loc + i, key)))))
  | _ => (s, .error (.trap 6 (BitVec.ofNat 64 a)))

/-- The location of own-scratchpad offset `a` of the executing core's instance. -/
def ownLoc (s : State) (a : Nat) : Nat :=
  match s.me.inst with
  | some i => spLoc s.curCore (i.base * unitBytes + a)
  | none => spLoc s.curCore a

/-- Bytes of own scratchpad that the partition holds (R112). -/
def ownBytes (s : State) : Nat :=
  match s.me.inst with
  | some i => i.units * unitBytes
  | none => if s.curCore = Config.serviceCore then 0x100000 else 0

/-- An address from which `len` bytes must lie in own scratchpad: 0x0006 else (R149 check 3). -/
def inOwn (s : State) (a len : Nat) : Except Stop Unit :=
  trapIf (decide (a + len > ownBytes s)) 6 (BitVec.ofNat 64 a)

/-- As `inOwn`, for an operand that is read: transmit space traps 0x0007 first (R149 check 2). -/
def ownRead (s : State) (a len : Nat) : Except Stop Unit :=
  if 0x300000000 ≤ a ∧ a < 0x400000000 then .error (.trap 7 (BitVec.ofNat 64 a)) else inOwn s a len

/-! ## Footprints (R104) -/

/-- One footprint: the bounding range of some ranges of physical scratchpad offsets. -/
def physFoot (rs : List (Nat × Nat)) (write : Bool) (record : Option Nat) : List Foot :=
  match rs.filter (fun r => decide (0 < r.2)) with
  | [] => []
  | r :: l =>
    let lo := ((r :: l).map (·.1)).foldl min r.1
    let hi := ((r :: l).map (fun x => x.1 + x.2)).foldl max 0
    [{ base := lo, len := hi - lo, write := write, record := record }]

/-- The own-scratchpad parts of some address ranges, as ranges of physical offsets. -/
def ownRanges (s : State) (rs : List (Nat × Nat)) : List (Nat × Nat) :=
  (rs.filter (fun r => decide (r.1 < 0x400000))).map (fun r => (ownLoc s r.1 - spLoc s.curCore 0, r.2))

/-- One footprint over the own-scratchpad parts of some ranges. -/
def spanFoot (s : State) (rs : List (Nat × Nat)) (write : Bool) (record : Option Nat) : List Foot :=
  physFoot (ownRanges s rs) write record

end Sys2Proof.Machine
end

