-- ==== Sys2Proof/Machine/Flags.lean ====
section
/-!
DEFINITION. Conditions: the compares of S and V and the counts of bits. The part has no flag register: a compare yields
a value or a mask bit (R87, R91, R182).
-/

namespace Sys2Proof.Machine

def b2w (b : Bool) : W64 := if b then 1 else 0

def ltS (a b : W64) : Bool := decide (a.toInt < b.toInt)
def ltN (a b : W64) : Bool := decide (a.toNat < b.toNat)

/-- Leading and trailing zeros and one bits of a value (R87). -/
def clz64 (a : W64) : W64 := if a = 0 then 64 else BitVec.ofNat 64 (63 - a.toNat.log2)
def popNat : Nat → Nat → Nat
  | 0, _ => 0
  | k + 1, v => v % 2 + popNat k (v / 2)
def ctzNat : Nat → Nat → Nat
  | 0, _ => 0
  | k + 1, v => if v % 2 = 1 then 0 else 1 + ctzNat k (v / 2)
def ctz64 (a : W64) : W64 := BitVec.ofNat 64 (ctzNat 64 a.toNat)
def popc64 (a : W64) : W64 := BitVec.ofNat 64 (popNat 64 a.toNat)

/-- The condition codes of VCMP on binary32 values (R45, R182). -/
def condF (c : Nat) (a b : FVal) : Bool :=
  let un := a.isNan || b.isNan
  match c with
  | 0 => !un && feqVal a b
  | 1 => un || !feqVal a b
  | 2 => !un && fltVal a b
  | 3 => !un && fleVal a b
  | 4 => !un && fltVal b a
  | 5 => !un && fleVal b a
  | 6 => !un
  | _ => un

/-- The condition codes of VCMP on integers (R182). -/
def condI (c : Nat) (a b : Int) : Bool := match c with
  | 0 => decide (a = b)
  | 1 => decide (a ≠ b)
  | 2 => decide (a < b)
  | 3 => decide (a ≤ b)
  | 4 => decide (a > b)
  | _ => decide (a ≥ b)

end Sys2Proof.Machine
end

