-- ==== Sys2Proof/Machine/SFloat.lean ====
section
/-!
DEFINITION. S binary32 instructions (R94, with R39-R48): the low 32 bits of sa and sb as patterns, one rounding to
nearest even, the pattern of the result zero-extended in sd. None traps.
-/

namespace Sys2Proof.Machine

/-- The binary32 value of the low half of a register. -/
def lowF (v : W64) : FVal := f32 (v.setWidth 32)

/-- A binary32 result in sd. -/
def resultF (d : BitVec 5) (x : FVal) (s : State) : Out := resultS d ((encF32 (rne x)).setWidth 64) s

def State.fs (s : State) (n : BitVec 5) : FVal := lowF (s.sval n)

def execFadd (d a b : BitVec 5) (s : State) : Out := resultF d (fadd (s.fs a) (s.fs b)) s
def execFsub (d a b : BitVec 5) (s : State) : Out := resultF d (fsub (s.fs a) (s.fs b)) s
def execFmul (d a b : BitVec 5) (s : State) : Out := resultF d (fmul (s.fs a) (s.fs b)) s
def execFdiv (d a b : BitVec 5) (s : State) : Out := resultF d (fdiv (s.fs a) (s.fs b)) s
def execFmin (d a b : BitVec 5) (s : State) : Out := resultF d (fmin (s.fs a) (s.fs b)) s
def execFmax (d a b : BitVec 5) (s : State) : Out := resultF d (fmax (s.fs a) (s.fs b)) s

def execFlt (d a b : BitVec 5) (s : State) : Out := resultS d (b2w (condF 2 (s.fs a) (s.fs b))) s
def execFle (d a b : BitVec 5) (s : State) : Out := resultS d (b2w (condF 3 (s.fs a) (s.fs b))) s
def execFeq (d a b : BitVec 5) (s : State) : Out := resultS d (b2w (condF 0 (s.fs a) (s.fs b))) s

/-- FCVTF: the full 64-bit signed value (R94). -/
def execFcvtf (d a : BitVec 5) (s : State) : Out := resultF d (ofInt (s.sval a).toInt) s

/-- FCVTI: toward zero, saturating to 64 bits, a NaN to 0 (R48). -/
def execFcvti (d a : BitVec 5) (s : State) : Out :=
  resultS d (BitVec.ofInt 64 (toIntSat 1 (-(2 ^ 63)) (2 ^ 63 - 1) (s.fs a))) s

def execFsqrt (d a : BitVec 5) (s : State) : Out := resultF d (fsqrt (s.fs a)) s

end Sys2Proof.Machine
end

