-- ==== Sys2Proof/Machine/SAlu.lean ====
section
/-!
DEFINITION. S integer instructions: register and immediate arithmetic, shifts and extensions, LUP and its prefix
(R28, R87-R90). Every one writes sd and completes; none traps.
-/

namespace Sys2Proof.Machine

/-! Register ALU (R87). -/

def execAdd (d a b : BitVec 5) (s : State) : Out := resultS d (s.sval a + s.sval b) s
def execSub (d a b : BitVec 5) (s : State) : Out := resultS d (s.sval a - s.sval b) s
def execMul (d a b : BitVec 5) (s : State) : Out := resultS d (s.sval a * s.sval b) s
def execMulh (d a b : BitVec 5) (s : State) : Out := resultS d (BitVec.ofInt 64 ((s.sval a).toInt * (s.sval b).toInt / 2 ^ 64)) s
def execMulhn (d a b : BitVec 5) (s : State) : Out := resultS d (BitVec.ofNat 64 ((s.sval a).toNat * (s.sval b).toNat / 2 ^ 64)) s
def execDiv (d a b : BitVec 5) (s : State) : Out := resultS d (if s.sval b = 0 then BitVec.allOnes 64 else BitVec.ofInt 64 ((s.sval a).toInt.tdiv (s.sval b).toInt)) s
def execDivn (d a b : BitVec 5) (s : State) : Out := resultS d (if s.sval b = 0 then BitVec.allOnes 64 else BitVec.ofNat 64 ((s.sval a).toNat / (s.sval b).toNat)) s
def execRem (d a b : BitVec 5) (s : State) : Out := resultS d (if s.sval b = 0 then s.sval a else BitVec.ofInt 64 ((s.sval a).toInt.tmod (s.sval b).toInt)) s
def execRemn (d a b : BitVec 5) (s : State) : Out := resultS d (if s.sval b = 0 then s.sval a else BitVec.ofNat 64 ((s.sval a).toNat % (s.sval b).toNat)) s
def execAnd (d a b : BitVec 5) (s : State) : Out := resultS d (s.sval a &&& s.sval b) s
def execOr (d a b : BitVec 5) (s : State) : Out := resultS d (s.sval a ||| s.sval b) s
def execXor (d a b : BitVec 5) (s : State) : Out := resultS d (s.sval a ^^^ s.sval b) s
def execAndn (d a b : BitVec 5) (s : State) : Out := resultS d (s.sval a &&& ~~~(s.sval b)) s
def execShl (d a b : BitVec 5) (s : State) : Out := resultS d (s.sval a <<< ((s.sval b).toNat % 64)) s
def execShr (d a b : BitVec 5) (s : State) : Out := resultS d (s.sval a >>> ((s.sval b).toNat % 64)) s
def execSra (d a b : BitVec 5) (s : State) : Out := resultS d ((s.sval a).sshiftRight ((s.sval b).toNat % 64)) s
def execRol (d a b : BitVec 5) (s : State) : Out := resultS d ((s.sval a).rotateLeft ((s.sval b).toNat % 64)) s
def execMin (d a b : BitVec 5) (s : State) : Out := resultS d (if ltS (s.sval b) (s.sval a) then s.sval b else s.sval a) s
def execMax (d a b : BitVec 5) (s : State) : Out := resultS d (if ltS (s.sval a) (s.sval b) then s.sval b else s.sval a) s
def execMinn (d a b : BitVec 5) (s : State) : Out := resultS d (if ltN (s.sval b) (s.sval a) then s.sval b else s.sval a) s
def execMaxn (d a b : BitVec 5) (s : State) : Out := resultS d (if ltN (s.sval a) (s.sval b) then s.sval b else s.sval a) s
def execSlt (d a b : BitVec 5) (s : State) : Out := resultS d (b2w (ltS (s.sval a) (s.sval b))) s
def execSltn (d a b : BitVec 5) (s : State) : Out := resultS d (b2w (ltN (s.sval a) (s.sval b))) s
def execSeq (d a b : BitVec 5) (s : State) : Out := resultS d (b2w (decide (s.sval a = s.sval b))) s
def execClz (d a : BitVec 5) (s : State) : Out := resultS d (clz64 (s.sval a)) s
def execCtz (d a : BitVec 5) (s : State) : Out := resultS d (ctz64 (s.sval a)) s
def execPopc (d a : BitVec 5) (s : State) : Out := resultS d (popc64 (s.sval a)) s

/-! Immediate ALU (R88). -/

def execAddi (d a : BitVec 5) (i : BitVec 14) (s : State) : Out := resultS d (s.sval a + immVal s i) s
def execAndi (d a : BitVec 5) (i : BitVec 14) (s : State) : Out := resultS d (s.sval a &&& immVal s i) s
def execOri (d a : BitVec 5) (i : BitVec 14) (s : State) : Out := resultS d (s.sval a ||| immVal s i) s
def execXori (d a : BitVec 5) (i : BitVec 14) (s : State) : Out := resultS d (s.sval a ^^^ immVal s i) s
def execSlti (d a : BitVec 5) (i : BitVec 14) (s : State) : Out := resultS d (b2w (ltS (s.sval a) (immVal s i))) s

/-! Shifts and extensions (R89). -/

def execShli (d a : BitVec 5) (n : BitVec 6) (s : State) : Out := resultS d (s.sval a <<< n.toNat) s
def execShri (d a : BitVec 5) (n : BitVec 6) (s : State) : Out := resultS d (s.sval a >>> n.toNat) s
def execSrai (d a : BitVec 5) (n : BitVec 6) (s : State) : Out := resultS d ((s.sval a).sshiftRight n.toNat) s
def execSext (d a : BitVec 5) (n : BitVec 6) (s : State) : Out := resultS d (BitVec.ofInt 64 (sextNat (n.toNat + 1) (s.sval a).toNat)) s
def execZext (d a : BitVec 5) (n : BitVec 6) (s : State) : Out := resultS d (BitVec.ofNat 64 ((s.sval a).toNat % 2 ^ (n.toNat + 1))) s

/-- LUP (R90). -/
def execLup (d : BitVec 5) (i : BitVec 19) (s : State) : Out := resultS d (upperVal s i) s

/-- The word after a prefix: the pc moves on, the prefix is held with the address of the first one, and wc counts it
(R28, R29, R62). A third prefix traps at the first. -/
def holdPrefix (i : BitVec 24) (s : State) : Out :=
  let q := s.q
  if q.pfx.length ≥ 2 then .next (trapHere 1 (prefixWord s) s)
  else
    .next (s.setQ { q with
      pc := q.pc + 1, wc := q.wc + 1, vclk := q.vclk.set s.curEng (q.wc + 1), pfx := q.pfx ++ [i]
      pfxPc := if q.pfx = [] then q.pc else q.pfxPc, wait := none })

/-- LIMM (R28). -/
def execLimm (i : BitVec 24) (s : State) : Out := holdPrefix i s

end Sys2Proof.Machine
end

