-- ==== Sys2Proof/Machine/SBranch.lean ====
section
/-!
DEFINITION. S branches, jumps, calls and LOOP (R91-R93, with the target rule of R17).
-/

namespace Sys2Proof.Machine

def execBeq (a b : BitVec 5) (o : BitVec 14) (s : State) : Out := branch (decide (s.sval a = s.sval b)) o s
def execBne (a b : BitVec 5) (o : BitVec 14) (s : State) : Out := branch (decide (s.sval a ≠ s.sval b)) o s
def execBlt (a b : BitVec 5) (o : BitVec 14) (s : State) : Out := branch (ltS (s.sval a) (s.sval b)) o s
def execBge (a b : BitVec 5) (o : BitVec 14) (s : State) : Out := branch (!ltS (s.sval a) (s.sval b)) o s
def execBltn (a b : BitVec 5) (o : BitVec 14) (s : State) : Out := branch (ltN (s.sval a) (s.sval b)) o s
def execBgen (a b : BitVec 5) (o : BitVec 14) (s : State) : Out := branch (!ltN (s.sval a) (s.sval b)) o s

def execJmp (o : BitVec 24) (s : State) : Out := branch true o s

/-- The state after an instruction whose register write happens only if its branch does not trap. -/
def branchWith (write : State → State) (taken : Bool) {w : Nat} (off : BitVec w) (s : State) : Out :=
  let t := target s.q.pc off
  if 0 ≤ t ∧ t ≤ 65535 then branch taken off (write s) else .next (trapHere 6 (BitVec.ofInt 64 t) s)

/-- The link value: the address of the next word (R92). -/
def link (s : State) : W64 := BitVec.ofNat 64 (s.q.pc + 1)

def execCall (o : BitVec 24) (s : State) : Out := branchWith (fun t => t.putS 31 (link s)) true o s

def execJr (a : BitVec 5) (s : State) : Out := jumpTo (s.sval a) s

/-- CALLR reads its target before it writes the link (R92). -/
def execCallr (a : BitVec 5) (s : State) : Out :=
  if (s.sval a).toNat ≤ 65535 then jumpTo (s.sval a) (s.putS 31 (link s)) else jumpTo (s.sval a) s

/-- LOOP (R93). -/
def execLoop (d : BitVec 5) (o : BitVec 14) (s : State) : Out :=
  if d = 0 then .next (trapHere 1 s.wordVal s)
  else branchWith (fun t => t.putS d (s.sval d - 1)) (decide (s.sval d - 1 ≠ 0)) o s

end Sys2Proof.Machine
end

