-- ==== Sys2Proof/Machine/EngineCommon.lean ====
section
/-!
DEFINITION. Engine-common instructions on the stack, the general registers and the pc (R29, R95-R98, R100, R102). Loads,
stores, events and rings of the engines stand with the scalar ones.
-/

namespace Sys2Proof.Machine

/-! Stack pushes (R96, R97). -/

def execPushi (_e : Eng) (i : BitVec 24) (s : State) : Out := push (immVal s i) s
def execPushg (_e : Eng) (g : BitVec 4) (i : BitVec 20) (s : State) : Out := push (s.gval g + immVal s i) s

/-! General-register arithmetic (R98). -/

def execGaddi (_e : Eng) (d a : BitVec 4) (i : BitVec 12) (s : State) : Out := resultG d (s.gval a + immVal s i) s
def execGadd (_e : Eng) (d a b : BitVec 4) (s : State) : Out := resultG d (s.gval a + s.gval b) s
def execGshli (_e : Eng) (d a : BitVec 4) (n : BitVec 6) (s : State) : Out := resultG d (s.gval a <<< n.toNat) s
def execGmuli (_e : Eng) (d a : BitVec 4) (i : BitVec 12) (s : State) : Out := resultG d (s.gval a * immVal s i) s
def execGmovi (_e : Eng) (d : BitVec 4) (i : BitVec 12) (s : State) : Out := resultG d (immVal s i) s

/-! Stack handling (R95, R98). -/

/-- Continues where the stack holds n entries, and else traps 0x0010. -/
def withStack (n : Nat) (f : State → Out) (s : State) : Out :=
  if s.stk.length < n then .next (trapHere 0x10 (depthVal s) s) else f s

def execPopg (_e : Eng) (d : BitVec 4) (s : State) : Out := withStack 1 (fun s => resultG d (s.arg 0) (s.pop 1)) s
def execDupp (_e : Eng) (s : State) : Out := withStack 1 (fun s => push (s.arg 0) s) s
def execDropp (_e : Eng) (s : State) : Out := withStack 1 (fun s => .next (retire (s.pop 1))) s
def execSwapp (_e : Eng) (s : State) : Out :=
  withStack 2 (fun s => .next (retire (s.putStk (s.arg 1 :: s.arg 0 :: s.stk.drop 2)))) s

/-! Branches (R100). -/

def execEjmp (_e : Eng) (o : BitVec 18) (s : State) : Out := branch true o s
def execEdbnz (_e : Eng) (g : BitVec 4) (o : BitVec 18) (s : State) : Out :=
  branchWith (fun t => t.putG g (s.gval g - 1)) (decide (s.gval g - 1 ≠ 0)) o s
def execEbz (_e : Eng) (g : BitVec 4) (o : BitVec 18) (s : State) : Out := branch (decide (s.gval g = 0)) o s
def execEbnz (_e : Eng) (g : BitVec 4) (o : BitVec 18) (s : State) : Out := branch (decide (s.gval g ≠ 0)) o s

/-- ELIMM (R29, R102). -/
def execElimm (_e : Eng) (i : BitVec 24) (s : State) : Out := holdPrefix i s

end Sys2Proof.Machine
end

