-- ==== Sys2Proof/Machine/VArith.lean ====
section
/-!
DEFINITION. Vector arithmetic, compares, masks, conversions, reductions, scans, permutations and moves (R173-R193). No
instruction here reaches memory; sources are read before a destination lane is written (R173).
-/

namespace Sys2Proof.Machine

/-- The vector register a field names. -/
def State.vec (s : State) (n : BitVec 5) : VReg := s.me.v n.toNat
def State.putV (s : State) (n : BitVec 5) (v : VReg) : State := s.setMe (s.me.setV n.toNat v)
def State.mask (s : State) (n : BitVec 3) : BitVec 256 := s.me.m n.toNat
def State.putM (s : State) (n : BitVec 3) (v : BitVec 256) : State := s.setMe (s.me.setM n.toNat v)

/-- A register with lane i at f i. -/
def vecOf (f : Nat → Word) : VReg := Sparse.ofFn 256 0 f

/-- The old register with its active lanes at f i (R174). -/
def merge (m : BitVec 256) (old : VReg) (f : Nat → Word) : VReg :=
  vecOf (fun i => if m.getLsbD i then f i else old.lane i)

/-- A result in the active lanes of vd: the word completes. -/
def resultV (d : BitVec 5) (m : BitVec 3) (f : Nat → Word) (s : State) : Out :=
  .next (retire (s.putV d (merge (s.mask m) (s.vec d) f)))

/-- A lane operation on one or two binary32 operands, rounded once to nearest even (R178). -/
def lane1F (op : FVal → FVal) (d a : BitVec 5) (m : BitVec 3) (s : State) : Out :=
  let x := s.vec a
  resultV d m (fun i => encF32 (rne (op (f32 (x.lane i))))) s
def lane2F (op : FVal → FVal → FVal) (d a b : BitVec 5) (m : BitVec 3) (s : State) : Out :=
  let x := s.vec a
  let y := s.vec b
  resultV d m (fun i => encF32 (rne (op (f32 (x.lane i)) (f32 (y.lane i))))) s

/-- A lane operation on patterns. -/
def lane1 (op : Word → Word) (d a : BitVec 5) (m : BitVec 3) (s : State) : Out :=
  let x := s.vec a
  resultV d m (fun i => op (x.lane i)) s
def lane2 (op : Word → Word → Word) (d a b : BitVec 5) (m : BitVec 3) (s : State) : Out :=
  let x := s.vec a
  let y := s.vec b
  resultV d m (fun i => op (x.lane i) (y.lane i)) s

/-! Special cases of R179. -/

def vrsqrtVal : FVal → FVal
  | .nan => .nan
  | .inf s => if s then .nan else .fin false 0 0 false
  | .fin s n e _ => if n = 0 then .inf s else if s then .nan else frsqrtPos n e
def vexp2Val : FVal → FVal
  | .nan => .nan
  | .inf s => if s then .fin false 0 0 false else .inf false
  | .fin s n e _ => exp2Fin s n e
def vlog2Val : FVal → FVal
  | .nan => .nan
  | .inf s => if s then .nan else .inf false
  | .fin s n e _ => if n = 0 then .inf true else if s then .nan else log2Pos n e

/-! Binary32 arithmetic (R178). -/

def execVadd (d a b : BitVec 5) (m : BitVec 3) (s : State) : Out := lane2F fadd d a b m s
def execVsub (d a b : BitVec 5) (m : BitVec 3) (s : State) : Out := lane2F fsub d a b m s
def execVmul (d a b : BitVec 5) (m : BitVec 3) (s : State) : Out := lane2F fmul d a b m s
def execVdiv (d a b : BitVec 5) (m : BitVec 3) (s : State) : Out := lane2F fdiv d a b m s
def execVmin (d a b : BitVec 5) (m : BitVec 3) (s : State) : Out := lane2F fmin d a b m s
def execVmax (d a b : BitVec 5) (m : BitVec 3) (s : State) : Out := lane2F fmax d a b m s

/-- VABS and VNEG act on the sign bit alone, NaN or not (R39). -/
def execVabs (d a : BitVec 5) (m : BitVec 3) (s : State) : Out := lane1 (fun x => x &&& 0x7FFFFFFF#32) d a m s
def execVneg (d a : BitVec 5) (m : BitVec 3) (s : State) : Out := lane1 (fun x => x ^^^ 0x80000000#32) d a m s
def execVsqrt (d a : BitVec 5) (m : BitVec 3) (s : State) : Out := lane1F fsqrt d a m s
def execVrsqrt (d a : BitVec 5) (m : BitVec 3) (s : State) : Out := lane1F vrsqrtVal d a m s
def execVrcp (d a : BitVec 5) (m : BitVec 3) (s : State) : Out := lane1F frcp d a m s
def execVexp2 (d a : BitVec 5) (m : BitVec 3) (s : State) : Out := lane1F vexp2Val d a m s
def execVlog2 (d a : BitVec 5) (m : BitVec 3) (s : State) : Out := lane1F vlog2Val d a m s

/-! Fused multiply-add (R180). -/

/-- Three distinct physical source registers of one bank serialise the issue, which VSTAT counts (R175, R176): the issue in NSER,
and the cycle that V waits for the third register in NWAIT. -/
def serialised (c : Core) (a b x : BitVec 5) : Bool :=
  let p (n : BitVec 5) := phys n.toNat c.rrb
  decide (p a ≠ p b) && decide (p a ≠ p x) && decide (p b ≠ p x) &&
  decide (p a % 4 = p b % 4) && decide (p b % 4 = p x % 4)
/-- NSER and NWAIT count a serialised issue (R176). Of what V waits for at a scratchpad bank (R150) nothing is counted, as timing is
left out. DESIGN CHOICE (log 37). -/
def countSerial (s : State) (a b x : BitVec 5) : State :=
  let c := s.me
  if serialised c a b x then s.setMe { c with nser := satInc 32 c.nser, nwait := satInc 16 c.nwait } else s

/-- One rounding of the product, negated for VFNMA, plus the addend. -/
def lane3F (negate : Bool) (d a b x : BitVec 5) (m : BitVec 3) (s : State) : Out :=
  let va := s.vec a
  let vb := s.vec b
  let vc := s.vec x
  resultV d m (fun i =>
    let p := fmul (f32 (va.lane i)) (f32 (vb.lane i))
    encF32 (rne (fadd (if negate then p.neg else p) (f32 (vc.lane i))))) (countSerial s a b x)

def execVfma (d a b c : BitVec 5) (m : BitVec 3) (s : State) : Out := lane3F false d a b c m s
def execVfnma (d a b c : BitVec 5) (m : BitVec 3) (s : State) : Out := lane3F true d a b c m s

/-! Integer arithmetic (R181). -/

def execViadd (d a b : BitVec 5) (m : BitVec 3) (s : State) : Out := lane2 (fun x y => x + y) d a b m s
def execVisub (d a b : BitVec 5) (m : BitVec 3) (s : State) : Out := lane2 (fun x y => x - y) d a b m s
def execVimul (d a b : BitVec 5) (m : BitVec 3) (s : State) : Out := lane2 (fun x y => x * y) d a b m s
def execVimulh (d a b : BitVec 5) (m : BitVec 3) (s : State) : Out := lane2 (fun x y => BitVec.ofInt 32 (x.toInt * y.toInt / 2 ^ 32)) d a b m s
def execVimulhn (d a b : BitVec 5) (m : BitVec 3) (s : State) : Out := lane2 (fun x y => BitVec.ofNat 32 (x.toNat * y.toNat / 2 ^ 32)) d a b m s
def execViand (d a b : BitVec 5) (m : BitVec 3) (s : State) : Out := lane2 (fun x y => x &&& y) d a b m s
def execVior (d a b : BitVec 5) (m : BitVec 3) (s : State) : Out := lane2 (fun x y => x ||| y) d a b m s
def execVixor (d a b : BitVec 5) (m : BitVec 3) (s : State) : Out := lane2 (fun x y => x ^^^ y) d a b m s
def execVishl (d a b : BitVec 5) (m : BitVec 3) (s : State) : Out := lane2 (fun x y => x <<< (y.toNat % 32)) d a b m s
def execVishr (d a b : BitVec 5) (m : BitVec 3) (s : State) : Out := lane2 (fun x y => x >>> (y.toNat % 32)) d a b m s
def execVisra (d a b : BitVec 5) (m : BitVec 3) (s : State) : Out := lane2 (fun x y => x.sshiftRight (y.toNat % 32)) d a b m s
def execVimin (d a b : BitVec 5) (m : BitVec 3) (s : State) : Out := lane2 (fun x y => if y.toInt < x.toInt then y else x) d a b m s
def execVimax (d a b : BitVec 5) (m : BitVec 3) (s : State) : Out := lane2 (fun x y => if x.toInt < y.toInt then y else x) d a b m s
def execViminn (d a b : BitVec 5) (m : BitVec 3) (s : State) : Out := lane2 (fun x y => if y.toNat < x.toNat then y else x) d a b m s
def execVimaxn (d a b : BitVec 5) (m : BitVec 3) (s : State) : Out := lane2 (fun x y => if x.toNat < y.toNat then y else x) d a b m s

/-! Compares, masks and selects (R182-R184). -/

/-- The condition of VCMP on two lanes: binary32, signed or natural. -/
def cmpLane (fp nat : Bool) (c : Nat) (x y : Word) : Bool :=
  if fp then condF c (f32 x) (f32 y)
  else if nat then condI c x.toNat y.toNat
  else condI c x.toInt y.toInt

/-- VCMP (R182). -/
def execVcmp (d : BitVec 3) (a b : BitVec 5) (m c : BitVec 3) (f n : BitVec 1) (s : State) : Out :=
  let x := s.vec a
  let y := s.vec b
  let k := s.mask m
  .next (retire (s.putM d (maskOf (fun i =>
    k.getLsbD i && cmpLane (decide (f = 1)) (decide (n = 1)) c.toNat (x.lane i) (y.lane i)))))

def execMand (d a b : BitVec 3) (s : State) : Out := .next (retire (s.putM d (s.mask a &&& s.mask b)))
def execMor (d a b : BitVec 3) (s : State) : Out := .next (retire (s.putM d (s.mask a ||| s.mask b)))
def execMxor (d a b : BitVec 3) (s : State) : Out := .next (retire (s.putM d (s.mask a ^^^ s.mask b)))
def execMnot (d a : BitVec 3) (s : State) : Out := .next (retire (s.putM d (~~~(s.mask a))))

/-- MPOP: every lane of vd (R183). -/
def execMpop (d : BitVec 5) (a : BitVec 3) (s : State) : Out :=
  let k : Word := BitVec.ofNat 32 (popNat 256 (s.mask a).toNat)
  .next (retire (s.putV d (vecOf (fun _ => k))))
def execMset (d : BitVec 3) (a : BitVec 5) (s : State) : Out :=
  let x := s.vec a
  .next (retire (s.putM d (maskOf (fun i => decide (x.lane i ≠ 0)))))

/-- VSEL: the mask selects, and every lane is written (R184). -/
def execVsel (d a b : BitVec 5) (m : BitVec 3) (s : State) : Out :=
  let x := s.vec a
  let y := s.vec b
  let k := s.mask m
  .next (retire (s.putV d (vecOf (fun i => if k.getLsbD i then x.lane i else y.lane i))))

/-! Conversions (R185, R186). -/

/-- Rounding to an integer in the binary32 format: a zero keeps its sign (R185). -/
def rintF (mode : Nat) : FVal → FVal
  | .nan => .nan
  | .inf s => .inf s
  | .fin s n e st =>
    let v := roundInt mode s n e st
    if v = 0 then .fin s 0 0 false else ofInt v

/-- One lane of VCVT, by conversion code, rounding mode and NaN-on-overflow bit (R185). -/
def cvtLane (code mode : Nat) (nanOv : Bool) (x : Word) : Word :=
  match code with
  | 0 => BitVec.ofInt 32 (toIntSat mode (-(2 ^ 31)) (2 ^ 31 - 1) (f32 x))
  | 1 => BitVec.ofInt 32 (toIntSat mode 0 (2 ^ 32 - 1) (f32 x))
  | 2 => encF32 (rnd fmtF32 mode (ofInt x.toInt))
  | 3 => encF32 (rnd fmtF32 mode (ofInt x.toNat))
  | 4 => BitVec.ofNat 32 (narrow fmtBf16 mode false (f32 x))
  | 5 => encF32 (fval fmtBf16 (x.toNat % 2 ^ 16))
  | 6 => BitVec.ofNat 32 (narrow fmtE4m3 mode nanOv (f32 x))
  | 7 => BitVec.ofNat 32 (narrow fmtE5m2 mode nanOv (f32 x))
  | 8 => encF32 (fval fmtE4m3 (x.toNat % 2 ^ 8))
  | 9 => encF32 (fval fmtE5m2 (x.toNat % 2 ^ 8))
  | _ => encF32 (rintF mode (f32 x))

def execVcvt (d a : BitVec 5) (n : BitVec 1) (m : BitVec 3) (c : BitVec 4) (r : BitVec 2) (s : State) : Out :=
  lane1 (cvtLane c.toNat r.toNat (decide (n = 1))) d a m s

/-- The 8,192 bits of a register image (R173). -/
def VReg.image (v : VReg) : Nat := v.entries.foldl (fun a e => a + e.2.toNat * 2 ^ (32 * e.1)) 0

/-- VQMX (R186): elements packed from the image's first byte, the scale of block b at byte 1,016 + b. -/
def quantImage (c : Nat) (x : VReg) : Nat :=
  let w := mxWidth c
  (List.range 8).foldl (fun a b =>
    let q := quantMx c ((List.range 32).map (fun j => f32 (x.lane (32 * b + j))))
    q.2.zipIdx.foldl (fun a e => a + e.1 * 2 ^ (w * (32 * b + e.2))) (a + q.1 * 2 ^ (8 * (1016 + b)))) 0

def execVqmx (d a : BitVec 5) (f : BitVec 3) (s : State) : Out :=
  let im := quantImage f.toNat (s.vec a)
  .next (retire (s.putV d (vecOf (fun i => BitVec.ofNat 32 (im / 2 ^ (32 * i))))))

/-- VDQMX (R186). -/
def execVdqmx (d a : BitVec 5) (f : BitVec 3) (s : State) : Out :=
  let im := (s.vec a).image
  let w := mxWidth f.toNat
  .next (retire (s.putV d (vecOf (fun i =>
    encF32 (rne (mxValue f.toNat (bitsOf im (8 * (1016 + i / 32)) 8) (bitsOf im (w * i) w)))))))

/-! Reductions, scans and sort (R187-R189). -/

/-- Lane 0 of vd alone is written (R187). -/
def resultLane0 (d : BitVec 5) (w : Word) (s : State) : Out := .next (retire (s.putV d ((s.vec d).set 0 0 w)))

/-- The lanes of va under the mask; an inactive one enters as `z`. -/
def lanesUnder {α : Type} (s : State) (a : BitVec 5) (m : BitVec 3) (z : α) (f : Word → α) : List α :=
  let x := s.vec a
  let k := s.mask m
  (List.range 256).map (fun i => if k.getLsbD i then f (x.lane i) else z)

def negZero : FVal := .fin true 0 0 false

/-- VRSUM: the pairwise tree of R57. -/
def execVrsum (d a : BitVec 5) (m : BitVec 3) (s : State) : Out :=
  resultLane0 d (encF32 ((pairTree 8 (lanesUnder s a m negZero f32)).headD negZero)) s

/-- VRMAX and VRMIN: a NaN or inactive lane takes no part (R187, R45). -/
def execVrmax (d a : BitVec 5) (m : BitVec 3) (s : State) : Out :=
  resultLane0 d (encF32 ((lanesUnder s a m FVal.nan f32).foldl fmax .nan)) s
def execVrmin (d a : BitVec 5) (m : BitVec 3) (s : State) : Out :=
  resultLane0 d (encF32 ((lanesUnder s a m FVal.nan f32).foldl fmin .nan)) s

/-- The lane that is best under `better`, the lowest of equals (R187). -/
def argBest (better : FVal → FVal → Bool) (xs : List FVal) : Option Nat :=
  (xs.zipIdx.foldl (fun (a : Option (FVal × Nat)) e =>
    if e.1.isNan then a
    else match a with
      | none => some e
      | some b => if better e.1 b.1 then some e else a) none).map (·.2)

def resultArg (better : FVal → FVal → Bool) (d a : BitVec 5) (m : BitVec 3) (s : State) : Out :=
  let r : Word × Word := match argBest better (lanesUnder s a m FVal.nan f32) with
    | none => (0x7FC00000#32, 0xFFFFFFFF#32)
    | some i => ((s.vec a).lane i, BitVec.ofNat 32 i)
  .next (retire (s.putV d (((s.vec d).set 0 0 r.1).set 0 1 r.2)))

def execVargmax (d a : BitVec 5) (m : BitVec 3) (s : State) : Out := resultArg (fun x y => fltVal y x) d a m s
def execVargmin (d a : BitVec 5) (m : BitVec 3) (s : State) : Out := resultArg fltVal d a m s

/-- VRISUM: the tree on integers modulo 2^32, whose order is immaterial (R57). -/
def execVrisum (d a : BitVec 5) (m : BitVec 3) (s : State) : Out :=
  resultLane0 d ((lanesUnder s a m (0 : Word) id).foldl (· + ·) 0) s

/-- One step of the doubling order: lane i takes lane i − k of the previous step (R58). -/
def scanStep {α : Type} (op : α → α → α) (k : Nat) (xs : List α) : List α :=
  xs.take k ++ (xs.drop k).zipWith op xs
def scanAll {α : Type} (op : α → α → α) (xs : List α) : List α :=
  [1, 2, 4, 8, 16, 32, 64, 128].foldl (fun l k => scanStep op k l) xs

/-- VSCAN (R188). -/
def execVscan (d a : BitVec 5) (m : BitVec 3) (t : BitVec 1) (s : State) : Out :=
  if t = 0 then
    let r := (scanAll (fun x y => rne (fadd x y)) (lanesUnder s a m negZero f32)).map encF32
    resultV d m (fun i => r.getD i 0) s
  else
    let r := scanAll (· + ·) (lanesUnder s a m (0 : Word) id)
    resultV d m (fun i => r.getD i 0) s

/-- Inserts lane e among lanes sorted in descending order, after its equals (R189). -/
def sortInsert (e : FVal × Nat) : List (FVal × Nat) → List (FVal × Nat)
  | [] => [e]
  | x :: l => if fltVal x.1 e.1 then e :: x :: l else x :: sortInsert e l

/-- Lane numbers in the order of VSORTD: values descending, NaNs last (R189). -/
def sortOrder (act : List (FVal × Nat)) : List Nat :=
  (((act.filter (fun e => !e.1.isNan)).foldl (fun l e => sortInsert e l) []) ++ act.filter (fun e => e.1.isNan)).map (·.2)

/-- VSORTD (R189). -/
def execVsortd (d a x : BitVec 5) (m : BitVec 3) (s : State) : Out :=
  if phys d.toNat s.me.rrb = phys x.toNat s.me.rrb then .next (trapHere 1 s.wordVal s)
  else
    let v := s.vec a
    let k := s.mask m
    let o := sortOrder (((List.range 256).filter (fun i => k.getLsbD i)).map (fun i => (f32 (v.lane i), i)))
    let vals := vecOf (fun j => match o[j]? with
      | some i => v.lane i
      | none => 0x7FC00000#32)
    let idx := vecOf (fun j => match o[j]? with
      | some i => BitVec.ofNat 32 i
      | none => 0xFFFFFFFF#32)
    .next (retire ((s.putV d vals).putV x idx))

/-! Permutations, moves and immediates (R190-R192). -/

def execVperm (d a b : BitVec 5) (m : BitVec 3) (s : State) : Out :=
  let x := s.vec a
  let y := s.vec b
  resultV d m (fun i => x.lane ((y.lane i).toNat % 256)) s

/-- The distance of a slide: lane 0 of vb, at most 256 (R190). -/
def slideBy (s : State) (b : BitVec 5) : Nat := min 256 ((s.vec b).lane 0).toNat

def execVslup (d a b : BitVec 5) (m : BitVec 3) (s : State) : Out :=
  let x := s.vec a
  let n := slideBy s b
  resultV d m (fun i => if n ≤ i then x.lane (i - n) else 0) s
def execVsldn (d a b : BitVec 5) (m : BitVec 3) (s : State) : Out :=
  let x := s.vec a
  let n := slideBy s b
  resultV d m (fun i => if i + n < 256 then x.lane (i + n) else 0) s
def execVbcast (d a b : BitVec 5) (m : BitVec 3) (s : State) : Out :=
  let w := (s.vec a).lane (((s.vec b).lane 0).toNat % 256)
  resultV d m (fun _ => w) s
def execViota (d : BitVec 5) (m : BitVec 3) (s : State) : Out := resultV d m (fun i => BitVec.ofNat 32 i) s

/-- VSPLF and VSPLI write every lane (R191). -/
def execVsplf (d : BitVec 5) (i : BitVec 19) (s : State) : Out :=
  .next (retire (s.putV d (vecOf (fun _ => i ++ 0#13))))
def execVspli (d : BitVec 5) (i : BitVec 19) (s : State) : Out :=
  .next (retire (s.putV d (vecOf (fun _ => i.signExtend 32))))

def execVmov (d a : BitVec 5) (m : BitVec 3) (s : State) : Out := lane1 id d a m s
def execVins (d : BitVec 5) (g : BitVec 4) (n : BitVec 8) (s : State) : Out :=
  .next (retire (s.putV d ((s.vec d).set 0 n.toNat ((s.gval g).setWidth 32))))
def execVext (g : BitVec 4) (a : BitVec 5) (n : BitVec 8) (s : State) : Out :=
  resultG g (((s.vec a).lane n.toNat).setWidth 64) s

/-! The counter-based generator (R193). -/

/-- Four rounds on the counter x under the key y. -/
def rngRounds : Nat → W64 → W64 → W64
  | 0, x, _ => x
  | k + 1, x, y =>
    let x := (x ^^^ y) * 0xE3A15C270B964D2F#64
    rngRounds k (x ^^^ (x >>> 29)) (y + 0x6A09E667F3BCC909#64)

/-- The raw number of lane i with counter c under key k. -/
def rngRaw (k : W64) (c : Word) (i : Nat) : Word :=
  ((rngRounds 4 (c ++ BitVec.ofNat 32 i) k) >>> 32).setWidth 32

/-- VRNG (R193). -/
def execVrng (d a b : BitVec 5) (m : BitVec 3) (t : BitVec 1) (s : State) : Out :=
  let x := s.vec a
  let k : W64 := (s.vec b).lane 1 ++ (s.vec b).lane 0
  resultV d m (fun i =>
    let z := rngRaw k (x.lane i) i
    if t = 0 then encF32 (.fin false (2 * (z.toNat / 2 ^ 9) + 1) (-24) false) else z) s

end Sys2Proof.Machine
end

