-- ==== Sys2Proof/Machine/Matrix.lean ====
section
/-!
DEFINITION. Matrix instructions on tiles and scratchpad (R198-R221), with the order of their checks (R207).
-/

namespace Sys2Proof.Machine

/-! ## Layout words and swizzle (R201, R202) -/

structure Layout where
  span : Nat
  int : Bool
  cls : Nat
  adj : Int
  stride : Nat
  deriving DecidableEq, Repr

/-- A layout word whose fields outside `used` are zero and whose STRIDE, unless 0, is at least the packed row length. -/
def layoutOf (s : State) (w : W64) (used : W64) (packed : Nat) : Except Stop Layout := do
  let st := bitsOf w.toNat 16 16
  badOperand s (decide (w &&& ~~~used ≠ 0) || (decide (st ≠ 0) && decide (st < packed)))
  .ok { span := bitsOf w.toNat 0 3, int := decide (bitsOf w.toNat 3 1 = 1), cls := bitsOf w.toNat 4 4
        adj := sextNat 8 (bitsOf w.toNat 8 8), stride := if st = 0 then packed else st }

def useSpan : W64 := 0x7#64
def useInt : W64 := 0x8#64
def useClass : W64 := 0xF0#64
def useAdj : W64 := 0xFF00#64
def useStride : W64 := 0xFFFF0000#64

/-- swz(o, s) (R202). -/
def swz (o s : Nat) : Nat :=
  let n := 2 ^ s
  let c := o / 16 % n
  let r := o / 2 ^ (4 + s)
  o - 16 * c + 16 * (c ^^^ (r % n))

/-- Offsets of `rows` rows of `len` bytes, `stride` apart, through swz. -/
def rowOffsets (rows len stride span : Nat) : List Nat :=
  (List.range rows).flatMap (fun i => (List.range len).map (fun b => swz (i * stride + b) span))

/-! ## Scratchpad operands -/

/-- A checked area: the address and location of its lowest byte, its length, and the location of each byte in order. -/
structure Area where
  addr : Nat
  loc : Nat
  len : Nat
  locs : List Nat
  deriving DecidableEq, Repr

/-- Checks 2 to 4 of R149 on the bounding range of bytes base + offs, which must lie in one space that M reaches. -/
def areaOf (s : State) (acc : Acc) (base : Nat) (offs : List Nat) : Except Stop Area := do
  let lo := offs.foldl min (offs.headD 0)
  let hi := offs.foldl max 0 + 1
  spaceCheck s s.curCore .m acc (base + lo) (hi - lo)
  match placeOf s s.curCore .m acc (base + lo) (hi - lo) with
  | .ok (some (.mem l _)) => .ok { addr := base + lo, loc := l, len := hi - lo, locs := offs.map (fun o => l + (o - lo)) }
  | _ => .error (.trap 6 (BitVec.ofNat 64 (base + lo)))

/-- The lowest of some locations whose line is poisoned. -/
def poisonAmong (s : State) (locs : List Nat) : Option Nat :=
  ((locs.filter (fun l => poisonHere s (l / lineBytes)))).foldl (fun a l => match a with
    | none => some l
    | some m => some (min m l)) none

/-- An operand read: the checks of its area, poison among the bytes read, and what an earlier access of its class holds
up. Every line of the operands of a word is read at one time, when the word issues, where R204 lets each be old or new.
DESIGN CHOICE (log 89). -/
def readArea (s : State) (base : Nat) (offs : List Nat) (align cls : Nat) : State × Except Stop Area :=
  andThen (check s (trapIf (decide (base % align ≠ 0)) 5 (BitVec.ofNat 64 base))) fun s _ =>
  match areaOf s .load base offs with
  | .error e => (s, .error e)
  | .ok a =>
    match poisonAmong s a.locs with
    | some l => (logPoison s s.curCore .m l, .error (.trap 0xB (BitVec.ofNat 64 (a.addr + (l - a.loc)))))
    | none =>
      andThen (behindParked s false (fun c => c = cls)) fun s _ =>
      if classBusy s cls then (s, .error (.wait .other)) else (s, .ok a)

/-- A write's area. -/
def writeArea (s : State) (base : Nat) (offs : List Nat) (cls : Nat) : State × Except Stop Area :=
  match areaOf s .store base offs with
  | .error e => (s, .error e)
  | .ok a => andThen (behindParked s false (fun c => c = cls)) fun s _ => (s, .ok a)

/-- One footprint: the bounding range of the areas that lie in own scratchpad (R104). DEDUCED (log 38). -/
def boundFoot (s : State) (as : List Area) (write : Bool) (layout : Option Nat) : List Foot :=
  let own := as.filter (fun a => decide (a.addr < 0x400000))
  match own with
  | [] => []
  | a :: _ =>
    let lo := (own.map (·.loc)).foldl min a.loc
    let hi := (own.map (fun x => x.loc + x.len)).foldl max 0
    [{ base := lo - spLoc s.curCore 0, len := hi - lo, write := write, layout := layout }]

/-- The bytes of an area as M finds them. -/
def Area.bytes (a : Area) (s : State) : List Byte := loadBytes s (a.locs.map (fun l => (l, 0)))

/-- Located bytes stored line by line. -/
def storeCells (cls : Nat) (s : State) (cells : List (Nat × Byte)) : State :=
  (linesOf cells).foldl (fun s l => issueStore s cls 0 (cells.filter (fun e => e.1 / lineBytes == l))) s

/-- Bytes stored to an area line by line, with the clock deposit of R103 on the filling slots that get a byte. -/
def storeArea (s : State) (a : Area) (cls : Nat) (bs : List Byte) : State :=
  storeCells cls (depositClocks s (runsOf a.locs)) (a.locs.zip bs)

/-! ## Tile ownership (R217, R218) -/

/-- A tile that the running instance may not touch. -/
def tileBad (c : Core) (x t : Nat) : Bool :=
  c.tileAbs.getLsbD t || (match c.tileSt.get .free t with
    | .free => false
    | .active => decide (c.tileOwner.get 0 t ≠ x)
    | .held => true)

/-- The outcome of touching tiles, decided at issue: the lowest-numbered offending one traps 0x000F. -/
def touchCheck (s : State) (ts : List Nat) : Except Stop Unit :=
  match (List.range 16).find? (fun t => ts.contains t && tileBad s.me (s.me.ctxOf s.curCore) t) with
  | some t => .error (.trap 0xF (BitVec.ofNat 64 t))
  | none => .ok ()

/-- Free tiles that are touched become active under the context. -/
def touch (s : State) (ts : List Nat) : State :=
  let c := s.me
  let x := c.ctxOf s.curCore
  s.setMe (ts.foldl (fun c t =>
    if c.tileSt.get .free t = .free then
      { c with tileSt := c.tileSt.set .free t .active, tileOwner := c.tileOwner.set 0 t x }
    else c) c)

/-- Tile number and direction of a tile field (R199). -/
def tileNo (f : BitVec 6) : Nat := (f.extractLsb' 0 4).toNat
def tileDir (f : BitVec 6) : Nat := (f.extractLsb' 4 2).toNat

def State.cell (s : State) (f : BitVec 6) (i j : Nat) : Word := s.me.cell (tileNo f) (tileDir f) i j
def State.putTile (s : State) (f : BitVec 6) (g : Nat → Nat → Word) : State :=
  s.setMe (s.me.setTile (tileNo f) (tileDir f) g)

/-- `w` bits at bit offset o of a tile's image (R198, R200). -/
def tileBits (t : Tile) (o w : Nat) : Nat :=
  bitsOf ((t.get 0 (o / 32)).toNat + 2 ^ 32 * (t.get 0 (o / 32 + 1)).toNat) (o % 32) w

/-- The first two checks of R207: stack depth and tile ownership. -/
def mReady (s : State) (pops : Nat) (ts : List Nat) : Except Stop Unit := do
  needs s pops
  touchCheck s ts

/-- The instruction has passed every check: operands are popped, tiles taken, the word completes. -/
def mDone (s : State) (pops : Nat) (ts : List Nat) (f : State → State) : State := retire (f (touch (s.pop pops) ts))

/-! ## The format table (R209-R211) -/

/-- An entry that may be used. -/
def fmtUsable (w : Word) : Bool :=
  let v := w.toNat
  decide (bitsOf v 31 1 = 1) && decide (bitsOf v 9 7 = 0) && decide (bitsOf v 24 7 = 0) && decide (bitsOf v 0 3 ≤ 5) &&
  decide (bitsOf v 3 3 ≤ 5) && decide (pairK (bitsOf v 0 3) (bitsOf v 3 3) ≠ 0) && decide (bitsOf v 6 3 ≠ 6)

/-- The entry a format field of 6 resolves through: iter[m] mod 16. -/
def fmtEntry (s : State) : Except Stop (Nat × Nat) :=
  let e := (s.me.seqs.get {} 2).iter.toNat % 16
  let w := s.me.fmtTab.get 0 e
  if fmtUsable w then .ok (e, w.toNat) else .error (.trap 0x19 (BitVec.ofNat 64 e))

/-- The formats of a pair, resolved (R210). -/
def resolvePair (s : State) (fa fb : Nat) : Except Stop (Nat × Nat) :=
  if fa = 6 ∨ fb = 6 then do
    let e ← fmtEntry s
    let a := if fa = 6 then bitsOf e.2 0 3 else fa
    let b := if fb = 6 then bitsOf e.2 3 3 else fb
    if pairK a b = 0 then .error (.trap 0x19 (BitVec.ofNat 64 e.1)) else .ok (a, b)
  else .ok (fa, fb)

/-- A check, and then the rest of the instruction with its result. -/
def bindCheck {α β : Type} (s : State) (r : Except Stop α) (f : α → State × Except Stop β) : State × Except Stop β :=
  match r with
  | .ok a => f a
  | .error e => (s, .error e)

/-- MFMT (R211). -/
def execMfmt (s : State) : Out :=
  let a := (s.arg 0).toNat
  concludeIn s (
    andThen (check s (needs s 1)) fun s _ =>
    andThen (check s (trapIf (decide (a % 64 ≠ 0)) 5 (s.arg 0))) fun s _ =>
    andThen (check s (ownRead s a 64)) fun s _ =>
    andThen (readArea s a (List.range 64) 64 0) fun s ar =>
    andThen (register s (boundFoot s [ar] false none)) fun s _ =>
    let bs := ar.bytes s
    (s, .ok (mDone s 1 [] (fun s =>
      let c := s.me
      s.setMe { c with fmtTab := Sparse.ofFn 16 0 (fun e => BitVec.ofNat 32 (leNat ((bs.drop (4 * e)).take 4))) }))))

/-! ## Loading, storing and moving tiles (R213, R214) -/

/-- MLD: the operand image of a stationary tile. DEDUCED (log 39). -/
def execMld (d : BitVec 4) (s : State) : Out :=
  let t := d.toNat
  concludeIn s (
    andThen (check s (mReady s 3 [t])) fun s _ =>
    bindCheck s (layoutOf s (s.arg 2) (useSpan ||| useClass) 0) fun l =>
    andThen (readArea s (s.arg 0).toNat (rowOffsets 1 2048 0 l.span) 1 l.cls) fun s ea =>
    andThen (readArea s (s.arg 1).toNat (List.range 128) 1 l.cls) fun s sa =>
    andThen (register s (boundFoot s [ea, sa] false (some l.span))) fun s _ =>
    let bs := ea.bytes s ++ sa.bytes s
    let word (k : Nat) : Word := BitVec.ofNat 32 (leNat ((bs.drop (4 * k)).take 4))
    (s, .ok (mDone s 3 [t] (fun s =>
      let c := s.me
      s.setMe { c with tile := c.tile.set {} t (Sparse.ofFn 1024 0 word) }))))

/-- MLD.ACC: an accumulator tile. -/
def execMldAcc (d : BitVec 6) (s : State) : Out :=
  concludeIn s (
    andThen (check s (mReady s 2 [tileNo d])) fun s _ =>
    bindCheck s (layoutOf s (s.arg 1) (useSpan ||| useClass ||| useStride) 128) fun l =>
    andThen (readArea s (s.arg 0).toNat (rowOffsets 32 128 l.stride l.span) 1 l.cls) fun s ea =>
    andThen (register s (boundFoot s [ea] false (some l.span))) fun s _ =>
    let bs := ea.bytes s
    (s, .ok (mDone s 2 [tileNo d] (fun s => s.putTile d (fun i j =>
      BitVec.ofNat 32 (leNat ((bs.drop (128 * i + 4 * j)).take 4)))))))

/-- The bytes of 32 rows of cells, in logical order. -/
def cellBytes (s : State) (d : BitVec 6) : List Byte :=
  (List.range 32).flatMap (fun i => (List.range 32).flatMap (fun j => leBytes 4 (s.cell d i j).toNat))

/-- MST. DEDUCED (log 39). -/
def execMst (d : BitVec 6) (s : State) : Out :=
  concludeIn s (
    andThen (check s (mReady s 2 [tileNo d])) fun s _ =>
    bindCheck s (layoutOf s (s.arg 1) (useSpan ||| useClass ||| useStride) 128) fun l =>
    andThen (writeArea s (s.arg 0).toNat (rowOffsets 32 128 l.stride l.span) l.cls) fun s ea =>
    andThen (register s (boundFoot s [ea] true none)) fun s _ =>
    (s, .ok (mDone s 2 [tileNo d] (fun t => storeArea t ea l.cls (cellBytes s d)))))

/-- A tile-to-tile operation without stack operands: the cells are read before any is written (R199). -/
def tileOp (d : BitVec 6) (srcs : List (BitVec 6)) (f : State → Nat → Nat → Word) (s : State) : Out :=
  let ts := (d :: srcs).map tileNo
  conclude s (do
    mReady s 0 ts
    .ok (mDone s 0 ts (fun t => t.putTile d (f s))))

def execMzero (d : BitVec 6) (s : State) : Out := tileOp d [] (fun _ _ _ => 0) s
def execMmov (d a : BitVec 6) (s : State) : Out := tileOp d [a] (fun s i j => s.cell a i j) s
def execMaddt (d a b : BitVec 6) (s : State) : Out :=
  tileOp d [a, b] (fun s i j => encF32 (rne (fadd (f32 (s.cell a i j)) (f32 (s.cell b i j))))) s
def execMaddtI (d a b : BitVec 6) (s : State) : Out := tileOp d [a, b] (fun s i j => s.cell a i j + s.cell b i j) s

/-- The parity of the one bits of k AND j: whether H[k][j] is −1 (R59). -/
def hadNeg (k j : Nat) : Bool := decide (popNat 5 (k &&& j) % 2 = 1)

/-- Cell (i, j) of the Hadamard product (R59). -/
def hadCell (s : State) (a : BitVec 6) (i j : Nat) : Word :=
  encF32 ((pairTree 5 ((List.range 32).map (fun k =>
    let x := f32 (s.cell a i k)
    if hadNeg k j then x.neg else x))).headD (.fin false 0 0 false))

def execMhad (d a : BitVec 6) (s : State) : Out := tileOp d [a] (fun s i j => hadCell s a i j) s

/-- MSCL: one factor from the stack. -/
def execMscl (d a : BitVec 6) (s : State) : Out :=
  let ts := [tileNo d, tileNo a]
  conclude s (do
    mReady s 1 ts
    badOperand s (decide ((s.arg 0) >>> 32 ≠ 0))
    let f := lowF (s.arg 0)
    .ok (mDone s 1 ts (fun t => t.putTile d (fun i j => encF32 (rne (fmul (f32 (s.cell a i j)) f))))))

/-- MSCL.COL and MSCL.ROW: factors from 128 bytes, one for each column or row. -/
def scaleBy (byRow : Bool) (d a : BitVec 6) (s : State) : Out :=
  let ts := [tileNo d, tileNo a]
  concludeIn s (
    andThen (check s (mReady s 1 ts)) fun s _ =>
    andThen (readArea s (s.arg 0).toNat (List.range 128) 128 0) fun s ar =>
    andThen (register s (boundFoot s [ar] false none)) fun s _ =>
    let bs := ar.bytes s
    let f (k : Nat) : FVal := fval fmtF32 (leNat ((bs.drop (4 * k)).take 4))
    (s, .ok (mDone s 1 ts (fun t => t.putTile d (fun i j =>
      encF32 (rne (fmul (f32 (s.cell a i j)) (f (if byRow then i else j)))))))))

def execMsclCol (d a : BitVec 6) (s : State) : Out := scaleBy false d a s
def execMsclRow (d a : BitVec 6) (s : State) : Out := scaleBy true d a s

/-! ## The multiply-accumulate (R203-R206) -/

/-- A group's term (R55): the exact sum of the products under both scales, rounded once. -/
def groupTerm (ps : List FVal) (ea eb : Nat) : FVal :=
  if ea = 0xFF ∨ eb = 0xFF then .nan else rne (scale2 ((ea : Int) + eb - 254) (exactSum ps))

/-- Bytes of a list as one number, for elements packed under R52. -/
def packedElem (row : Nat) (w k : Nat) : Nat := bitsOf row (w * k) w

/-- Cell (i, j) after an MMA. `row` is A row i packed, `sc g` its scale in group g. DEDUCED (log 67). -/
def mmaCell (tb : Tile) (fa fb k gs : Nat) (row : Nat) (sc : Nat → Nat) (acc : Word) (j : Nat) : Word :=
  let ng := k / gs
  encF32 ((List.range ng).foldl (fun a g =>
    let ps := (List.range gs).map (fun e =>
      let kk := gs * g + e
      fmul (mxElem fa (packedElem row (mxWidth fa) kk)) (mxElem fb (tileBits tb ((kk * 32 + j) * mxWidth fb) (mxWidth fb))))
    let eb := if fb = 5 then 127 else tileBits tb (8 * (2048 + 32 * g + j)) 8
    rne (fadd a (groupTerm ps (sc g) eb))) (f32 acc))

/-- Cell (i, j) after an integer MMA. -/
def mmaInt (tb : Tile) (fa fb k : Nat) (row : Nat) (acc : Word) (j : Nat) : Word :=
  acc + BitVec.ofInt 32 (((List.range k).map (fun kk =>
    sextNat (mxWidth fa) (packedElem row (mxWidth fa) kk) *
    sextNat (mxWidth fb) (tileBits tb ((kk * 32 + j) * mxWidth fb) (mxWidth fb)))).foldl (· + ·) 0)

/-- Lines that multicast may have brought from a peer window (R204, R212): how many is a matter of timing.
DESIGN CHOICE (log 37). -/
def countCast (s : State) (a : Area) : State :=
  if a.addr < 0x400000 then s
  else
    let c := s.me
    let lines := (linesOf (a.locs.map (fun l => (l, 0)))).length
    s.setMe { c with nmcast := min 0xFFFF (c.nmcast + Config.freeNat s.nonce 4 % (lines + 1)) }

/-- MMA (R206). -/
def execMma (d : BitVec 6) (b : BitVec 4) (f g : BitVec 3) (s : State) : Out :=
  let ts := [tileNo d, b.toNat]
  concludeIn s (
    andThen (check s (mReady s 3 ts)) fun s _ =>
    bindCheck s (resolvePair s f.toNat g.toNat) fun p =>
    let k := pairK p.1 p.2
    let rowLen := k * mxWidth p.1 / 8
    let gs := if p.1 = 5 then 16 else 32
    bindCheck s (do
      let l ← layoutOf s (s.arg 2) (useSpan ||| useInt ||| useClass ||| useStride) rowLen
      badOperand s (l.int && decide (p.1 > 2 ∨ p.2 > 2))
      .ok l) fun l =>
    andThen (readArea s (s.arg 0).toNat (rowOffsets 32 rowLen l.stride l.span) 128 l.cls) fun s ea =>
    let scaled := !l.int && decide (p.1 ≠ 5)
    andThen (if scaled then
        andThen (readArea s (s.arg 1).toNat (List.range (32 * (k / gs))) 32 l.cls) fun s a => (s, .ok [a])
      else (s, .ok [])) fun s sa =>
    andThen (register s (boundFoot s (ea :: sa) false (some l.span))) fun s _ =>
    let bs := ea.bytes s
    let scs := sa.flatMap (fun a => a.bytes s)
    let tb := s.me.tile.get {} b.toNat
    let rows := (List.range 32).map (fun i => leNat ((bs.drop (rowLen * i)).take rowLen))
    (s, .ok (mDone (countCast s ea) 3 ts (fun t =>
      let c := t.me
      (t.setMe { c with nmma := satInc 32 c.nmma }).putTile d (fun i j =>
        if l.int then mmaInt tb p.1 p.2 k (rows.getD i 0) (s.cell d i j) j
        else mmaCell tb p.1 p.2 k gs (rows.getD i 0)
          (fun x => if p.1 = 5 then 127 else (scs.getD (i * (k / gs) + x) 0).toNat) (s.cell d i j) j)))))

/-! ## Outliers and the drain (R215, R216) -/

/-- The scaled element value of a stationary tile. -/
def stationary (tb : Tile) (fb gs kk j : Nat) : FVal :=
  mxValue fb (tileBits tb (8 * (2048 + 32 * (kk / gs) + j)) 8) (tileBits tb ((kk * 32 + j) * mxWidth fb) (mxWidth fb))

/-- Cell (row, j) after the entries of an outlier list that name its row, in list order (R56). -/
def outlierCell (tb : Tile) (fb gs : Nat) (es : List Nat) (acc : Word) (i j : Nat) : Word :=
  encF32 (es.foldl (fun a e =>
    if bitsOf e 23 5 = i then
      rne (fadd a (fmul (fval fmtBf16 (bitsOf e 0 16)) (stationary tb fb gs (bitsOf e 16 7) j)))
    else a) (f32 acc))

/-- A cell that no entry names keeps its pattern. -/
def outlierAt (tb : Tile) (fb gs : Nat) (es : List Nat) (acc : Word) (i j : Nat) : Word :=
  if es.any (fun e => bitsOf e 23 5 = i) then outlierCell tb fb gs es acc i j else acc

/-- MOUTL (R216). Of an empty list the address is checked for its alignment alone. DESIGN CHOICE (log 93). -/
def execMoutl (d : BitVec 6) (b : BitVec 4) (f g : BitVec 3) (s : State) : Out :=
  let ts := [tileNo d, b.toNat]
  let a := (s.arg 0).toNat
  let n := (s.arg 1).toNat
  concludeIn s (
    andThen (check s (mReady s 2 ts)) fun s _ =>
    bindCheck s (resolvePair s f.toNat g.toNat) fun p =>
    andThen (check s (badOperand s (decide (n > 256)))) fun s _ =>
    andThen (check s (trapIf (decide (a % 4 ≠ 0)) 5 (s.arg 0))) fun s _ =>
    andThen (if n = 0 then (s, .ok []) else
      andThen (readArea s a (List.range (4 * n)) 4 0) fun s x => (s, .ok [x])) fun s as =>
    let bs := as.flatMap (fun x => x.bytes s)
    let es := (List.range n).map (fun i => leNat ((bs.drop (4 * i)).take 4))
    andThen (check s (match (List.range n).find? (fun i =>
        decide (bitsOf (es.getD i 0) 28 4 ≠ 0) || decide (bitsOf (es.getD i 0) 16 7 ≥ pairK p.1 p.2)) with
      | some i => .error (.trap 1 (BitVec.ofNat 64 (a + 4 * i)))
      | none => .ok ())) fun s _ =>
    andThen (register s (boundFoot s as false none)) fun s _ =>
    let tb := s.me.tile.get {} b.toNat
    (s, .ok (mDone s 2 ts (fun t => t.putTile d (fun i j =>
      outlierAt tb p.2 (if p.2 = 5 then 16 else 32) es (s.cell d i j) i j)))))

/-- The drain format and the total adjust (R210, R215). -/
def resolveDrain (s : State) (f : Nat) : Except Stop (Nat × Int) :=
  if f = 6 then do
    let e ← fmtEntry s
    .ok (bitsOf e.2 6 3, sextNat 8 (bitsOf e.2 16 8))
  else .ok (f, 0)

/-- Width of a drained element. -/
def drainWidth (f : Nat) : Nat := if f = 7 then 32 else mxWidth f

/-- A drained row: its scale and its bytes (R215). -/
def drainRow (f : Nat) (xs : List FVal) : Nat × List Byte :=
  let r : Nat × List Nat :=
    if f = 7 then (0, xs.map (fun x => enc fmtF32 (rne x)))
    else if f = 5 then (0, xs.map (fun x => enc fmtBf16 (rnd fmtBf16 0 x)))
    else quantMx f xs
  let w := drainWidth f
  (r.1, leBytes (4 * w) (r.2.zipIdx.foldl (fun a e => a + e.1 * 2 ^ (w * e.2)) 0))

/-- The writes of a drain in their order: each row's data, then its scale byte (R215). -/
def drainWrites (ea : Area) (sa : List Area) (rows : List (Nat × List Byte)) : List (List (Nat × Byte)) :=
  let len := (rows.headD (0, [])).2.length
  rows.zipIdx.flatMap (fun r => ((ea.locs.drop (len * r.2)).take len).zip r.1.2 ::
    sa.map (fun a => (a.locs.drop r.2).take 1 |>.zip [BitVec.ofNat 8 r.1.1]))

/-- MDRAIN (R215). -/
def execMdrain (d : BitVec 6) (z : BitVec 1) (f : BitVec 3) (s : State) : Out :=
  let ts := [tileNo d]
  concludeIn s (
    andThen (check s (mReady s 3 ts)) fun s _ =>
    bindCheck s (resolveDrain s f.toNat) fun fd =>
    let rowLen := 4 * drainWidth fd.1
    bindCheck s (layoutOf s (s.arg 2) (useSpan ||| useClass ||| useAdj ||| useStride) rowLen) fun l =>
    andThen (writeArea s (s.arg 0).toNat (rowOffsets 32 rowLen l.stride l.span) l.cls) fun s ea =>
    andThen (if fd.1 ≤ 4 then
        andThen (writeArea s (s.arg 1).toNat (List.range 32) l.cls) fun s a => (s, .ok [a])
      else (s, .ok [])) fun s sa =>
    andThen (register s (boundFoot s (ea :: sa) true none)) fun s _ =>
    let rows := (List.range 32).map (fun i => drainRow fd.1
      ((List.range 32).map (fun j => scale2 (l.adj + fd.2) (f32 (s.cell d i j)))))
    (s, .ok (mDone s 3 ts (fun t =>
      let t := (drainWrites ea sa rows).foldl (storeCells l.cls)
        (depositClocks t ((ea :: sa).flatMap (fun a => runsOf a.locs)))
      if z = 1 then t.putTile d (fun _ _ => 0) else t))))

/-! ## Privileged tile transfer (R221) -/

/-- The tile transfer area: physical scratchpad offset 0x3F_F000 (R222). -/
def transferArea : Nat := 0x3FF000

/-- The image of tile t written at a location (R198). -/
def writeImage (s : State) (n t loc : Nat) : State :=
  writeBytes s 0 ((List.range 4096).map (fun o => (loc + o, (s.core n).tileByte t o)))

/-- The image at a location, as M of core n finds it (R166, R167). -/
def readImage (s : State) (n loc : Nat) : Tile := tileOfImage (fun o => loadByte s n .m 0 (loc + o))

/-- A store of core n that M has issued or the core has seen is still to be performed on the image at a location: the image is
written after it (R166, R167). DESIGN CHOICE (log 87). -/
def imageHeld (s : State) (n loc : Nat) : Bool :=
  s.accs.any (fun a => decide (a.n = n) && (decide (a.eng = 2) || a.atCore) && (match a.eff with
    | .write _ bs => bs.any (fun b => decide (loc ≤ b.1) && decide (b.1 < loc + 4096))
    | _ => false))

def Core.freeTile (c : Core) (t : Nat) : Core :=
  { c with tile := c.tile.set {} t {}, tileSt := c.tileSt.set .free t .free, tileOwner := c.tileOwner.set 0 t 0 }

/-- What MSAVE and a save of R222 do. -/
def saveTile (s : State) (n t off : Nat) : State :=
  let s1 := writeImage s n t (spLoc n off)
  let c := (s1.core n).freeTile t
  s1.setCore n (if off = transferArea then { c with tfull := true } else c)

/-- What MREST and a restore of R222 do. -/
def restoreTile (s : State) (n t off owner st : Nat) : State :=
  let c := s.core n
  s.setCore n { c with
    tile := c.tile.set {} t (readImage s n (spLoc n off))
    tileOwner := c.tileOwner.set 0 t owner
    tileSt := c.tileSt.set .free t (if st = 1 then .active else .held)
    tfull := if off = transferArea then false else c.tfull }

/-- A privileged instruction outside privileged code traps 0x0004 (R18). -/
def privileged (s : State) : Except Stop Unit := trapIf (!s.me.priv s.curCore) 4 s.wordVal

/-- An offset of 4 KiB in physical scratchpad. -/
def physOffset (a : W64) : Except Stop Unit := do
  trapIf (decide (a.toNat % 4096 ≠ 0)) 5 a
  trapIf (decide (a.toNat + 4096 > 0x400000)) 6 a

/-- MSAVE (R221, R222). It carries no class: it follows the stores that M has issued and those that the core has seen.
DESIGN CHOICE (log 87). -/
def execMsave (d : BitVec 4) (s : State) : Out :=
  let a := (s.arg 0).toNat
  concludeIn s (
    andThen (check s (do
      privileged s
      needs s 1
      badOperand s (decide (a = transferArea) && s.me.tfull)
      physOffset (s.arg 0))) fun s _ =>
    if imageHeld s s.curCore (spLoc s.curCore a) then (s, .error (.wait .other))
    else
      andThen (register s (physFoot [(a, 4096)] true none)) fun s _ =>
      (s, .ok (retire (saveTile (depositClock (s.pop 1) (spLoc s.curCore a) 4096) s.curCore d.toNat a))))

/-- MREST (R221, R222). -/
def execMrest (d : BitVec 4) (s : State) : Out :=
  let a := (s.arg 0).toNat
  let w := (s.arg 1).toNat
  concludeIn s (
    andThen (check s (do
      privileged s
      needs s 2
      badOperand s (decide (bitsOf w 8 56 ≠ 0) || !(decide (bitsOf w 6 2 = 1) || decide (bitsOf w 6 2 = 2)))
      physOffset (s.arg 0))) fun s _ =>
    andThen (poisonCheck s a (spLoc s.curCore a) 4096) fun s _ =>
    andThen (register s (physFoot [(a, 4096)] false none)) fun s _ =>
    (s, .ok (retire (restoreTile (s.pop 2) s.curCore d.toNat a (bitsOf w 0 6) (bitsOf w 6 2)))))

end Sys2Proof.Machine
end

