-- ==== Sys2Proof/Machine/Bmv.lean ====
section
/-!
DEFINITION. The bank-side matrix–vector product: BMV and the rows its bank units write (R223-R227).
-/

namespace Sys2Proof.Machine

/-- Bytes of a bank row's elements, and of the padded row (R155). -/
def rowElemBytes (fmt n : Nat) : Nat := n * mxWidth fmt / 8
def rowStride (fmt n : Nat) : Nat :=
  (rowElemBytes fmt n + (if fmt = 5 then 0 else n / 32) + 127) / 128 * 128

/-- The page of an address: its size is known once it is translated (R224). -/
def bankPage (s : State) (a : Nat) : State × Except Stop TlbEnt :=
  match xlate s s.curCore (s.me.ctxOf s.curCore) a with
  | (s, none) => (s, .error (.trap 8 (BitVec.ofNat 64 a)))
  | (s, some t) => (s, .ok t)

/-- The pages of a bank-row matrix, translated in ascending order for reading: a fault or missing permission reports the
lowest page (R224). -/
def bankPages (s : State) (w p : Nat) : Nat → State × Except Stop (List TlbEnt)
  | 0 => (s, .ok [])
  | k + 1 =>
    andThen (bankPages s w p k) fun s l =>
    let a := w + k * p
    andThen (bankPage s a) fun s t =>
    if t.r then (s, .ok (l ++ [t]))
    else
      let c := s.me
      (s.setMe { c with nfault := satInc 16 c.nfault }, .error (.trap 9 (BitVec.ofNat 64 a)))

/-- A page that does not hold a bank-row matrix of the format (R224). DEDUCED (log 40). -/
def bankBad (fmt bits : Nat) (t : TlbEnt) : Bool :=
  decide (t.bits ≠ bits) || decide (t.layout ≠ (if fmt ≤ 2 then 1 else 2))

/-- A store of the core that M must find in x although it is not in memory yet (R168, R227): its own, a copy's, or one that a
fence of S has performed and that M has acquired. DEDUCED (log 79). -/
def bmvMust (s : State) (a : Access) : Bool :=
  decide (a.eng = 2) || decide (a.eng = 3) || (a.fenced && (s.me.seq .m).acq.contains a.no)

/-- The bytes of x that a BMV reads: where another sequencer's store has been performed at core scope alone, and nothing orders
it before a class-15 read, each line has it or has it not (R227). DEDUCED (log 79). -/
def bmvBytes (s : State) (x : Area) : List Byte :=
  let old : State := { s with accs := s.accs.filter (bmvMust s) }
  x.locs.map (fun l => loadByte (if Config.freeBool s.nonce (2 ^ 82 + l / lineBytes) then s else old) s.curCore .m 0 l)

/-- BMV (R223-R226). A weight address outside main memory, and an x address or a destination outside own scratchpad's range, are
values outside R223's limits, 0x0001. DEDUCED (log 40). The slot's 0x0011 comes after 0x0013 and before the quoin checks, and of a
matrix whose rows are longer than its page the first page is translated before 0x0013. DESIGN CHOICE (log 93). -/
def execBmv (s : State) : Out :=
  let w := (s.arg 0).toNat
  let r := (s.arg 1).toNat
  let n := (s.arg 2).toNat
  let fmt := (s.arg 3).toNat
  let xa := (s.arg 4).toNat
  let dw := (s.arg 5).toNat
  let da := bitsOf dw 0 24
  let ring := bitsOf dw 24 8
  concludeIn s (
    andThen (check s (do
      needs s 6
      badOperand s (decide (r < 1 ∨ r > 16384 ∨ n < 32 ∨ n > 65536 ∨ n % 32 ≠ 0 ∨ fmt > 5 ∨ bitsOf dw 32 32 ≠ 0 ∨
        w < 0x10000000000 ∨ 0x10000000000000 ≤ w ∨ 0x400000 ≤ xa ∨ 0x400000 ≤ da))
      trapIf (decide (w % 0x10000 ≠ 0)) 5 (s.arg 0))) fun s _ =>
    andThen (bankPage s w) fun s first =>
    let bits := first.bits
    let p := 2 ^ bits
    let stride := rowStride fmt n
    let q := p / stride
    let count := if q = 0 then 1 else (r + q - 1) / q
    andThen (check s (do
      trapIf (decide (w % p ≠ 0)) 5 (s.arg 0)
      trapIf (decide (w + count * p > 0x10000000000000)) 6 (BitVec.ofNat 64 0x10000000000000))) fun s _ =>
    andThen (bankPages s w p count) fun s pages =>
    andThen (check s (do
      trapIf (decide (xa % 128 ≠ 0)) 5 (s.arg 4)
      inOwn s xa (2 * n))) fun s _ =>
    andThen (readArea s xa (List.range (2 * n)) 128 15) fun s xr =>
    andThen (check s (do
      trapIf (decide (da % 4 ≠ 0)) 5 (BitVec.ofNat 64 da)
      inOwn s da (4 * r)
      match pages.zipIdx.find? (fun t => bankBad fmt bits t.1) with
      | some t => .error (.trap 0x13 (BitVec.ofNat 64 (w + t.2 * p)))
      | none => .ok ())) fun s _ =>
    match (s.me.rings.get {} ring).filling da (4 * r) with
    | none => (s, .error (.trap 0x11 (BitVec.ofNat 64 ring)))
    | some j =>
      andThen (register s (boundFoot s [xr] false none)) fun s _ =>
      let bs := bmvBytes s xr
      let ct : Count := ⟨s.curCore, ring, j, s.me.owner.1, s.me.owner.2⟩
      let op : BmvOp :=
        { id := s.nextId, owner := s.me.owner, fmt := fmt, cols := n, stride := stride, perPage := q
          pages := pages.mapIdx (fun i t => t.place s (w + i * p))
          xs := (List.range n).map (fun i => leNat ((bs.drop (2 * i)).take 2)), rows := List.range r, dest := ownLoc s da
          count := ct }
      (s, .ok (mDone s 6 [] (fun s =>
        let s := depositCount s ct
        let c := s.me
        s.withId.setMe { c with bmvs := c.bmvs ++ [op] }))))

/-- The location of row r's first byte, with the key slot of its page (R224). -/
def BmvOp.rowLoc (o : BmvOp) (r : Nat) : Nat × Nat :=
  let p := o.pages.getD (r / o.perPage) (0, 0)
  (p.1 + r % o.perPage * o.stride, p.2)

/-- y of row r (R55, R226), from the row's bytes. -/
def BmvOp.dot (o : BmvOp) (row : Nat) : FVal :=
  let gs := if o.fmt = 5 then 16 else 32
  let scales := 8 * rowElemBytes o.fmt o.cols
  (List.range (o.cols / gs)).foldl (fun a g =>
    let ps := (List.range gs).map (fun e =>
      let k := gs * g + e
      fmul (mxElem 5 (o.xs.getD k 0)) (mxElem o.fmt (packedElem row (mxWidth o.fmt) k)))
    let eb := if o.fmt = 5 then 127 else bitsOf row (scales + 8 * g) 8
    rne (fadd a (groupTerm ps 127 eb))) (.fin false 0 0 false)

/-- The lines of row r that are poisoned. -/
def BmvOp.poisoned (o : BmvOp) (s : State) (r : Nat) : List Nat :=
  let l := (o.rowLoc r).1 / lineBytes
  ((List.range (o.stride / lineBytes)).map (· + l)).filter (fun x => s.poison.get false x)

/-- BMV_ROW_WRITE (R226): one row's result is written as one 4-byte write and counted; a poisoned weight line makes it
the canonical NaN, sets the slot's error flag, and is logged. -/
def execBmvRowWrite (n id r : Nat) (s : State) : Out :=
  let c := s.core n
  match c.bmvs.find? (fun o => o.id = id ∧ o.rows.contains r) with
  | none => .next s
  | some o =>
    if countHeld s (some o.count) ∨ seenOver s n ((List.range 4).map (o.dest + 4 * r + ·)) then .next s
    else
      let at_ := o.rowLoc r
      let bad := o.poisoned s r
      let y : Word := if bad = [] then encF32 (o.dot (readNat s at_.2 at_.1 o.stride)) else 0x7FC00000#32
      let s := bad.foldl (fun s l =>
        let off := l * lineBytes - mainBase
        logError s 5 n 2 (off / 2 ^ 39) (BitVec.ofNat 64 (2 ^ 43 + off)) (slotAddr s (some o.count))) s
      let s := if bad = [] then s else markSlot s o.count
      let s := writeNat s 0 (o.dest + 4 * r) 4 y.toNat
      let s := countSlot s n o.count 4 0 []
      let c := s.core n
      .next (s.setCore n { c with bmvs := c.bmvs.filterMap (fun b =>
        if b.id = id then
          let rest := b.rows.filter (· ≠ r)
          if rest = [] then none else some { b with rows := rest }
        else some b) })

end Sys2Proof.Machine
end

