-- ==== Sys2Proof/Machine/FabricOps.lean ====
section
/-!
DEFINITION. The fabric's own operations: the group and its paths (R259-R263), the transmit map and reflected sends
(R265-R268), arrivals (R270-R272), and reductions (R278, R279). The fabric instructions and events are in Fabric.
-/

namespace Sys2Proof.Machine

/-! ## Group and paths (R259, R262, R263) -/

/-- The slot table entries of the running rotation, as in force. -/
def Fabric.entries (f : Fabric) : List FSlot := match f.rot with
  | some r => (List.range r.count).map (f.fslot.get {} ·)
  | none => []

/-- The entry whose slot runs now. -/
def Fabric.nowEntry (f : Fabric) : FSlot := match f.rot with
  | some r => f.fslot.get {} r.cur
  | none => {}

/-- The devices joined to this one by a circuit, or named by the rotation in slot mode. -/
def Fabric.isDirect (f : Fabric) (d : Nat) : Bool :=
  if f.slotMode then f.entries.any (fun e => e.dests.any (fun x => x.1 = d)) else f.circuits.any (fun c => c.1 = d)

/-- The direct member through which a forwarded member is reached: that of lowest device id (R259). -/
def Fabric.forwarder (f : Fabric) (d : Nat) : Option Nat :=
  if f.slotMode ∨ d = f.devid.toNat ∨ f.isDirect d then none
  else ((f.circuits.filter (fun c => c.2.2.contains d)).map (·.1)).foldl (fun a x => match a with
    | none => some x
    | some y => some (min x y)) none

/-- Whether a device is a member of the group, this device included. -/
def Fabric.member (f : Fabric) (d : Nat) : Bool :=
  decide (d = f.devid.toNat) || f.isDirect d || (f.forwarder d).isSome

/-- The members of the group, this device included (GSIZE of R280). -/
def Fabric.size (f : Fabric) : Nat := ((List.range 4096).filter f.member).length

/-- Set bits of a fibre mask, ascending. -/
def bitList (m : BitVec 64) : List Nat := (List.range 64).filter (fun i => m.getLsbD i)

/-- A fibre that launches flits, or never will again: a packet on it leaves or fails, and does not wait (R294). -/
def Fabric.decided (f : Fabric) (b : Nat) : Bool :=
  let x := f.fibres.get {} b
  x.failed || (!x.paused && x.up)

/-- The paths to a device, in ascending fibre order (R263). -/
def Fabric.paths (f : Fabric) (d : Nat) : List Nat :=
  if f.slotMode then
    match f.nowEntry.dests.find? (fun x => x.1 = d) with
    | some x => bitList x.2.2
    | none => []
  else
    match f.circuits.find? (fun c => c.1 = (f.forwarder d).getD d) with
    | some c => (List.range 64).filter (fun i => c.2.1.contains i)
    | none => []

/-- h of R263. -/
def pathHash (o : Nat) : Nat :=
  (List.range 12).foldl (fun h i => h ^^^ bitsOf (o >>> 7) (4 * i) 4) 0

/-- The key slot that seals traffic with a peer (R258): the lowest valid one that names it. -/
def sealSlot (s : State) (peer : Nat) : Option Nat :=
  ((List.range 64).map (· + 448)).find? (fun k => keyValid s k && decide ((s.fabric.lkey.get {} k).peer.toNat = peer))

/-! ## Reductions of values (R61, R251) -/

/-- The combining operations of R61. -/
def redOp (op : Nat) (a b : Word) : Word := match op with
  | 1 => encF32 (rne (fadd (f32 a) (f32 b)))
  | 2 => a + b
  | 3 => encF32 (fmax (f32 a) (f32 b))
  | _ => a ||| b

/-! ## The transmit map (R265-R267) -/

/-- The entry of context x whose window covers transmit offset t, with its index. -/
def txFind (s : State) (x t : Nat) : Option (Nat × TxMap) :=
  s.fabric.txmap.entries.findSome? (fun e => e.2.bind (fun m =>
    if m.ctx = x ∧ m.w ≤ t ∧ t < m.w + 2 ^ m.z then some (e.1, m) else none))

def txCover (s : State) (x t : Nat) : Option TxMap := (txFind s x t).map (·.2)

/-- The destinations of a version, device and window, with this device's own receive window where it loops back (R268). -/
def TxMap.targets (m : TxMap) (devid : Nat) : List (Nat × Nat) :=
  m.dests ++ (if m.loop then [(devid, m.loopWin)] else [])

/-- A line handed to every destination of version m: each copy waits in the device until it leaves (R266-R268). The sends
carry access number `acc`. -/
def sendLine (s : State) (n eng : Nat) (owner : Nat × Nat) (m : TxMap) (acc t : Nat) (en : List Nat) (bs : List Byte)
    (poison : Bool) : State :=
  let me := s.fabric.devid.toNat
  let mk (i : Nat) (d : Nat × Nat) : Send :=
    { id := s.nextId + i, acc := acc, core := n, eng := eng, owner := owner, ctx := m.ctx, cls := m.cls, dev := d.1
      win := d.2, loopb := decide (d.1 = me), poison := poison, load := .line (t / lineBytes * lineBytes - m.w) m.op en bs }
  let new := (m.targets me).mapIdx mk
  { s with nextId := s.nextId + new.length, fabric := { s.fabric with sends := s.fabric.sends ++ new } }

/-- Bytes of one line, by their offsets in it, as 128 bytes with zeros elsewhere. -/
def lineImage (cells : List (Nat × Byte)) : List Byte :=
  (List.range lineBytes).map (fun i => (listGet i cells).getD 0)

/-- A store of the executing sequencer into transmit space: `cells` are transmit offsets with their bytes, all in one line
that version m covers (R266). DEDUCED (log 44). -/
def reflect (s : State) (m : TxMap) (cells : List (Nat × Byte)) : State :=
  match cells with
  | [] => s
  | c :: _ =>
    let inLine := cells.map (fun e => (e.1 % lineBytes, e.2))
    sendLine s.withId s.curCore s.curEng.tag s.me.owner m s.nextId c.1 (inLine.map (·.1)) (lineImage inLine) false

/-! ## Arrivals (R270-R272) -/

/-- The ring that a ring-bound window names: the core, the instance, its partition's base, and the ring (R271). -/
def windowRing (s : State) (w : RxWin) : Option (Nat × Inst × Ring) :=
  let n := (w.base.toNat - spBase) / 0x400000
  let c := s.core n
  let use (i : Inst) (rs : Sparse Ring) : Option (Nat × Inst × Ring) :=
    let r := rs.get {} w.ring
    if r.valid ∧ r.fabric then some (n, i, r) else none
  match c.inst.filter (fun i => i.ctx = w.ctx) with
  | some i => use i c.rings
  | none => match c.parked with
    | some p => if p.inst.ctx = w.ctx then use p.inst p.rings else none
    | none => none

/-- The slot of ring r of instance i on core n within which the line at location a lies. -/
def slotOfLine (n : Nat) (i : Inst) (r : Ring) (a : Nat) : Option Nat :=
  let lo := spLoc n (i.base * unitBytes + r.base)
  if a < lo ∨ r.size = 0 then none
  else
    let j := (a - lo) / r.size
    if j < r.count ∧ a + lineBytes ≤ lo + (j + 1) * r.size then some j else none

/-- An arrival's ring slot, or the status that refuses it (R271). -/
def ringTarget (s : State) (w : RxWin) (a : Nat) : Except Nat (Option (Count × Ring)) :=
  if !w.bound then .ok none
  else
    match windowRing s w with
    | none => .error 3
    | some (n, i, r) =>
      match slotOfLine n i r a with
      | none => .error 3
      | some j =>
        if (r.slot j).tag ≥ 2 then .error 4
        else .ok (some (⟨n, w.ring, j, i.launch, i.placed⟩, r))

/-- A first line fills an empty slot of a FABRIC ring, whose error flag stays (R241); no clock is deposited on it.
DESIGN CHOICE (log 89). -/
def openSlot (s : State) (ct : Count) : State :=
  let c := s.core ct.core
  let rs := c.ringsOf (ct.launch, ct.inst)
  let r := rs.get {} ct.ring
  let j := r.slot ct.slot
  if j.tag = 0 then
    s.setCore ct.core (c.setRingsOf (ct.launch, ct.inst) (rs.set {} ct.ring
      (r.putSlot ct.slot { j with tag := 1, x := r.size, a := 0, b := 0, clk := none, rel := [] })))
  else s

/-- The word at byte 4k of a line. -/
def wordOf (bs : List Byte) (k : Nat) : Word := BitVec.ofNat 32 (leNat ((bs.drop (4 * k)).take 4))

/-- Every element of a line has all four enables or none (R272). -/
def wholeElems (en : List Nat) : Bool :=
  (List.range 32).all (fun k =>
    let c := ((List.range 4).filter (fun i => en.contains (4 * k + i))).length
    decide (c = 0) || decide (c = 4))

/-- Where the window's line at offset o lies: its location and key slot, or the status that refuses it (R270). The Bool says
that translation failed, which the error log records. -/
def arrivalPlace (s : State) (w : RxWin) (o : Nat) : Except (Nat × Bool) (Nat × Nat) :=
  let a := w.base.toNat + o
  if o + lineBytes > 2 ^ w.z then .error (3, false)
  else if w.base.toNat < 0x10000000000 then .ok (a, 0)
  else
    match walk s w.ctx a with
    | some t => if t.w then .ok (t.place s a) else .error (3, true)
    | none => .error (3, true)

/-- A refusal counts (R270). -/
def refuse (s : State) : State :=
  { s with fabric := { s.fabric with nrefused := satInc 16 s.fabric.nrefused } }

/-- A line arrives for receive window wid (R270-R272): the state after it and the status that its sender is told. An accumulate op
writes element by element, so that a poisoned line stays poisoned (R164). DEDUCED (log 51). -/
def arrive (s : State) (wid o op : Nat) (poison : Bool) (en : List Nat) (bs : List Byte) (peer : Nat) : State × Nat :=
  match s.fabric.rxwin.get none wid with
  | none => (refuse s, 3)
  | some w =>
    if w.off then (refuse s, 3)
    else
      match arrivalPlace s w o with
      | .error (st, fault) =>
        let s := if fault then
            logError s 7 0xFF 0 0xFFFF (BitVec.ofNat 64 o) (BitVec.ofNat 64 (peer + 2 ^ 16 * wid))
          else s
        (refuse s, st)
      | .ok (a, key) =>
        match ringTarget s w a with
        | .error st => (refuse s, st)
        | .ok ct =>
          if op ≠ 0 ∧ (isMain a ∨ !wholeElems en) then (refuse s, 4)
          else
            let old := readLocs s key a lineBytes
            let new := if op = 0 then bs
              else (List.range 32).flatMap (fun k => leBytes 4 (redOp op (wordOf old k) (wordOf bs k)).toNat)
            let t := writeLine s key (a / lineBytes) (en.map (fun i => (a + i, new.getD i 0)))
            let s := if op = 0 then t else { t with poison := s.poison }
            let s := if poison then { s with poison := s.poison.set false (a / lineBytes) true } else s
            match ct with
            | none => (s, 0)
            | some (c, _) => (countSlot (openSlot s c) c.core c en.length 0 [], 0)

/-- An arrival for window wid at offset o waits: the accesses that its slot's latest release named have to be performed before
the slot fills again, and a store to the line that a core has seen has to be in memory (R166, R168). -/
def arrivalHeld (s : State) (wid o : Nat) : Bool :=
  match s.fabric.rxwin.get none wid with
  | some w =>
    (w.bound && (match windowRing s w with
      | some (_, _, r) => r.rel.any (pendingAt s true)
      | none => false)) ||
    (match arrivalPlace s w o with
      | .ok p => s.accs.any (fun a => a.atCore && (match a.eff with
        | .write _ bs => bs.any (fun b => decide (p.1 ≤ b.1) && decide (b.1 < p.1 + lineBytes))
        | _ => false))
      | .error _ => false)
  | none => false

/-- The core number of what no core has issued. -/
def noCore : Nat := 0xFF

/-- The acknowledgement of a packet from device `dev` waits to leave with its status (R256, R270). DEDUCED (log 80). -/
def queueAck (s : State) (dev status : Nat) : State :=
  { s with
    nextId := s.nextId + 1
    fabric := { s.fabric with sends := s.fabric.sends ++ [
      { id := s.nextId, acc := s.nextId, core := noCore, eng := 7, owner := (0, 0), ctx := 0, cls := 0, dev := dev, win := 0
        load := .ack status }] } }

def Payload.isAck : Payload → Bool
  | .ack _ => true
  | _ => false

/-! ## Reductions (R278, R279, R388) -/

def Fabric.red? (f : Fabric) (win seq : Nat) : Option Red := f.reds.find? (fun r => r.win = win ∧ r.seq = seq)
def Fabric.putRed (f : Fabric) (r : Red) : Fabric :=
  if (f.red? r.win r.seq).isSome then
    { f with reds := f.reds.map (fun x => if x.win = r.win ∧ x.seq = r.seq then r else x) }
  else { f with reds := f.reds ++ [r] }
/-- The name (w, q) still stands for a reduction of old once (win, seq) is over: the window's reductions are not 128 sequences on,
when the same 8 bits may name a new one. -/
def stillNamed (win seq w q : Nat) : Bool := decide (w ≠ win) || decide (q ≠ seq ∧ (seq + 256 - q) % 256 < 128)

/-- A reduction is no longer in flight here. Its name is kept as long as it cannot name another one. DEDUCED (log 47). -/
def Fabric.dropRed (f : Fabric) (win seq : Nat) : Fabric :=
  { f with reds := f.reds.filter (fun x => !(decide (x.win = win) && decide (x.seq = seq)))
           gone := (win, seq) :: f.gone.filter (fun e => stillNamed win seq e.1 e.2)
           refused := f.refused.filter (fun e => decide ((e.1, e.2.1) ≠ (win, seq))) }

/-- The status with which a packet of the reduction was refused here before the own participation, 0 for none (R388). -/
def Fabric.refusedWith (f : Fabric) (win seq : Nat) : Nat :=
  match f.refused.find? (fun e => e.1 = win ∧ e.2.1 = seq) with
  | some e => e.2.2
  | none => 0

/-- The device that owns the lowest present slot of node (lv, pos), if any is present. -/
def Part.combiner (p : Part) (lv pos : Nat) : Option Nat :=
  (p.owners.entries.find? (fun e => e.1 / 2 ^ lv = pos)).map (fun e => e.2 - 1)

/-- The devices that own present slots, each once, ascending. -/
def Part.devices (p : Part) : List Nat :=
  (List.range 4096).filter (fun d => p.owners.entries.any (fun e => e.2 = d + 1))

/-- A value as packets of 32 elements: its line numbers with their words. -/
def valueLines (v : List Word) : List (Nat × List Word) :=
  (List.range (v.length / 32)).map (fun i => (i, (v.drop (32 * i)).take 32))

/-- Reduction packets of a participation queued for a device. -/
def queueRed (s : State) (p : Part) (win dev : Nat) (loads : List Payload) : State :=
  let me := s.fabric.devid.toNat
  let mk (i : Nat) (l : Payload) : Send :=
    { id := s.nextId + i, acc := p.acc, core := p.core, eng := 4, owner := p.owner, ctx := p.ctx, cls := p.cls, dev := dev
      win := win, loopb := decide (dev = me), load := l }
  { s with nextId := s.nextId + loads.length, fabric := { s.fabric with sends := s.fabric.sends ++ loads.mapIdx mk } }

/-- The value of a partial once all its lines are here. -/
def Red.partialAt (r : Red) (lv pos n : Nat) : Option (List Word) :=
  ((List.range (n / 32)).mapM (fun i => listGet i ((r.partials.filter (fun e => e.1.1 = lv ∧ e.1.2.1 = pos)).map
    (fun e => (e.1.2.2, e.2))))).map List.flatten

/-- The climb of R278 from the participation's level on, as far as the partials at hand allow. -/
def climb (s : State) (r : Red) : Nat → State
  | 0 => s
  | fuel + 1 =>
    match r.part with
    | none => s
    | some p =>
      if p.ended then s
      else if p.level ≥ 12 then
        let s := p.devices.foldl (fun s d =>
          queueRed s p r.win d ((valueLines p.v).map (fun l => .result r.seq l.1 l.2))) s
        { s with fabric := s.fabric.putRed { r with part := some { p with ended := true } } }
      else
        let sib := if p.pos % 2 = 0 then p.pos + 1 else p.pos - 1
        match p.combiner p.level sib with
        | none => climb s { r with part := some { p with level := p.level + 1, pos := p.pos / 2 } } fuel
        | some d =>
          if p.pos % 2 = 0 then
            match r.partialAt p.level sib p.v.length with
            | none => { s with fabric := s.fabric.putRed r }
            | some w =>
              climb s { r with
                part := some { p with v := List.zipWith (redOp p.op) p.v w, level := p.level + 1, pos := p.pos / 2 }
                partials := r.partials.filter (fun e => !(decide (e.1.1 = p.level) && decide (e.1.2.1 = sib))) } fuel
          else
            let s := queueRed s p r.win d ((valueLines p.v).map (fun l => .partial_ r.seq p.level p.pos l.1 l.2))
            { s with fabric := s.fabric.putRed { r with part := some { p with ended := true } } }

/-- A participation that has failed, as the send that an RFENCE finds (R274, R388). -/
def Part.failure (p : Part) (win status dev : Nat) : Send :=
  { id := p.acc, acc := p.acc, core := p.core, eng := 4, owner := p.owner, ctx := p.ctx, cls := p.cls, dev := dev, win := win
    load := .result 0 0 [], st := 3, status := status }

/-- A reduction is in flight until its result is here, or its participation has failed and ended and none of its packets is on
its way (R279, R388). DEDUCED (log 47). -/
def settleRed (s : State) (win seq : Nat) : State :=
  match s.fabric.red? win seq with
  | some ⟨_, _, some p, _, _⟩ =>
    if p.ended ∧ (p.got ≥ p.v.length / 32 ∨ (p.bad ≠ 0 ∧ s.fabric.sends.all (fun d => d.acc ≠ p.acc))) then
      let f := s.fabric.dropRed win seq
      { s with fabric := if p.bad = 0 ∨ p.told then f else { f with sends := f.sends ++ [p.failure win p.bad p.badDev] } }
    else s
  | _ => s

/-- A packet of a participation for device `dev` met status `st`: the first one counts (R388). DEDUCED (log 47). -/
def noteRed (s : State) (win seq st dev : Nat) : State :=
  match s.fabric.red? win seq with
  | some ⟨w, q, some p, ps, ss⟩ =>
    if p.bad = 0 then { s with fabric := s.fabric.putRed ⟨w, q, some { p with bad := st, badDev := dev }, ps, ss⟩ } else s
  | _ => s

/-- A refusal of a packet of a reduction in which this device does not take part yet is kept for its participation, but of a
reduction that is over here (R388). DEDUCED (log 47). -/
def Fabric.noteRefused (f : Fabric) (win seq st : Nat) : Fabric :=
  if (f.red? win seq).any (fun r => r.part.isSome) ∨ f.gone.contains (win, seq) ∨ f.refusedWith win seq ≠ 0 then f
  else { f with refused := f.refused ++ [(win, seq, st)] }

/-- A packet of a reduction is refused here with status `st`: a participation in flight fails with it, and one that is still to come
will (R388). DEDUCED (log 47). -/
def refuseRed (s : State) (win seq st : Nat) : State :=
  let s := { s with fabric := s.fabric.noteRefused win seq st }
  settleRed (noteRed (refuse s) win seq st s.fabric.devid.toNat) win seq

/-- A reduction partial arrives from device `src` (R278): held, and combined where the climb waits for it. None is the wait for
a free context. -/
def arrivePartial (s : State) (win seq lv pos line : Nat) (ws : List Word) (src : Nat) : Option (State × Nat) :=
  match s.fabric.red? win seq with
  | some r =>
    if r.part.any (·.ended) then some (refuseRed s win seq 3, 3)
    else
      let x : Red := { r with partials := r.partials ++ [((lv, pos, line), ws)]
                              senders := if r.senders.contains src then r.senders else r.senders ++ [src] }
      let t : State := { s with fabric := s.fabric.putRed x }
      some (climb t x 13, 0)
  | none =>
    if s.fabric.gone.contains (win, seq) then some (refuse s, 3)
    else if s.fabric.reds.length ≥ 8 then none
    else
      let x : Red := { win := win, seq := seq, partials := [((lv, pos, line), ws)], senders := [src] }
      some ({ s with fabric := s.fabric.putRed x }, 0)

/-- The result window is ring-bound to a ring whose slots hold n elements (R278). -/
def resultWindow (s : State) (win n : Nat) : Bool :=
  match s.fabric.rxwin.get none win with
  | some w => w.bound && (match windowRing s w with
    | some (_, _, r) => decide (r.size = 4 * n)
    | none => false)
  | none => false

/-- A reduction result arrives (R278). -/
def arriveResult (s : State) (win seq line : Nat) (ws : List Word) (peer : Nat) : State × Nat :=
  match s.fabric.red? win seq with
  | some ⟨_, _, some p, _, _⟩ =>
    let lines := p.v.length / 32
    if p.got ≥ lines then (refuse s, 3)
    else
      let a := if resultWindow s win p.v.length then
          arrive s win (lineBytes * line) 0 false (List.range lineBytes) (ws.flatMap (fun w => leBytes 4 w.toNat)) peer
        else (refuse s, 3)
      let t := a.1
      let t := match t.fabric.red? win seq with
        | some r => { t with fabric := t.fabric.putRed { r with part := r.part.map (fun p =>
            { p with got := if a.2 = 0 then p.got + 1 else lines, bad := if p.bad = 0 then a.2 else p.bad,
                     badDev := if p.bad = 0 then s.fabric.devid.toNat else p.badDev }) } }
        | none => t
      (settleRed t win seq, a.2)
  | _ => (refuse s, 3)

/-- This device abandons a reduction (R279): nothing more of it is sent, and its participation fails with status 1, of
which device the spec does not say. -/
def abandonRed (s : State) (r : Red) : State :=
  let f := s.fabric.dropRed r.win r.seq
  let f := { f with naband := satInc 16 f.naband }
  match r.part with
  | none => { s with fabric := f }
  | some p =>
    let dev := Config.freeNat s.nonce (2 ^ 20 + p.acc) % 4096
    { s with fabric := { f with sends := f.sends.filter (fun d => d.acc ≠ p.acc) ++
        (if p.told then [] else [p.failure r.win 1 dev]) } }

/-- Reductions with a participant outside the group are abandoned (R279). -/
def abandonLeft (s : State) : State :=
  s.fabric.reds.foldl (fun u r =>
    if r.part.any (fun p => p.devices.any (fun d => !u.fabric.member d)) ∨ r.senders.any (fun d => !u.fabric.member d) then
      abandonRed u r
    else u) s

/-- The group is recomputed (R259, R260): the epoch rises, group-only windows become invalid, and reductions with a
participant outside the new group are abandoned. -/
def recompute (s : State) : State :=
  let f := s.fabric
  abandonLeft { s with fabric := { f with
    epoch := f.epoch + 1
    rxwin := ⟨f.rxwin.entries.map (fun e => (e.1, e.2.map (fun w => { w with off := w.off || w.groupOnly })))⟩ } }

/-! ## Leaving the device (R260, R263, R276) -/

/-- The window offset that chooses a send's path (R263). -/
def Payload.offset : Payload → Nat
  | .line o _ _ _ => o
  | .partial_ _ _ _ l _ => lineBytes * l
  | .result _ l _ => lineBytes * l
  | .ack _ => 0

/-- The fibre of a device's path for an offset. -/
def Fabric.pathFor (f : Fabric) (d o : Nat) : Option Nat :=
  let ps := f.paths d
  if ps.length = 0 then none else ps[pathHash o % ps.length]?

/-- The running slot still takes a packet with `pay` payload bytes for a device at time t: it is before the slot's guard interval,
and within the budget (R262, R276). Without a rotation there is no limit. -/
def Fabric.budgetLeft (f : Fabric) (t d pay : Nat) : Bool :=
  if f.slotMode then
    match f.rot, f.nowEntry.dests.find? (fun x => x.1 = d) with
    | some r, some x => decide (t + f.nowEntry.guard < r.curStart + f.nowEntry.dur) &&
      decide (pay = 0 ∨ (listGet d r.budget).getD 0 + pay ≤ x.2.1)
    | _, _ => false
  else true

/-- One line's bytes charged to a device's budget. -/
def Fabric.charge (f : Fabric) (d : Nat) : Fabric :=
  if f.slotMode then
    { f with rot := f.rot.map (fun r =>
        { r with budget := listPut d ((listGet d r.budget).getD 0 + lineBytes) (listDrop d r.budget) }) }
  else f

/-- What becomes of a packet for a device that is to leave now. -/
inductive Leave where
  | waits
  | fails (status : Nat)
  | goes (fibre : Nat)
  deriving DecidableEq, Repr

/-- Whether and on which fibre a packet for a member d at offset o, with `pay` payload bytes, leaves as its path stands (R263, R276,
R294). -/
def onPath (s : State) (d o pay : Nat) : Leave :=
  let f := s.fabric
  match f.pathFor d o with
  | none => if f.slotMode then .waits else .fails 1
  | some b =>
    let x := f.fibres.get {} b
    if x.failed then .fails 2
    else if x.paused ∨ !x.up ∨ !f.budgetLeft s.ftime d pay then .waits
    else .goes b

/-- Whether and on which fibre a packet for device d at offset o, with `pay` payload bytes, leaves (R258-R263, R276, R294). -/
def leave (s : State) (d o pay : Nat) : Leave :=
  let f := s.fabric
  if f.quiesce ∨ f.retraining then .waits
  else if !f.member d then .fails 1
  else if f.seal_ && (match sealSlot s d with
      | some k => decide ((f.lkey.get {} k).counter ≥ 2 ^ 48 - 1)
      | none => true) then .fails 4
  else onPath s d o pay

/-- As `leave`, for a packet that is passed on as it came: in phase mode, to a device joined to this one (R259). -/
def passOn (s : State) (d o : Nat) : Leave :=
  let f := s.fabric
  if f.quiesce ∨ f.retraining then .waits
  else if f.slotMode ∨ !f.isDirect d then .fails 1
  else onPath s d o 0

/-- A packet from device `src` that came on receive fibre `rx` for another device waits here to be passed on (R259): nothing of it is
written, opened or checked. DESIGN CHOICE (log 90). -/
def queueForward (s : State) (src rx dest win : Nat) (poison : Bool) (load : Payload) : State :=
  { s with
    nextId := s.nextId + 1
    fabric := { s.fabric with sends := s.fabric.sends ++ [
      { id := s.nextId, acc := s.nextId, core := noCore, eng := 7, owner := (0, 0), ctx := 0, cls := 0, dev := dest, win := win
        poison := poison, load := load, fwd := some (src, rx) }] } }

/-- The packet counter of the peer's key slot counts a sealed packet (R258). -/
def sealCount (s : State) (d : Nat) : State :=
  if s.fabric.seal_ then
    match sealSlot s d with
    | some k =>
      let x := s.fabric.lkey.get {} k
      { s with fabric := { s.fabric with lkey := s.fabric.lkey.set {} k { x with counter := x.counter + 1 } } }
    | none => s
  else s

end Sys2Proof.Machine
end

