-- ==== Sys2Proof/Machine/Copy.lean ====
section
/-!
DEFINITION. The copy engine: the seven copy operations with their checks at issue (R229-R236, R247-R252), and the events
that write their lines and report their combines (R237-R239, R242, R251, R252).
-/

namespace Sys2Proof.Machine

/-! ## Operand words (R230, R248) -/

/-- The ring a ring word names, none under NONE; `slotted` operations use SLOT. -/
def ringWord (s : State) (w : Nat) (slotted : Bool) : Except Stop (Option Nat) := do
  let none_ := decide (bitsOf w 8 1 = 1)
  badOperand s (decide (bitsOf w 9 7 ≠ 0 ∨ bitsOf w 40 24 ≠ 0) || (none_ && decide (bitsOf w 0 8 ≠ 0)) ||
    (!slotted && decide (bitsOf w 16 24 ≠ 0)))
  .ok (if none_ then none else some (bitsOf w 0 8))

/-- A destination in main memory or transmit space has no ring (R230). -/
def ringless (a : Nat) : Bool :=
  decide (0x300000000 ≤ a ∧ a < 0x400000000) || decide (0x10000000000 ≤ a ∧ a < 0x10000000000000)

/-- BYTES and CLASS of a count word; BYTES is a multiple of `unit`. -/
def countWord (s : State) (w unit : Nat) : Except Stop (Nat × Nat) := do
  let n := bitsOf w 0 25
  badOperand s (decide (n < 1 ∨ n > 16777216 ∨ n % unit ≠ 0 ∨ bitsOf w 25 7 ≠ 0 ∨ bitsOf w 36 28 ≠ 0))
  .ok (n, bitsOf w 32 4)

/-! ## Checks on many bytes (R149, R236) -/

/-- The units of k bytes that some addresses touch, ascending, each with the lowest address met in it. -/
def touched (k : Nat) (as : List Nat) : List (Nat × Nat) :=
  as.foldl (fun m a => match listGet (a / k) m with
    | some b => if a < b then listPut (a / k) a (listDrop (a / k) m) else m
    | none => listPut (a / k) a m) []

/-- Checks 2 to 4 of R149 on some bytes: the earliest check that one fails decides, at the lowest byte that fails it. No
space ends inside a line. -/
def spacesOk (s : State) (acc : Acc) (as : List Nat) : Except Stop Unit :=
  let lines := (touched lineBytes as).map (·.2)
  let ld := decide (acc = .load) || decide (acc = .text)
  match lines.find? (fun a => ld && decide (0x300000000 ≤ a ∧ a < 0x400000000)) with
  | some a => .error (.trap 7 (BitVec.ofNat 64 a))
  | none =>
    let bad := lines.filterMap (fun a => match placeOf s s.curCore s.curEng acc a 1 with
      | .error c => some (c, a)
      | .ok _ => none)
    match bad.find? (fun b => b.1 ≠ 4), bad.head? with
    | some b, _ => .error (.trap b.1 (BitVec.ofNat 64 b.2))
    | none, some b => .error (.trap b.1 (BitVec.ofNat 64 b.2))
    | none, none => .ok ()

/-- A translated unit of 64 KiB: its entry, or the cause that denies it. -/
abbrev Unit64 := Nat × (Nat ⊕ TlbEnt)

/-- Translation of every main-memory unit that some bytes touch (checks 5 and 6 of R149), with the address met first in
each. DEDUCED (log 52). -/
def translateAll (s : State) (acc : Acc) (as : List Nat) : State × List (Nat × Nat × (Nat ⊕ TlbEnt)) :=
  (touched unitBytes (as.filter (0x10000000000 ≤ ·))).foldl (fun x u =>
    match xlate x.1 x.1.curCore (x.1.me.ctxOf x.1.curCore) u.2 with
    | (s, none) => (s, x.2 ++ [(u.1, u.2, .inl 8)])
    | (s, some t) =>
      let ok := match acc with
        | .load => t.r
        | .store => t.w
        | .copyWrite => t.w
        | .text => t.x
      if ok then (s, x.2 ++ [(u.1, u.2, .inr t)])
      else
        let c := s.me
        (s.setMe { c with nfault := satInc 16 c.nfault }, x.2 ++ [(u.1, u.2, .inl 9)])) (s, [])

/-- The first fault among translated units: absence before permission, then the lowest address. DEDUCED (log 52). -/
def firstFault (us : List (Nat × Nat × (Nat ⊕ TlbEnt))) : Except Stop Unit :=
  let bad (c : Nat) := us.find? (fun u => match u.2.2 with
    | .inl x => decide (x = c)
    | .inr _ => false)
  match bad 8, bad 9 with
  | some u, _ => .error (.trap 8 (BitVec.ofNat 64 u.2.1))
  | none, some u => .error (.trap 9 (BitVec.ofNat 64 u.2.1))
  | none, none => .ok ()

/-- Where a checked byte lies, with its key slot. -/
def byteLoc (s : State) (acc : Acc) (us : List (Nat × Nat × (Nat ⊕ TlbEnt))) (a : Nat) : Nat × Nat :=
  if 0x10000000000 ≤ a then
    match us.find? (fun u => u.1 = a / unitBytes) with
    | some (_, _, .inr t) => t.place s a
    | _ => (mainBase, deadKey)
  else
    match placeOf s s.curCore s.curEng acc a 1 with
    | .ok (some (.mem l k)) => (l, k)
    | _ => (0, 0)

/-- Checks 2 to 6 of R149 on source bytes, and where each lies. -/
def sources (s : State) (acc : Acc) (as : List Nat) : State × Except Stop (Nat → Nat × Nat) :=
  andThen (check s (spacesOk s acc as)) fun s _ =>
  let r := translateAll s acc as
  andThen (check r.1 (firstFault r.2)) fun s _ => (s, .ok (byteLoc s acc r.2))

/-- n addresses from a on, modulo 2^64. -/
def addrs (a n : Nat) : List Nat := (List.range n).map (fun i => (a + i) % 2 ^ 64)

/-! ## Destinations (R236, R237) -/

/-- The lines of a destination of n bytes at `dst`: address, moves and skipped bytes; f gives the source of byte i. -/
def destLines (dst n : Nat) (f : Nat → Option Src) : List (Nat × List (Nat × Src) × Nat) :=
  (List.range ((dst + n - 1) / lineBytes - dst / lineBytes + 1)).map (fun k =>
    let la := (dst / lineBytes + k) * lineBytes
    let offs := (List.range lineBytes).filter (fun i => dst ≤ la + i ∧ la + i < dst + n)
    let mv := offs.filterMap (fun i => (f (la + i - dst)).map (fun x => (i, x)))
    (la, mv, offs.length - mv.length))

/-- The units that write a destination: in transmit space each line under the entry that covers it (R266). Main-memory lines
that fail translation park when they are written. -/
def destUnits (s : State) (dst n : Nat) (f : Nat → Option Src) : State × Except Stop (List Unit_) :=
  let as := addrs dst n
  andThen (check s (spacesOk s .copyWrite as)) fun s _ =>
  let r := translateAll s .copyWrite as
  let s := r.1
  let lines := destLines dst n f
  if 0x300000000 ≤ dst ∧ dst < 0x400000000 then
    let x := s.me.ctxOf s.curCore
    match lines.find? (fun l => (txCover s x (l.1 - 0x300000000)).isNone) with
    | some l => (s, .error (.trap 0x18 (BitVec.ofNat 64 (max l.1 dst))))
    | none =>
      (s, .ok (lines.filterMap (fun l => (txCover s x (l.1 - 0x300000000)).map (fun m =>
        .tx (l.1 - 0x300000000) m l.2.1 l.2.2))))
  else
    (s, .ok (lines.map (fun l =>
      let first := max l.1 dst
      match r.2.find? (fun u => u.1 = first / unitBytes) with
      | some (_, _, .inl c) => .park l.1 c l.2.1 l.2.2
      | _ =>
        let p := byteLoc s .copyWrite r.2 first
        .line (p.1 - (first - l.1)) p.2 l.2.1 l.2.2)))

/-- The instance, running or parked, on core t whose partition holds n bytes at physical offset o. That it is one of the copy's context is
settled where the destination is checked; the service core's copies are not bound to partitions (R147, R243). -/
def holder (s : State) (t o n : Nat) : Option Inst :=
  let c := s.core t
  (c.inst.toList ++ c.parked.toList.map (·.inst)).find? (fun i => i.holds o n)

/-- The slot that a counted range of n bytes at address a lies in (R230, R243), and whether it is another core's. A SLOT value that is
no own-scratchpad address is left to this check, 0x0011. DESIGN CHOICE (log 87). -/
def countFor (s : State) (ring : Option Nat) (a n : Nat) : Except Stop (Option (Count × Bool)) :=
  match ring with
  | none => .ok none
  | some r =>
    let bad : Except Stop (Option (Count × Bool)) := .error (.trap 0x11 (BitVec.ofNat 64 r))
    if a < 0x400000 then
      match (s.me.rings.get {} r).filling a n with
      | some j => .ok (some (⟨s.curCore, r, j, s.me.owner.1, s.me.owner.2⟩, false))
      | none => bad
    else
      match placeOf s s.curCore .c .copyWrite a 1 with
      | .ok (some (.mem l _)) =>
        let t := (l - spBase) / 0x400000
        let o := (l - spBase) % 0x400000
        match holder s t o n with
        | none => bad
        | some i =>
          let x := ((s.core t).ringsOf i.key).get {} r
          match x.filling (o - i.base * unitBytes) n with
          | some j =>
            if t ≠ s.curCore ∧ x.remote = false then bad
            else .ok (some (⟨t, r, j, i.launch, i.placed⟩, decide (t ≠ s.curCore)))
          | none => bad
      | _ => bad

/-! ## Issue (R229, R236) -/

/-- At most 16 operations are in flight per core (R229). A seventeenth stalls before any of its checks. DESIGN CHOICE (log 93). -/
def copyRoom (s : State) : Except Stop Unit :=
  if s.me.copies.length ≥ 16 then .error (.wait .copyPlaces) else .ok ()

/-- Ranges (location, length) that a unit writes: its lines, or the words of an element and of its old values. -/
def Unit_.ranges : Unit_ → List (Nat × Nat)
  | .line loc _ mv _ => if mv = [] then [] else [(loc, lineBytes)]
  | .accum loc _ es => (loc, 4) :: es.filterMap (fun e => e.2.map (fun b => (b, 4)))
  | .comb loc _ _ cause _ _ => if cause.isNone then [(loc, lineBytes)] else []
  | _ => []

/-- A copy word in class cls that writes these units is a word of C that waits on a failed entry of a class it carries: the entry's cause is delivered there
(R161), and follows what common words order before it (R68). Entries still parked hold its lines instead. DEDUCED (log 33). -/
def failedFirst (s : State) (cls : Nat) (us : List Unit_) : State × Except Stop Unit :=
  let f (c : Nat) : Bool := unitsCarry cls us (fun k => k = c)
  match behindParked s false f with
  | (t, .error (.trap c a)) => (t, .error (.trap c a))
  | _ => if slipHeld s f then (s, .error (.wait .held)) else (s, .ok ())

/-- The operation has passed every check: its operands are popped, its clock is deposited on the slot it counts toward and on
filling slots that it writes (R103), and the engine takes it. -/
def launchCopy (s : State) (pops cls : Nat) (units : List Unit_) (ct : Option (Count × Bool)) (text : Option (Nat × Nat))
    (rp : Option Report) (fin : State → State) : State :=
  let s := fin (s.pop pops)
  let c := s.me
  let op : CopyOp :=
    { id := s.nextId, cls := cls, ctx := c.ctxOf s.curCore, owner := c.owner, units := units, count := ct.map (·.1)
      text := text, report := rp }
  let s := depositClocks s (units.flatMap Unit_.ranges)
  let s := match ct with
    | some (x, false) => depositCount s x
    | _ => s
  retire (s.withId.setMe { s.me with copies := s.me.copies ++ [op] })

/-- COPYL (R248). -/
def execCopyl (s : State) : Out :=
  let src := (s.arg 0).toNat
  let dst := (s.arg 1).toNat
  concludeIn s (
    andThen (check s (do copyRoom s; needs s 4)) fun s _ =>
    bindCheck s (do
      let r ← ringWord s (s.arg 2).toNat false
      badOperand s (r.isSome && ringless dst)
      let c ← countWord s (s.arg 3).toNat 1
      .ok (r, c)) fun x =>
    let n := x.2.1
    andThen (sources s .load (addrs src n)) fun s at_ =>
    andThen (destUnits s dst n (fun i => let p := at_ ((src + i) % 2 ^ 64); some (.loc p.1 p.2))) fun s u =>
    bindCheck s (countFor s x.1 dst n) fun ct =>
    andThen (failedFirst s x.2.2 u) fun s _ =>
    andThen (register s (spanFoot s [(src, n)] false none ++ spanFoot s [(dst, n)] true (some 0))) fun s _ =>
    (s, .ok (launchCopy s 4 x.2.2 u ct none none id)))

/-- CFILL (R248). -/
def execCfill (s : State) : Out :=
  let dst := (s.arg 0).toNat
  let pat := (s.arg 3).toNat
  concludeIn s (
    andThen (check s (do copyRoom s; needs s 4)) fun s _ =>
    bindCheck s (do
      let r ← ringWord s (s.arg 1).toNat false
      badOperand s (r.isSome && ringless dst)
      let c ← countWord s (s.arg 2).toNat 8
      trapIf (decide (dst % 8 ≠ 0)) 5 (s.arg 0)
      .ok (r, c)) fun x =>
    let n := x.2.1
    andThen (destUnits s dst n (fun i => some (.const (BitVec.ofNat 8 (bitsOf pat (8 * (i % 8)) 8))))) fun s u =>
    bindCheck s (countFor s x.1 dst n) fun ct =>
    andThen (failedFirst s x.2.2 u) fun s _ =>
    andThen (register s (spanFoot s [(dst, n)] true (some 0))) fun s _ =>
    (s, .ok (launchCopy s 4 x.2.2 u ct none none id)))

/-! ### COPY (R232-R235, R247) -/

/-- A shape record's fields (R232). -/
structure Shape where
  base : Nat
  code : Nat
  rank : Nat
  permit : Bool
  span : Nat
  swzd : Bool
  cls : Nat
  dims : List Nat
  box : List Nat
  strides : List Nat
  zeros : Bool
  deriving DecidableEq, Repr

/-- A shape record from its 64 bytes; `zeros` says that its zero fields are zero. -/
def shapeOf (bs : List Byte) : Shape :=
  let f (o n : Nat) := leNat ((bs.drop o).take n)
  let fl := f 0xA 2
  { base := f 0 8, code := f 8 1, rank := f 9 1, permit := decide (bitsOf fl 0 1 = 1), span := bitsOf fl 1 3
    swzd := decide (bitsOf fl 4 1 = 1), cls := bitsOf fl 8 4
    dims := (List.range 5).map (fun d => f (0x10 + 4 * d) 4), box := (List.range 5).map (fun d => f (0x24 + 2 * d) 2)
    strides := 0 :: (List.range 4).map (fun d => f (0x30 + 4 * d) 4)
    zeros := decide (bitsOf fl 5 3 = 0) && decide (bitsOf fl 12 4 = 0) && decide (f 0xC 4 = 0) && decide (f 0x2E 2 = 0) }

/-- Elements and bytes of the box. -/
def Shape.elems (h : Shape) : Nat := (h.box.take h.rank).foldl (fun a b => a * b) 1
def Shape.bytes (h : Shape) : Nat := if h.code = 4 then h.elems / 2 else h.elems * 2 ^ h.code

/-- A record that R233 calls invalid, at coordinates x. -/
def Shape.bad (h : Shape) (x : List Int) : Bool :=
  decide (h.code > 4) || decide (h.rank = 0 ∨ h.rank > 5) || !h.zeros ||
  (List.range 5).any (fun d =>
    if d < h.rank then decide (h.dims.getD d 0 = 0 ∨ h.box.getD d 0 = 0)
    else decide (h.dims.getD d 0 ≠ 0 ∨ h.box.getD d 0 ≠ 0 ∨ h.strides.getD d 0 ≠ 0)) ||
  (decide (h.code = 4) && decide (h.dims.getD 0 0 % 2 = 1 ∨ h.box.getD 0 0 % 2 = 1 ∨ x.getD 0 0 % 2 ≠ 0)) ||
  decide (h.bytes > 16777216) || decide (h.span ≠ 0 ∧ h.bytes % (16 * 2 ^ h.span) ≠ 0) || (h.swzd && decide (h.span = 0))

/-- Half-byte elements move in pairs: the box in bytes along dimension 0. -/
def Shape.size (h : Shape) : Nat := if h.code = 4 then 1 else 2 ^ h.code

/-- The position of box byte o in each dimension, as b[0], b[1], …: half-byte elements count in pairs. -/
def boxPos : List Nat → Nat → List Nat
  | [], _ => []
  | b :: bs, k => k % b :: boxPos bs (k / b)

/-- The source address of box byte o, if its position lies in bounds: an element's bytes follow the place of its first one
(R234). -/
def Shape.src (h : Shape) (x : List Int) (o : Nat) : Option Nat :=
  let half (v : Nat) := if h.code = 4 then v / 2 else v
  let box := (h.box.take h.rank).mapIdx (fun d b => if d = 0 then half b else b)
  let pos := boxPos box (o / h.size)
  let at_ : List Int := pos.mapIdx (fun d (b : Nat) =>
    (if d = 0 ∧ h.code = 4 then x.getD 0 0 / 2 else x.getD d 0) + (b : Int))
  let inb := at_.zipIdx.all (fun p =>
    decide (0 ≤ p.1) && decide (p.1 < ((if p.2 = 0 then half (h.dims.getD 0 0) else h.dims.getD p.2 0 : Nat) : Int)))
  if inb then
    let lin := at_.zipIdx.foldl (fun a p => a + p.1.toNat * (if p.2 = 0 then h.size else h.strides.getD p.2 0)) 0
    some ((h.base + (if !h.swzd ∧ h.span ≠ 0 then swz lin h.span else lin) + o % h.size) % 2 ^ 64)
  else none

/-- The box byte that destination byte i receives: the swizzle is its own inverse (R202). -/
def Shape.boxByte (h : Shape) (i : Nat) : Nat := if h.swzd then swz i h.span else i

/-- COPY (R247). -/
def execCopy (s : State) : Out :=
  let ra := (s.arg 0).toNat
  let dst := (s.arg 1).toNat
  concludeIn s (
    andThen (check s (do
      copyRoom s
      needs s 3
      trapIf (decide (ra % 64 ≠ 0)) 5 (s.arg 0)
      ownRead s ra 64)) fun s _ =>
    andThen (readNow s ra 64 64 0) fun s bs =>
    let h := shapeOf bs
    let x := (List.range h.rank).map (fun d => (s.arg (3 + d)).toInt)
    bindCheck s (do
      if 1 ≤ h.rank ∧ h.rank ≤ 5 then needs s (3 + h.rank)
      let r ← ringWord s (s.arg 2).toNat false
      badOperand s ((r.isSome && ringless dst) || h.bad x)
      .ok r) fun r =>
    let n := h.bytes
    let srcs := (List.range n).map (fun i => h.src x (h.boxByte i))
    andThen (check s (trapIf (!h.permit && srcs.any (·.isNone)) 0xA (s.arg 0))) fun s _ =>
    let reads := srcs.filterMap id
    andThen (sources s .load reads) fun s at_ =>
    andThen (destUnits s dst n (fun i => (h.src x (h.boxByte i)).map (fun a => let p := at_ a; .loc p.1 p.2))) fun s u =>
    bindCheck s (countFor s r dst n) fun ct =>
    andThen (failedFirst s h.cls u) fun s _ =>
    andThen (register s (spanFoot s ((ra, 64) :: reads.map (fun a => (a, 1))) false none ++
      spanFoot s (srcs.zipIdx.filterMap (fun x => x.1.map (fun _ => (dst + x.2, 1)))) true
        (some (if h.swzd then h.span else 0)))) fun s _ =>
    (s, .ok (launchCopy s (3 + h.rank) h.cls u ct none none id)))

/-! ### COPYI (R248, R249) -/

/-- The kernel's LOOPK: the last word of the kernel, which ends at the epilogue (R378), or, where none stands before that, the
first from the kernel offset on. DEDUCED (log 30). -/
def kernelEnd (s : State) (k : Nat) : Nat :=
  let epi := (s.me.inst.map (·.lrec.epi)).getD 0
  match (((List.range (epi - k)).map (k + ·)).filter (loopkAt s s.curCore)).getLast? with
  | some a => a
  | none => (((List.range (65536 - k)).map (k + ·)).find? (loopkAt s s.curCore)).getD 65535

/-- Whether word address a lies in the slip window of sequencer q (R70). -/
def inSlipWindow (s : State) (q : SeqState) (a : Nat) : Bool :=
  let c := s.me
  (decide (q.pc ≤ a) && decide (a ≤ q.pc + 7)) || (c.cwRec.drop (q.cc.toNat - c.cwBase)).contains a ||
  (match s.kern with
    | some k => (q.inKernel || decide (q.pc = k)) && decide (k ≤ a) && decide (a ≤ kernelEnd s k)
    | none => false)

/-- A source that COPYI does not admit, though another copy does: a peer or package window (R248). -/
def windowed_ (a : Nat) : Bool :=
  decide (0x1000000 ≤ a ∧ a < 0x3000000) || decide (0x100000000 ≤ a ∧ a < 0x100000000 + 129 * 0x400000)

/-- COPYI. A destination outside instruction memory, and a source in another core's window, are values outside the limits of
R248. DEDUCED (log 53). The slip windows, 0x0016 (R249), are checked after the source and the destination's alignment, and before the
ring slot. DESIGN CHOICE (log 89). -/
def execCopyi (s : State) : Out :=
  let src := (s.arg 0).toNat
  let dst := (s.arg 1).toNat
  let rw := (s.arg 2).toNat
  let lo := (dst - 0x200000000) / 4
  concludeIn s (
    andThen (check s (do copyRoom s; needs s 4)) fun s _ =>
    bindCheck s (do
      let r ← ringWord s rw true
      let c ← countWord s (s.arg 3).toNat 4
      badOperand s (windowed_ src || decide (dst < 0x200000000 ∨ 0x200040000 < dst + c.1))
      .ok (r, c)) fun x =>
    let n := x.2.1
    let main := decide (0x10000000000 ≤ src)
    andThen (check s (do
      trapIf (decide (src % 4 ≠ 0)) 5 (s.arg 0)
      trapIf (decide (0x300000000 ≤ src ∧ src < 0x400000000)) 7 (s.arg 0)
      trapIf (!main && decide (src ≥ 0x400000)) 6 (s.arg 0))) fun s _ =>
    andThen (sources s (if main then .text else .load) (addrs src n)) fun s at_ =>
    andThen (check s (do
      trapIf (decide (dst % 4 ≠ 0)) 5 (s.arg 1)
      match (List.range (n / 4)).find? (fun i => (team s.curCore).any (fun e =>
          inSlipWindow s (s.me.seqs.get {} e.tag) (lo + i))) with
      | some i => .error (.trap 0x16 (BitVec.ofNat 64 (dst + 4 * i)))
      | none => .ok ())) fun s _ =>
    bindCheck s (countFor s x.1 (bitsOf rw 16 24) n) fun ct =>
    andThen (failedFirst s x.2.2 []) fun s _ =>
    andThen (register s (spanFoot s [(src, n)] false none)) fun s _ =>
    let units := (destLines dst n (fun i => let p := at_ (src + i); some (.loc p.1 p.2))).map (fun l =>
      .text ((max l.1 dst - 0x200000000) / 4) (l.2.1.map (·.2)))
    (s, .ok (launchCopy s 4 x.2.2 units ct (some (lo, n / 4)) none id)))

/-! ### SCACC and SFACC (R250, R251) -/

/-- An element address: own scratchpad, or a peer or package window (R250). An element is both read and written: in transmit space,
where R149 has a read trap 0x0007, it traps 0x0006 as an address outside the spaces that R250 gives. DESIGN CHOICE (log 87). -/
def accumSpace (s : State) (a : Nat) : Except Stop Nat :=
  if a < 0x400000 ∨ windowed_ a then
    match placeOf s s.curCore s.curEng .copyWrite a 4 with
    | .ok (some (.mem l _)) => .ok l
    | .ok _ => .error (.trap 6 (BitVec.ofNat 64 a))
    | .error c => .error (.trap c (BitVec.ofNat 64 a))
  else .error (.trap 6 (BitVec.ofNat 64 a))

/-- The distinct values of a list, in order of their first appearance. -/
def firsts : List Nat → List Nat → List Nat
  | [], acc => acc
  | a :: l, acc => firsts l (if acc.contains a then acc else acc ++ [a])

/-- The units of the windows of 64 (R251) over the indexes: in each, one unit for each distinct index, at the location that `at_`
gives it. Updates of distinct elements, which have no order among themselves, are performed one by one in the order of first
appearance. DESIGN CHOICE (log 87). -/
def accumUnits (op : Nat) (idx : List Nat) (at_ : Nat → Nat) (val : Nat → Nat) (out : Nat → Option Nat) : List Unit_ :=
  (List.range ((idx.length + 63) / 64)).flatMap (fun w =>
    let win := (idx.drop (64 * w)).take 64
    (firsts win []).map (fun e =>
      .accum (at_ e) op ((win.zipIdx.filter (fun x => x.1 = e)).map (fun x => (val (64 * w + x.2), out (64 * w + x.2))))))

/-- The two scatter-accumulates: `fetch` also writes the values from before each entry. The operands are checked in the order of the
pops, the element addresses with their base; they are known once the index stream has been read, which its own checks precede
(R236, R250). A stream that runs past the partition reports its first byte, and the bytes of a poisoned line of the index stream are
used as they are. DESIGN CHOICE (log 89). An element's address wraps modulo 2^64. DESIGN CHOICE (log 96). -/
def scatterAcc (fetch : Bool) (s : State) : Out :=
  let ow := (s.arg 0).toNat
  let base := (s.arg 1).toNat
  let ia := (s.arg 2).toNat
  let va := (s.arg 3).toNat
  let rw := (s.arg 4).toNat
  let oa := (s.arg 5).toNat
  let n := bitsOf ow 8 17
  let pops := if fetch then 6 else 5
  concludeIn s (
    andThen (check s (do copyRoom s; needs s pops)) fun s _ =>
    bindCheck s (do
      badOperand s (decide (bitsOf ow 0 3 > 5 ∨ bitsOf ow 3 1 ≠ 0 ∨ n < 1 ∨ n > 65536 ∨ bitsOf ow 25 39 ≠ 0))
      let r ← ringWord s rw (!fetch)
      badOperand s (fetch && r.isSome && ringless oa)
      .ok r) fun r =>
    andThen (check s (do
      trapIf (decide (base % 4 ≠ 0)) 5 (s.arg 1)
      trapIf (decide (ia % 4 ≠ 0)) 5 (s.arg 2)
      ownRead s ia (4 * n))) fun s _ =>
    andThen (behindParked s false (fun c => c = bitsOf ow 4 4)) fun s _ =>
    if classBusy s (bitsOf ow 4 4) then (s, .error (.wait .other))
    else
    let idx := (List.range n).map (fun j => leNat (loadBytes s ((List.range 4).map (fun b => (ownLoc s (ia + 4 * j) + b, 0)))))
    let elem (e : Nat) : Nat := (base + 4 * e) % 2 ^ 64
    bindCheck s (do
      let locs ← idx.mapM (fun e => accumSpace s (elem e))
      trapIf (decide (va % 4 ≠ 0)) 5 (s.arg 3)
      ownRead s va (4 * n)
      if fetch then
        trapIf (decide (oa % 4 ≠ 0)) 5 (s.arg 5)
        inOwn s oa (4 * n)
      .ok locs) fun locs =>
    bindCheck s (countFor s r (if fetch then oa else bitsOf rw 16 24) (4 * n)) fun ct =>
    let els := idx.map (fun e => (elem e, 4))
    andThen (register s (spanFoot s ((ia, 4 * n) :: (va, 4 * n) :: els) false none ++
      spanFoot s (els ++ (if fetch then [(oa, 4 * n)] else [])) true (some 0))) fun s _ =>
    let at_ (e : Nat) : Nat := ((idx.zip locs).find? (fun x => x.1 = e)).elim 0 (·.2)
    let units := accumUnits (bitsOf ow 0 3) idx at_ (fun j => ownLoc s (va + 4 * j))
      (fun j => if fetch then some (ownLoc s (oa + 4 * j)) else none)
    (s, .ok (launchCopy s pops (bitsOf ow 4 4) units ct none none id)))

def execScacc (s : State) : Out := scatterAcc false s
def execSfacc (s : State) : Out := scatterAcc true s

/-! ### CCOMB (R252) -/

/-- The physical offsets of slice m's row of a set's buffer table, where it lies in the scratchpad of the executing core (R104). -/
def tableRanges (s : State) (t : SliceSet) (m : Nat) : List (Nat × Nat) :=
  let a := t.tab + 32 * (m % t.w)
  if !t.tabMain ∧ spLoc s.curCore 0 ≤ a ∧ a < spLoc s.curCore 0 + 0x400000 then [(a - spLoc s.curCore 0, 32)] else []

/-- The four addresses of slice m in a set's buffer table (R298), with the checks on reading its row: start state, fine
result, coarse old, coarse new. A fault names the table's address as SSOPEN had it. DEDUCED (log 54). -/
def tableRow (s : State) (t : SliceSet) (m : Nat) : State × Except Stop (List Nat) :=
  let a := t.tab + 32 * (m % t.w)
  let at_ : Except Stop (Nat × Nat) :=
    if t.tabMain then
      if a < 0x10000000000 ∨ a + 32 > 0x10000000000000 then .error (.trap 6 (BitVec.ofNat 64 a))
      else
        match walk s t.ctx a with
        | none => .error (.trap 8 (BitVec.ofNat 64 a))
        | some e => if e.r then .ok (e.place s a) else .error (.trap 9 (BitVec.ofNat 64 a))
    else if a + 32 > t.tabEnd then .error (.trap 6 (BitVec.ofNat 64 (t.tabVa + 32 * (m % t.w))))
    else .ok (a, 0)
  andThen (s, at_) fun s p =>
  andThen (poisonCheck s (t.tabVa + 32 * (m % t.w)) p.1 32) fun s _ =>
  (s, .ok ((List.range 4).map (fun k => readNat s p.2 (p.1 + 8 * k) 8)))

/-- The units of a combine: one for each line of the start state. -/
def combUnits (start len : Nat) (exact : Bool) (us : List (Nat × Nat × (Nat ⊕ TlbEnt))) (reads : Nat → Nat × Nat)
    (gnew fold gold : Nat) : List Unit_ :=
  (destLines start (4 * len) (fun _ => some (.const 0))).map (fun l =>
    let first := max l.1 start
    let p := reads first
    let cause := match us.find? (fun u => u.1 = first / unitBytes) with
      | some (_, _, .inl c) => some c
      | _ => none
    .comb (p.1 - (first - l.1)) p.2 l.1 cause exact
      ((l.2.1.filter (fun m => m.1 % 4 = 0)).map (fun m =>
        let o := l.1 + m.1 - start
        (m.1, (if exact then (0, 0) else reads (gnew + o)), reads (fold + o),
          (if exact then (0, 0) else reads (gold + o))))))

/-- CCOMB. Its query waits for the report of every earlier CCOMB of the core's C, whichever instance issued it (R317).
DEDUCED (log 54). A set in token mode traps 0x0001 with the token, after answer 3 and before PART is checked, and the addresses of the
rows wrap modulo 2^64. DESIGN CHOICE (log 96). -/
def execCcomb (g : BitVec 4) (s : State) : Out :=
  let tok := s.arg 0
  let pw := (s.arg 1).toNat
  let n := tokN tok
  let part := bitsOf pw 0 7
  let cls := bitsOf pw 8 4
  let len := bitsOf pw 16 20
  let answerG (s : State) (a : Nat) : State := retire ((s.pop 3).putG g (BitVec.ofNat 64 a))
  concludeIn s (
    andThen (check s (do
      copyRoom s
      needs s 3
      let r ← ringWord s (s.arg 2).toNat false
      badOperand s (r.isSome || decide (bitsOf pw 7 1 ≠ 0 ∨ bitsOf pw 12 4 ≠ 0 ∨ bitsOf pw 36 28 ≠ 0 ∨ len = 0))
      trapIf (tokBad tok) 1 tok
      if s.me.copies.any (fun o => o.report.isSome) then .error (.wait .other) else .ok ())) fun s _ =>
    match (findSet s (s.me.ctxOf s.curCore) tok).filter (fun t => t.state = 1) with
    | none => (s, .ok (answerG s 3))
    | some t =>
      andThen (check s (do
        trapIf t.token 1 tok
        badOperand s (decide (part ≥ t.parts)))) fun s _ =>
      let a := t.answer n (tokG tok)
      if a ≥ 2 then (s, .ok (answerG s a))
      else
        let exact := decide (a = 1)
        andThen (behindParked s false (fun c => c = cls)) fun s _ =>
        andThen (tableRow s t n) fun s x =>
        andThen (tableRow s t (n + 1)) fun s y =>
        bindCheck s (do
          let off := 4 * part * len
          let bad := [x.getD 3 0, x.getD 1 0, x.getD 2 0, y.getD 0 0].find? (fun v => v % 4 ≠ 0)
          trapIf bad.isSome 5 (BitVec.ofNat 64 (bad.getD 0 + off))
          .ok ((x.getD 3 0 + off) % 2 ^ 64, (x.getD 1 0 + off) % 2 ^ 64, (x.getD 2 0 + off) % 2 ^ 64,
            (y.getD 0 0 + off) % 2 ^ 64)) fun r =>
        let gnew := r.1
        let fold := r.2.1
        let gold := r.2.2.1
        let start := r.2.2.2
        let srcs := if exact then addrs fold (4 * len)
          else addrs gnew (4 * len) ++ addrs fold (4 * len) ++ addrs gold (4 * len)
        andThen (sources s .load (srcs ++ addrs start (4 * len))) fun s reads =>
        andThen (check s (spacesOk s .copyWrite (addrs start (4 * len)))) fun s _ =>
        let w := translateAll s .copyWrite (addrs start (4 * len))
        let s := w.1
        andThen (register s (physFoot (ownRanges s ((start, 4 * len) :: (fold, 4 * len) ::
            (if exact then [] else [(gnew, 4 * len), (gold, 4 * len)])) ++ tableRanges s t n ++ tableRanges s t (n + 1)) false none ++
          spanFoot s [(start, 4 * len)] true (some 0))) fun s _ =>
        let rp : Report := { set := tokSet tok, opened := t.opened, n := n, part := part, settled := exact }
        (s, .ok (launchCopy s 3 cls (combUnits start len exact w.2 reads gnew fold gold) none none (some rp)
          (fun s => s.putG g (BitVec.ofNat 64 a)))))

/-! ## The engine's writes (R237-R239, R242, R251, R252) -/

/-- Where a source lies, with its key slot. -/
def Src.at_ : Src → Option (Nat × Nat)
  | .loc a k => some (a, k)
  | .const _ => none

/-- The locations a unit reads. -/
def Unit_.reads : Unit_ → List Nat
  | .line _ _ mv _ => mv.filterMap (fun m => match m.2 with
    | .loc a _ => some a
    | .const _ => none)
  | .park _ _ mv _ => mv.filterMap (fun m => match m.2 with
    | .loc a _ => some a
    | .const _ => none)
  | .tx _ _ mv _ => mv.filterMap (fun m => match m.2 with
    | .loc a _ => some a
    | .const _ => none)
  | .text _ srcs => srcs.filterMap (fun x => match x with
    | .loc a _ => some a
    | .const _ => none)
  | .accum loc _ es => loc :: es.map (·.1)
  | .comb loc _ _ _ exact es => loc :: es.flatMap (fun e => if exact then [e.2.2.1.1] else [e.2.1.1, e.2.2.1.1, e.2.2.2.1])

/-- The first location among some whose line a copy operation of core n finds poisoned. -/
def firstPoison (s : State) (n : Nat) (o : CopyOp) (locs : List Nat) : Option Nat :=
  locs.find? (fun a => poisonSeen s n o.owner .c (a / lineBytes))

/-- A byte that a copy operation of core n reads: what is there, or, where the operation itself has written it, that or what
was there before the operation, either one (R239). DESIGN CHOICE (log 74). -/
def copyByte (s : State) (n : Nat) (o : CopyOp) (key a : Nat) : Byte := match o.before.get none a with
  | some b => if Config.freeBool s.nonce a then b else loadByteOf s n o.owner .c key a
  | none => loadByteOf s n o.owner .c key a

/-- A source byte as the copy engine of core n finds it. -/
def srcByte (s : State) (n : Nat) (o : CopyOp) : Src → Byte
  | .loc a k => copyByte s n o k a
  | .const b => b

/-- The bytes of some moves; after poison each is some value (R238). -/
def moveBytes (s : State) (n : Nat) (o : CopyOp) (bad : Bool) (mv : List (Nat × Src)) : List (Nat × Byte) :=
  mv.map (fun m => (m.1, if bad then Config.freeByte s.nonce (2 ^ 81 + m.1) else srcByte s n o m.2))

/-- A source word of a copy operation. -/
def wordSrc (s : State) (n : Nat) (o : CopyOp) (p : Nat × Nat) : Word :=
  BitVec.ofNat 32 (leNat ((List.range 4).map (fun i => copyByte s n o p.2 (p.1 + i))))

/-- A word of a destination as it is. -/
def wordLoc (s : State) (n : Nat) (o : CopyOp) (p : Nat × Nat) : Word :=
  BitVec.ofNat 32 (leNat ((List.range 4).map (fun i => loadByteOf s n o.owner .c p.2 (p.1 + i))))

/-- The operations of R250. -/
def accOp (op : Nat) (a b : Word) : Word := match op with
  | 0 => encF32 (rne (fadd (f32 a) (f32 b)))
  | 1 => a + b
  | 2 => encF32 (fmax (f32 a) (f32 b))
  | 3 => encF32 (fmin (f32 a) (f32 b))
  | 4 => a ||| b
  | _ => b

/-- The entries of one element in one window (R251): what each fetches, and what they make together. -/
def accumRun (op : Nat) (d : Word) : List Word → Option Word → List Word × Word
  | [], m => ([], match m with
    | some x => accOp op d x
    | none => d)
  | v :: l, m =>
    let r := accumRun op d l (some (match m with
      | some x => accOp op x v
      | none => v))
    ((match m with
      | some x => accOp op d x
      | none => d) :: r.1, r.2)

/-- An element of a combine (R60, R252). -/
def combNew (exact : Bool) (gnew fold gold : Word) : Word :=
  if exact then fold else encF32 (rne (fadd (f32 gnew) (rne (fsub (f32 fold) (f32 gold)))))

/-- The norm of one element. -/
def combNorm (new old : Word) : Word := encF32 (rne (fsub (f32 new) (f32 old))).abs

/-- The bytes that a unit reads, with the key slot each is read under. -/
def Unit_.takes : Unit_ → List (Nat × Nat)
  | .line _ _ mv _ => mv.filterMap (fun m => m.2.at_)
  | .park _ _ mv _ => mv.filterMap (fun m => m.2.at_)
  | .tx _ _ mv _ => mv.filterMap (fun m => m.2.at_)
  | .text _ srcs => srcs.filterMap (fun x => x.at_)
  | .accum _ _ es => es.flatMap (fun e => (List.range 4).map (fun i => (e.1 + i, 0)))
  | .comb _ _ _ _ exact es => es.flatMap (fun e =>
      (if exact then [e.2.2.1] else [e.2.1, e.2.2.1, e.2.2.2]).flatMap (fun p => (List.range 4).map (fun i => (p.1 + i, p.2))))

/-- A unit writes location a. -/
def Unit_.stores (a : Nat) : Unit_ → Bool
  | .line loc _ mv _ => decide (loc ≤ a) && decide (a < loc + lineBytes) && mv.any (fun m => loc + m.1 = a)
  | .accum loc _ es => (decide (loc ≤ a) && decide (a < loc + 4)) || es.any (fun e => match e.2 with
      | some b => decide (b ≤ a) && decide (a < b + 4)
      | none => false)
  | .comb loc _ _ cause _ es => cause.isNone && decide (loc ≤ a) && decide (a < loc + lineBytes) &&
      es.any (fun e => decide (loc + e.1 ≤ a) && decide (a < loc + e.1 + 4))
  | _ => false

/-- What the operation's later units will find overwritten by unit u, as it was before the operation (R239).
DESIGN CHOICE (log 74). -/
def noteBefore (s : State) (n : Nat) (o : CopyOp) (u : Unit_) : Sparse (Option Byte) :=
  ((o.units.drop 1).flatMap Unit_.takes).foldl (fun m p =>
    if u.stores p.1 ∧ m.get none p.1 = none then m.set none p.1 (some (loadByteOf s n o.owner .c p.2 p.1)) else m) o.before

/-- A copy operation of a core after its unit u, or gone. -/
def nextUnit (s : State) (n : Nat) (o : CopyOp) (u : Unit_) (rp : Option Report) : Option CopyOp :=
  let rest := o.units.drop 1
  if rest = [] ∧ rp = none then none else some { o with units := rest, report := rp, before := noteBefore s n o u }

def setOp (s : State) (n id : Nat) (o : Option CopyOp) : State :=
  let c := s.core n
  s.setCore n { c with copies := c.copies.filterMap (fun x => if x.id = id then o else some x) }

/-- The writes of an element's update in their order, each with the locations it is made from: the old values that are kept,
and the element itself (R251). -/
def accumWrites (loc : Nat) (es : List (Nat × Option Nat)) : List (Nat × List Nat) :=
  (List.range es.length).filterMap (fun i =>
    ((es.getD i (0, none)).2).map (fun a => (a, loc :: (es.take i).map (·.1)))) ++ [(loc, loc :: es.map (·.1))]

/-- How many writes of an element's update come before the first that a poisoned line takes part in (R238). -/
def soundWrites (s : State) (n : Nat) (o : CopyOp) (loc : Nat) (es : List (Nat × Option Nat)) : Nat :=
  ((accumWrites loc es).takeWhile (fun w => (firstPoison s n o w.2).isNone)).length

/-- The write of one unit is left to be performed at package scope later: a line in the core's own scratchpad or in main memory,
where the schedule defers it, or where an earlier line of its operation waits. -/
def lineLater (s : State) (n : Nat) (o : CopyOp) (u : Unit_) : Bool := match u with
  | .line loc _ _ _ =>
    (isMain loc || decide ((loc - spBase) / 0x400000 = n)) && !s.poison.get false (loc / lineBytes) &&
    (s.defer || s.accs.any (fun a => decide (a.op = some o.id)))
  | _ => false

/-- What a unit counts: written and skipped bytes. -/
def Unit_.counts : Unit_ → Nat × Nat
  | .line _ _ mv k => (mv.length, k)
  | .park _ _ mv k => (mv.length, k)
  | .tx _ _ mv k => (mv.length, k)
  | .text _ srcs => (srcs.length, 0)
  | .accum _ _ es => (4 * es.length, 0)
  | .comb _ _ _ _ _ _ => (0, 0)

/-- The values that a combine's line makes: offset, new, old. -/
def combLine (s : State) (n : Nat) (o : CopyOp) : Unit_ → List (Nat × Word × Word)
  | .comb loc key _ _ exact es => es.map (fun e =>
      (e.1, combNew exact (wordSrc s n o e.2.1) (wordSrc s n o e.2.2.1) (wordSrc s n o e.2.2.2), wordLoc s n o (loc + e.1, key)))
  | _ => []

/-- The instance that has written instruction memory carries the OVERLAY flag (R133). DEDUCED (log 53). -/
def Core.overlaid (c : Core) (key : Nat × Nat) : Core :=
  let f (i : Inst) : Inst := if i.key = key then { i with overlay := true } else i
  let g (p : Stopped) : Stopped := { p with inst := f p.inst }
  { c with inst := c.inst.map f, parked := c.parked.map g, spilled := c.spilled.map g }

/-- The write of one unit; `bad` marks a poisoned source, which ends an element's update at the first write that it takes part
in (R238). An error is the wait for a place in the replay queue. DEDUCED (log 53). A line that parks reports the address of the line,
and 128 bytes, whatever part of it the copy writes (R161). DESIGN CHOICE (log 89). -/
def writeUnit (s : State) (n : Nat) (o : CopyOp) (u : Unit_) (bad : Bool) : Except Stop State :=
  let mark (s : State) (l : Nat) : State := if bad then { s with poison := s.poison.set false l true } else s
  let parked (va cause : Nat) (bs : List (Nat × Byte)) : Parked :=
    { id := 0, va := BitVec.ofNat 64 va, cls := o.cls, eng := 3, cause := cause, bytes := bs, size := 7, ctx := o.ctx
      owner := o.owner, issued := o.id, poison := bad }
  match u with
  | .line loc key mv _ =>
    let bs := (moveBytes s n o bad mv).map (fun b => (loc + b.1, b.2))
    if bs = [] then .ok s
    else if !bad ∧ lineLater s n o u then
      .ok (s.withId.addSeen { id := s.nextId, op := some o.id, n := n, eng := 3, owner := o.owner, cls := o.cls
                              eff := .write key bs })
    else .ok (mark (writeLine s key (loc / lineBytes) bs) (loc / lineBytes))
  | .park va cause mv _ =>
    if mv = [] then .ok s else parkWrite s n (parked va cause (moveBytes s n o bad mv))
  | .tx t m mv _ =>
    let bs := moveBytes s n o bad mv
    if bs = [] then .ok s else .ok (sendLine s n 3 o.owner m o.id t (bs.map (·.1)) (lineImage bs) bad)
  | .text word srcs =>
    let bs := srcs.mapIdx (fun i x => if bad then Config.freeByte s.nonce (2 ^ 81 + i) else srcByte s n o x)
    .ok ({ s with imem := (List.range (srcs.length / 4)).foldl (fun m k =>
      m.set 0 (65536 * n + word + k) (wordOf bs k)) s.imem }.setCore n ((s.core n).overlaid o.owner))
  | .accum loc op es =>
    let r := accumRun op (wordLoc s n o (loc, 0)) (es.map (fun e => wordSrc s n o (e.1, 0))) none
    let ws := (es.zip r.1).filterMap (fun e => e.1.2.map (fun a => (a, e.2))) ++ [(loc, r.2)]
    let k := if bad then soundWrites s n o loc es else ws.length
    let s1 := (ws.take k).foldl (fun s w => writeNat s 0 w.1 4 w.2.toNat) s
    match ws[k]? with
    | some w => .ok (mark (writeNat s1 0 w.1 4 (Config.freeNat s.nonce w.1)) (w.1 / lineBytes))
    | none => .ok s1
  | .comb loc key va cause _ _ =>
    let bs := (combLine s n o u).flatMap (fun e => (locate e.1 (leBytes 4 e.2.1.toNat)).map (fun b =>
      (b.1, if bad then Config.freeByte s.nonce (2 ^ 81 + b.1) else b.2)))
    match cause with
    | some c => parkWrite s n (parked va c bs)
    | none => .ok (mark (writeLine s key (loc / lineBytes) (bs.map (fun b => (loc + b.1, b.2)))) (loc / lineBytes))

/-- A combine's report after one more line (R252). -/
def Report.after (r : Report) (vals : List (Nat × Word × Word)) (bad : Bool) : Report :=
  if bad then { r with norm := 0x7FC00000#32, differs := true, settled := false }
  else { r with
    norm := vals.foldl (fun a e => normMax a (combNorm e.2.1 e.2.2)) r.norm
    differs := r.differs || vals.any (fun e => e.2.1 ≠ e.2.2) }

/-- The unit leaves its line in the device's own memory, and not in transmit space. -/
def Unit_.local_ : Unit_ → Bool
  | .tx _ _ _ _ => false
  | _ => true

/-- Locations that a unit writes. -/
def Unit_.cells : Unit_ → List Nat
  | .line loc _ mv _ => mv.map (fun m => loc + m.1)
  | .accum loc _ es => (loc :: es.filterMap (·.2)).flatMap (fun a => (List.range 4).map (a + ·))
  | .comb loc _ _ cause _ es => if cause.isSome then [] else es.flatMap (fun e => (List.range 4).map (loc + e.1 + ·))
  | _ => []

/-- A pending store of C itself writes one of the bytes that an update reads and writes as one (R251). -/
def updateHeld (s : State) (n : Nat) : Unit_ → Bool
  | .accum loc _ _ => s.accs.any (fun a => decide (a.n = n) && decide (a.eng = 3) && (match a.eff with
      | .write _ bs => bs.any (fun b => decide (loc ≤ b.1) && decide (b.1 < loc + 4))
      | _ => false))
  | _ => false

/-- The next unit u of the operation may be written: older accesses, operations and reflected lines of its class have been
performed, nothing of its class is parked from before it, its slot may fill, and every store to its bytes that the core has
seen before it is in memory (R160, R166-R168). -/
def copyMay (s : State) (n : Nat) (o : CopyOp) (u : Unit_) : Bool :=
  let c := s.core n
  let cls := u.clsIn o.cls
  !c.copies.any (fun x => decide (x.owner = o.owner) && x.carries (fun k => k = cls) && decide (x.id < o.id)) &&
  !s.accs.any (fun a => decide (a.n = n) && decide (a.eng = 3) && decide (a.cls = cls) && decide (a.owner = o.owner) &&
    decide (a.no < o.id)) &&
  (lineLater s n o u || !s.accs.any (fun a => decide (a.op = some o.id))) &&
  !(u.local_ && s.fabric.sends.any (fun d => decide (d.core = n) && decide (d.eng = 3) && decide (d.cls = cls) &&
    decide (d.owner = o.owner) && decide (d.st = 0) && decide (d.acc < o.id))) &&
  !c.parkedAll.any (fun p => decide (p.eng = 3) && decide (p.cls = cls) && decide (p.owner = o.owner) && !p.failed &&
    decide (p.issued ≤ o.id)) &&
  !countHeld s o.count && !seenOver s n u.cells && !updateHeld s n u

/-- The error record of a copy that met poison at location a (R238, R356). DESIGN CHOICE (log 55). -/
def logCopyPoison (s : State) (n : Nat) (o : CopyOp) (a : Nat) : State :=
  let addr : Nat := if isMain a then Config.freeNat s.nonce 5
    else (a - spBase) % 0x400000 / lineBytes * lineBytes + 2 ^ 22 * ((a - spBase) / 0x400000)
  logError s 4 n 3 0xFFFF (BitVec.ofNat 64 addr) (slotAddr s o.count)

/-- COPY_LINE_WRITE (R237, R238): one destination line is written and counted. A poisoned source poisons the line, once the earlier
lines of the operation are in memory, makes the slot full with its error flag set, and ends the operation. -/
def execCopyLineWrite (n id : Nat) (s : State) : Out :=
  let c := s.core n
  match c.copies.find? (fun o => o.id = id) with
  | none => .next s
  | some o =>
    match o.units with
    | [] => .next s
    | u :: _ =>
      if !copyMay s n o u then .next s
      else
        let poison := firstPoison s n o u.reads
        if poison.isSome ∧ s.accs.any (fun a => a.op = some o.id) then .next s
        else
        match writeUnit s n o u poison.isSome with
        | .error _ => .next s
        | .ok t =>
          match poison with
          | some a =>
            let t := logCopyPoison t n o a
            let d := t.core n
            let t := t.setCore n { d with npois := satInc 16 d.npois }
            let before := match u with
              | .accum loc _ es => 4 * min (soundWrites s n o loc es) (es.filter (·.2.isSome)).length
              | _ => 0
            let t := match o.count with
              | some ct => failSlot (if before = 0 then t else countSlot t n ct before 0 []) ct
              | none => t
            match o.report with
            | none => .next (setOp t n id none)
            | some r => .next (setOp t n id (some { o with units := [], report := some (r.after [] true) }))
          | none =>
            let k := u.counts
            let t := match o.count with
              | some ct => countSlot t n ct k.1 k.2 (if lineLater s n o u then [o.id] else [])
              | none => t
            .next (setOp t n id (nextUnit s n o u (o.report.map (fun r => r.after (combLine s n o u) false))))

/-- CCOMB_REPORT (R252, R304): every write of the combine has been performed, and the coordinator takes its part's
report. A line that firmware has failed, which is never performed, does not hold the report back, and one whose set has been closed or
reopened, or whose slice is free, is dropped. DESIGN CHOICE (log 96). -/
def execCcombReport (n id : Nat) (s : State) : Out :=
  match (s.core n).copies.find? (fun o => o.id = id ∧ o.units = []) with
  | none => .next s
  | some o =>
    match o.report with
    | none => .next s
    | some r =>
      if (s.core n).parkedAll.any (fun p => decide (p.issued = id) && !p.failed) then .next s
      else
        let s := setOp s n id none
        let t := s.set r.set
        if t.state ≠ 0 ∧ t.opened = r.opened ∧ t.base ≤ r.n ∧ r.n + 1 < t.h then
          let x := t.report r.n r.part r.norm r.differs r.settled
          .next ((s.putSet r.set x.1).sliceInc 0 x.2)
        else .next s

end Sys2Proof.Machine
end

