-- ==== Sys2Proof/Machine/Counters.lean ====
section
/-!
DEFINITION. The plinth's counters and barrier units (R140-R144).
-/

namespace Sys2Proof.Machine

/-- The class number of an access that carries no ordering class: counter and slice updates. -/
def noClass : Nat := 16

/-- The absolute number of the counter or barrier that a program names, or 0x0006 (R140). -/
def unitNumber (s : State) (v : W64) (baseOff countOff len total : Nat) : Except Stop Nat :=
  if s.curCore = Config.serviceCore then
    if v.toNat < total then .ok v.toNat else .error (.trap 6 v)
  else
    let x := s.me.ctxOf s.curCore
    if v.toNat < ctxField s x countOff len then .ok (ctxField s x baseOff len + v.toNat) else .error (.trap 6 v)

def counterNumber (s : State) (v : W64) : Except Stop Nat := unitNumber s v 0x0E 0x10 2 4096
def barrierNumber (s : State) (v : W64) : Except Stop Nat := unitNumber s v 0x12 0x13 1 64

def State.counter (s : State) (k : Nat) : W64 := s.tasks.counters.get 0 k
def State.setCounter (s : State) (k : Nat) (v : W64) : State :=
  { s with tasks := { s.tasks with counters := s.tasks.counters.set 0 k v } }

/-- The release step of R142 for the executing S: everything it issued or acquired in classes 0-14, and its own earlier
counter updates, which reach the plinth in program order (R141). -/
def releaseStep (s : State) : Except Stop Unit :=
  if released s s.curCore s.curEng ∧ classBusy s noClass = false then .ok () else .error (.wait .release)

/-- A counter instruction that only observes still follows S's own earlier updates (R141). -/
def inOrder (s : State) : Except Stop Unit := if classBusy s noClass then .error (.wait .release) else .ok ()

/-- A counter update as it is performed. -/
def applyCounter (s : State) (k : Nat) (add : Bool) (v : W64) : State :=
  s.setCounter k (if add then s.counter k + v else v)

/-- A posted counter update (R145): performed at once, or left to the plinth. -/
def postCounter (s : State) (k : Nat) (add : Bool) (v : W64) : State :=
  if s.defer then
    { s.withId with accs := s.accs ++ [{ id := s.nextId, n := s.curCore, eng := s.curEng.tag, owner := s.me.owner, cls := noClass,
                                         eff := .counter k add v }] }
  else applyCounter s k add v

/-- CTAKE (R141). -/
def execCtake (d a b : BitVec 5) (s : State) : Out := conclude s (do
  notInHandler s
  let k ← counterNumber s (s.sval a)
  releaseStep s
  .ok (retire ((applyCounter s k true (s.sval b)).putS d (s.counter k))))

/-- CTADD (R141). -/
def execCtadd (a b : BitVec 5) (s : State) : Out := conclude s (do
  notInHandler s
  let k ← counterNumber s (s.sval a)
  releaseStep s
  .ok (retire (postCounter s k true (s.sval b))))

/-- CTSET (R141). -/
def execCtset (a b : BitVec 5) (s : State) : Out := conclude s (do
  notInHandler s
  let k ← counterNumber s (s.sval a)
  releaseStep s
  .ok (retire (postCounter s k false (s.sval b))))

/-- CTRD (R141). -/
def execCtrd (d a : BitVec 5) (s : State) : Out := conclude s (do
  notInHandler s
  let k ← counterNumber s (s.sval a)
  inOrder s
  .ok (retire (s.putS d (s.counter k))))

/-- The condition of CTWAIT (R141). -/
def ctMet (k b : W64) : Bool := decide ((k - b).toNat < 2 ^ 63)

/-- CTWAIT (R141). -/
def execCtwait (d a b : BitVec 5) (s : State) : Out := conclude s (do
  notInHandler s
  let k ← counterNumber s (s.sval a)
  inOrder s
  if ctMet (s.counter k) (s.sval b) then .ok (retire (s.putS d (s.counter k)))
  else .error (.wait (.counter (s.sval a).toNat)))

/-- COUNTER_WAIT_WAKE (R141): an update has made the condition true. -/
def execCounterWaitWake (n : Nat) (e : Eng) (s : State) : Out :=
  let t := s.as n e
  if waiting s n e (fun k => match k with
    | .counter _ => true
    | _ => false) then
    match decode t.word with
    | .ok (.ctwait d a b) => resumeWord t (execCtwait d a b t)
    | _ => .next s
  else .next s

/-! Barriers (R143). -/

/-- The arrivals that the words of the executing core's instance, or of the service core's firmware, wait on. -/
def State.bars (s : State) : List BarWait := match s.me.inst with
  | some i => i.barw
  | none => s.me.barw

/-- The arrival that the word S stands at has recorded, and waits on: unit, generation, and whether its n differs. -/
def State.barw (s : State) : Option (Nat × Nat × Bool) :=
  (s.bars.find? (fun b => b.pc = s.q.pc)).map (fun b => (b.unit, b.gen, b.differs))

/-- The word records an arrival, or has completed. -/
def State.setBarw (s : State) (b : Option (Nat × Nat × Bool)) : State :=
  let c := s.me
  let l := (b.map (fun x => BarWait.mk s.q.pc x.1 x.2.1 x.2.2)).toList ++ s.bars.filter (fun b => b.pc ≠ s.q.pc)
  s.setMe (match c.inst with
    | some i => { c with inst := some { i with barw := l } }
    | none => { c with barw := l })

/-- The participants a barrier word names. -/
def barN (b : W64) : Nat := min 4096 (max 1 (bitsOf b.toNat 0 13))

/-- An arrival with n participants joins the first generation that is not full, of those that fill. It gives how many come
before it, and whether its n differs. -/
def joinFills : List (Nat × Nat) → Nat → List (Nat × Nat) × Nat × Bool
  | [], n => ([(n, 1)], 0, false)
  | (m, a) :: l, n =>
    if a < m then ((m, a + 1) :: l, 0, decide (n ≠ m))
    else
      let r := joinFills l n
      ((m, a) :: r.1, r.2.1 + 1, r.2.2)

/-- An arrival with n participants: the number of the generation joined, and whether its n differs. -/
def Barrier.arrive (u : Barrier) (n : Nat) : Barrier × Nat × Bool :=
  let r := joinFills u.fills n
  ({ u with fills := r.1 }, u.gen + r.2.1, r.2.2)

def State.barrier (s : State) (b : Nat) : Barrier := s.tasks.barriers.get {} b
def State.setBarrier (s : State) (b : Nat) (u : Barrier) : State :=
  { s with tasks := { s.tasks with barriers := s.tasks.barriers.set {} b u } }

/-- BARW (R143): the arrival is recorded once, and the word completes when its generation has been released.
DEDUCED (log 35). -/
def execBarw (d a b : BitVec 5) (s : State) : Out :=
  match (do
    notInHandler s
    let u ← barrierNumber s (s.sval a)
    match s.barw.filter (fun r => r.1 = u) with
    | some r => .ok (u, some r)
    | none =>
      releaseStep s
      .ok (u, none) : Except Stop (Nat × Option (Nat × Nat × Bool))) with
  | .error e => conclude s (.error e)
  | .ok (u, some r) =>
    if (s.barrier u).gen > r.2.1 then
      .next (retire ((s.setBarw none).putS d (BitVec.ofNat 64 (r.2.1 % 2 ^ 63 + boolBit r.2.2 63))))
    else .next (stallIn (.barrier (s.sval a).toNat) s)
  | .ok (u, none) =>
    let x := (s.barrier u).arrive (barN (s.sval b))
    .next (stallIn (.barrier (s.sval a).toNat) ((s.setBarrier u x.1).setBarw (some (u, x.2.1, x.2.2))))

/-- BARRIER_RELEASE (R143): n arrivals have been recorded. DEDUCED (log 35). -/
def execBarrierRelease (b : Nat) (s : State) : Out :=
  let u := s.barrier b
  match u.fills with
  | (m, a) :: l => if m ≤ a then .next (s.setBarrier b { gen := u.gen + 1, fills := l }) else .next s
  | [] => .next s

end Sys2Proof.Machine
end

