-- ==== Sys2Proof/Machine/Work.lean ====
section
/-!
DEFINITION. Loop records and tables (R114, R116), and the work instructions SPAWN, LREAD and IDX (R119, R124, R137-R139).
-/

namespace Sys2Proof.Machine

/-- Bytes o to o + n − 1 of a list, little-endian. -/
def fieldAt (bs : List Byte) (o n : Nat) : Nat := leNat ((bs.drop o).take n)

/-- The loop table of 40 bytes, if valid (R114). -/
def tabOf (bs : List Byte) : Option LoopTab :=
  let lv (l : Nat) : Level :=
    let w := fieldAt bs (8 + 8 * l) 8
    ⟨bitsOf w 0 32, bitsOf w 32 2, decide (bitsOf w 34 1 = 1)⟩
  let ls := [lv 0, lv 1, lv 2, lv 3]
  let present := ls.filter (·.present)
  let extents : Nat := (present.map (·.extent)).foldl (fun a b => a * b) 1
  let zeros := decide (fieldAt bs 4 4 = 0) && (List.range 4).all (fun l => decide (bitsOf (fieldAt bs (8 + 8 * l) 8) 35 29 = 0))
  if fieldAt bs 0 4 ≠ 0 ∧ zeros ∧ present.all (fun l => l.kind ≠ 3) ∧ present.any (fun l => l.kind = 1) ∧
    extents ≤ 2 ^ 48 then some { grain := fieldAt bs 0 4, levels := ls }
  else none

/-- The single-instance table (R114). -/
def oneTab : LoopTab := { grain := 1, levels := [⟨1, 1, true⟩] }

/-- A loop record's fields from its 64 bytes, its class raised to the context's (R111, R116). -/
def recOf (bs : List Byte) (ctxClass : Nat) : LoopRec :=
  { pro := fieldAt bs 0 4, kern := fieldAt bs 4 4, epi := fieldAt bs 8 4, trips := fieldAt bs 0xC 4
    args := BitVec.ofNat 64 (fieldAt bs 0x10 8), spTab := BitVec.ofNat 64 (fieldAt bs 0x18 8), est := fieldAt bs 0x20 4
    policy := BitVec.ofNat 8 (fieldAt bs 0x24 1), cls := max ctxClass (fieldAt bs 0x25 1 % 4), part := fieldAt bs 0x26 1
    slipw := fieldAt bs 0x27 1, text := BitVec.ofNat 64 (fieldAt bs 0x28 8), textLen := fieldAt bs 0x30 4
    parent := BitVec.ofNat 32 (fieldAt bs 0x34 4), tokens := fieldAt bs 0x38 2 }

/-- Every page of a text image is present with X set (R116): one walk for each 64 KiB unit that it touches.
DEDUCED (log 75). -/
def textMapped (s : State) (x a len : Nat) : Bool :=
  decide (0x10000000000 ≤ a) && decide (a + len ≤ 0x10000000000000) &&
  (List.range ((a % 0x10000 + len + 0xFFFF) / 0x10000)).all (fun i =>
    match walk s x ((a / 0x10000 + i) * 0x10000) with
    | some t => t.x
    | none => false)

/-- The validity of a loop record (R116). The limit on the parent link's index holds only while the link is valid, since a record
without one names none. DEDUCED (log 75). -/
def recValid (s : State) (x : Nat) (bs : List Byte) (r : LoopRec) : Bool :=
  decide (r.pro < r.textLen) && decide (r.kern < r.textLen) && decide (r.epi < r.textLen) && decide (1 ≤ r.trips) &&
  decide (r.spTab.toNat % 32 = 0) && decide (r.policy.toNat < 32) && decide (fieldAt bs 0x25 1 < 4) &&
  decide (r.part ≤ ctxField s x 0x0D 1) && decide (r.part ≤ (if r.cls = 0 then s.tasks.cl0Part else 63 - s.tasks.cl0Part)) &&
  decide (1 ≤ r.slipw) && decide (r.slipw ≤ 15) && decide (r.text.toNat % 4 = 0) && decide (1 ≤ r.textLen) &&
  decide (r.textLen ≤ 65536) && decide (bitsOf r.parent.toNat 12 19 = 0) &&
  (decide (bitsOf r.parent.toNat 31 1 = 0) || decide (bitsOf r.parent.toNat 0 12 < ctxField s x 0x10 2)) &&
  decide (fieldAt bs 0x3A 6 = 0) && textMapped s x r.text.toNat (4 * r.textLen)

/-- The class of a context (R110). -/
def ctxClass (s : State) (x : Nat) : Nat := ctxField s x 0x0A 1 % 4

/-- Bytes read at issue in pieces of 8, each with the checks of R149. -/
def readPieces (s : State) (a cls : Nat) : Nat → State × Except Stop (List Byte)
  | 0 => (s, .ok [])
  | k + 1 =>
    andThen (readPieces s a cls k) fun s bs =>
    andThen (readNow s (a + 8 * k) 8 8 cls) fun s b => (s, .ok (bs ++ b))

/-- An address in main memory or own scratchpad, as R137 and R320 require; transmit space traps 0x0007 first (R149 check 2), and another
space that S could load from 0x0006. DESIGN CHOICE (log 92). -/
def spawnSpace (a : Nat) : Except Stop Unit :=
  if 0x300000000 ≤ a ∧ a < 0x400000000 then .error (.trap 7 (BitVec.ofNat 64 a))
  else trapIf (decide (0x400000 ≤ a) && decide (a < 0x10000000000)) 6 (BitVec.ofNat 64 a)

/-- The footprint of n bytes read at address a, if they lie in own scratchpad. -/
def readFoot (s : State) (a n : Nat) : List Foot := ownFoot s a (ownLoc s a) n false

/-- The oldest running launch of the device (R124). -/
def oldestRunning (s : State) : Option Nat :=
  ((s.tasks.launches.filter (·.started)).map (·.num)).foldl (fun a n => match a with
    | none => some n
    | some m => some (min m n)) none

/-- The die whose pool a core spawns into (R124). The service core lies on no die: which pool it uses is open (log 10). -/
def spawnDie (s : State) (n : Nat) : Nat := if n = Config.serviceCore then Config.freeNat s.nonce 3 % 4 else n / 32

def poolFree (s : State) (d : Nat) : Nat := 1024 - (s.tasks.pools.get [] d).length
def ovfCapacity (s : State) (x : Nat) : Nat := 2 ^ ctxField s x 0x28 1

/-- The parts of an overflow queue entry: the copy of the child's loop record, its loop table address and the spawning launch
number, each little-endian (R2, R125), and 48 bytes of which R125 says nothing. DESIGN CHOICE (log 36). -/
def ovfParts (s : State) (ch : Child) : List (List Byte) :=
  [ch.image, leBytes 8 ch.tabAddr.toNat, leBytes 8 ch.by_] ++ (List.range 48).map (fun i => [Config.freeByte s.nonce (2 ^ 80 + i)])

/-- Which part of an entry stands j-th in it, a permutation of 0-50 that is free: R125 gives the entry no layout. -/
def ovfPlace (j : Nat) : Nat := ((List.range 51).filter (fun i =>
  decide (Config.ovfRank i < Config.ovfRank j) || (decide (Config.ovfRank i = Config.ovfRank j) && decide (i < j)))).length

/-- The bytes of an overflow queue entry (R125): its parts, each whole, in a free order. DESIGN CHOICE (log 36). -/
def ovfBytes (s : State) (ch : Child) : List Byte := ((List.range 51).map (fun j => (ovfParts s ch).getD (ovfPlace j) [])).flatten

/-- Entry i of context x's overflow queue is written in context memory for a child (R125). -/
def writeOvf (s : State) (x i : Nat) (ch : Child) : State :=
  plinthWrite s x (ctxField s x 0x20 8 + 128 * (i % ovfCapacity s x)) (ovfBytes s ch)

/-- Appends a child to its context's overflow queue (R124, R125). The entry's bytes are written, and the queue keeps the child
itself. DESIGN CHOICE (log 36). -/
def pushOvf (s : State) (ch : Child) : State :=
  let l := s.tasks.ovf.get [] ch.ctx
  let s1 := writeOvf s ch.ctx (s.tasks.ovfHead.get 0 ch.ctx + l.length) ch
  { s1 with tasks := { s1.tasks with ovf := s1.tasks.ovf.set [] ch.ctx (l ++ [ch]) } }

/-- Children go to the front of the overflow queue of context x: its head moves back over them (R121, R125). DEDUCED (log 60).
Of those that find its ring full the spec says nothing: the queue keeps them beyond its capacity. DESIGN CHOICE (log 92). -/
def frontOvf (s : State) (x : Nat) (chs : List Child) : State :=
  let cap := ovfCapacity s x
  let h := (s.tasks.ovfHead.get 0 x + cap - chs.length % cap) % cap
  let s1 := chs.zipIdx.foldl (fun t e => writeOvf t x (h + e.2) e.1) s
  { s1 with tasks := { s1.tasks with
      ovf := s1.tasks.ovf.set [] x (chs ++ s1.tasks.ovf.get [] x), ovfHead := s1.tasks.ovfHead.set 0 x h } }

/-- Placement of a child (R124): the pool, the overflow queue, or neither; the result says which. A child of the oldest running
launch that finds the pool without any free entry goes to the overflow queue, which R124 leaves open.
DESIGN CHOICE (log 77). -/
def placeChild (s : State) (d : Nat) (ch : Child) : State × Nat :=
  let free := poolFree s d
  let l := s.tasks.ovf.get [] ch.ctx
  if (free ≤ 64 ∧ oldestRunning s ≠ some ch.by_) ∨ l ≠ [] ∨ free = 0 then
    if l.length ≥ ovfCapacity s ch.ctx then (s, 2)
    else
      let s1 := pushOvf s ch
      ({ s1 with tasks := { s1.tasks with novf := satInc 32 s1.tasks.novf } }, 1)
  else ({ s with tasks := { s.tasks with pools := s.tasks.pools.set [] d (s.tasks.pools.get [] d ++ [{ ch with no := s.nonce }]) } }, 0)

/-- SPAWN (R137). It reads in class 0. DESIGN CHOICE (log 92). -/
def execSpawn (d a b : BitVec 5) (s : State) : Out :=
  let ra := (s.sval a).toNat
  let ta := (s.sval b).toNat
  let x := s.me.ctxOf s.curCore
  concludeIn s (
    andThen (check s (do
      notInHandler s
      trapIf (decide (bitsOf (ctxField s x 0x0B 1) 1 1 = 0)) 4 s.wordVal
      trapIf (decide (ra % 64 ≠ 0)) 5 (s.sval a)
      spawnSpace ra)) fun s _ =>
    andThen (readPieces s ra 0 8) fun s rb =>
    andThen (check s (if ta = 0 then .ok () else do
      trapIf (decide (ta % 8 ≠ 0)) 5 (s.sval b)
      spawnSpace ta)) fun s _ =>
    andThen (if ta = 0 then (s, .ok []) else readPieces s ta 0 5) fun s tb =>
    let r := recOf rb (ctxClass s x)
    match (if ta = 0 then some oneTab else tabOf tb) with
    | none => (s, .error (.trap 0x1A (s.sval a)))
    | some tab =>
      if !recValid s x rb r then (s, .error (.trap 0x1A (s.sval a)))
      else if !releasedAll s s.curCore s.curEng then (s, .error (.wait .release))
      else
        andThen (register s (spanFoot s ((ra, 64) :: if ta = 0 then [] else [(ta, 40)]) false none)) fun s _ =>
        let ch : Child := { ctx := x, lrec := r, tab := tab, tabAddr := s.sval b, by_ := s.me.owner.1, image := rb }
        let t := placeChild s (spawnDie s s.curCore) ch
        (t.1, .ok (retire (t.1.putS d (BitVec.ofNat 64 t.2)))))

/-- The instance that runs on the executing core: LREAD and IDX trap 0x0001 without one (R138, R139). -/
def runningInst (s : State) : Except Stop Inst := match s.me.inst with
  | some i => if s.curCore = Config.serviceCore then .error (.trap 1 s.wordVal) else .ok i
  | none => .error (.trap 1 s.wordVal)

/-- The launch field that LREAD reads (R138). -/
def launchField (i : Inst) (n : Nat) : Nat := match n with
  | 0 => i.lrec.trips
  | 1 => i.lrec.args.toNat
  | 2 => i.cls
  | 3 => i.lrec.policy.toNat
  | 4 => i.lrec.textLen
  | 5 => i.launch
  | 6 => i.ctx
  | 7 => i.first
  | 8 => i.count
  | 9 => i.lrec.parent.toNat
  | 10 => i.lrec.tokens
  | 11 => i.tabAddr.toNat
  | _ => i.again

/-- LREAD (R138). -/
def execLread (d n : BitVec 5) (s : State) : Out := conclude s (do
  let i ← runningInst s
  trapIf (decide (n.toNat > 12)) 1 s.wordVal
  .ok (retire (s.putS d (BitVec.ofNat 64 (launchField i n.toNat)))))

/-- The position at each level, innermost first, from the core index f, the die point p and the step t (R119). -/
def positions : List Level → Nat → Nat → Nat → List Nat
  | [], _, _, _ => []
  | l :: ls, f, p, t =>
    if !l.present then 0 :: positions ls f p t
    else if l.kind = 1 then f % l.extent :: positions ls (f / l.extent) p t
    else if l.kind = 2 then p % l.extent :: positions ls f (p / l.extent) t
    else t % l.extent :: positions ls f p (t / l.extent)

/-- idx(l) of an instance (R119). -/
def Inst.idx (i : Inst) (l : Nat) : Nat :=
  let n := i.tab.levels.length
  (positions i.tab.levels.reverse i.first i.p i.step).getD (n - 1 - l) 0

/-- IDX (R139). -/
def execIdx (d l : BitVec 5) (s : State) : Out := conclude s (do
  let i ← runningInst s
  trapIf (decide (l.toNat > 3)) 1 s.wordVal
  .ok (retire (s.putS d (BitVec.ofNat 64 (if l.toNat < i.tab.levels.length then i.idx l.toNat else 0)))))

end Sys2Proof.Machine
end

