-- ==== Sys2Proof/Machine/Fabric.lean ====
section
/-!
DEFINITION. The F instructions (R282-R291), the reflection fence (R273-R275), and the fabric's events: packets, slots,
reconfiguration, ring heaters (R256-R262, R276, R292-R294).
-/

namespace Sys2Proof.Machine

/-! ## Records of the F instructions -/

/-- A field of a record. -/
abbrev rf (bs : List Byte) (o n : Nat) : Nat := fieldAt bs o n

/-- A record of own scratchpad that F reads, of `len` bytes aligned to `align`, with its footprint still to register. -/
def fRecord (s : State) (a len align : Nat) : State × Except Stop (List Byte) := readNow s a len align 0

/-- The transmit map entry of a record, none for a release, or nothing where the record is invalid (R265).
A record with a nonzero byte from 0x50 on, of which R265 gives nothing, is one of them. DEDUCED (log 49). -/
def txRecord (x : Nat) (bs : List Byte) : Option (Option TxMap) :=
  let w := rf bs 0 8
  let z := rf bs 8 1
  let n := rf bs 9 1
  let fl := rf bs 0xA 2
  let lw := rf bs 0xC 2
  let loop := decide (bitsOf fl 0 1 = 1)
  let d (i : Nat) := rf bs (0x10 + 4 * i) 4
  if n = 0 then some none
  else if z < 7 ∨ z > 32 ∨ w % 2 ^ z ≠ 0 ∨ w + 2 ^ z > 2 ^ 32 ∨ n > 16 ∨ bitsOf fl 1 3 > 4 ∨ bitsOf fl 4 4 ≠ 0 ∨
    bitsOf fl 12 4 ≠ 0 ∨ lw > 1023 ∨ (loop = false ∧ lw ≠ 0) ∨ rf bs 0xE 2 ≠ 0 ∨
    (List.range 16).any (fun i => if i < n then bitsOf (d i) 22 10 ≠ 0 else d i ≠ 0) ∨ rf bs 0x50 48 ≠ 0 then none
  else some (some { ctx := x, w := w, z := z, loop := loop, op := bitsOf fl 1 3, cls := bitsOf fl 8 4, loopWin := lw
                    dests := (List.range n).map (fun i => (bitsOf (d i) 0 12, bitsOf (d i) 12 10)) })

/-- The record of an entry (R265, R287). -/
def TxMap.bytes (m : TxMap) : List Byte :=
  leBytes 8 m.w ++ leBytes 1 m.z ++ leBytes 1 m.dests.length ++ leBytes 2 (boolBit m.loop 0 + 2 * m.op + 2 ^ 8 * m.cls) ++
  leBytes 2 m.loopWin ++ leBytes 2 0 ++
  (List.range 16).flatMap (fun i => match m.dests[i]? with
    | some d => leBytes 4 (d.1 + 2 ^ 12 * d.2)
    | none => leBytes 4 0) ++ List.replicate 48 0

/-- The receive window of a record, none for a release, or nothing where the record is invalid (R269).
DEDUCED (log 49). -/
def rxRecord (s : State) (x : Nat) (bs : List Byte) : Option (Option RxWin) :=
  let b := rf bs 0 8
  let z := rf bs 8 1
  let fl := rf bs 9 1
  let r := rf bs 0xA 2
  let bound := decide (bitsOf fl 0 1 = 1)
  let off := (b - spBase) % 0x400000
  let sp := decide (spBase ≤ b) && decide (b < spBase + 128 * 0x400000) &&
    decide (off + 2 ^ z ≤ (63 - s.tasks.cl0Part) * unitBytes)
  let mm := decide (0x10000000000 ≤ b) && decide (b + 2 ^ z ≤ 0x10000000000000)
  if z = 0 then some none
  else if z < 7 ∨ z > 39 ∨ b % 128 ≠ 0 ∨ bitsOf fl 2 6 ≠ 0 ∨ r ≥ 256 ∨ (bound = false ∧ r ≠ 0) ∨ rf bs 0xC 20 ≠ 0 ∨
    (sp || mm) = false ∨ (bound ∧ sp = false) then none
  else some (some { ctx := x, base := BitVec.ofNat 64 b, z := z, bound := bound, groupOnly := decide (bitsOf fl 1 1 = 1)
                    ring := r })

/-- The core and physical range of a scratchpad window. -/
def RxWin.area (w : RxWin) : Option (Nat × Nat × Nat) :=
  if w.base.toNat < 0x10000000000 then
    some ((w.base.toNat - spBase) / 0x400000, (w.base.toNat - spBase) % 0x400000, 2 ^ w.z)
  else none

/-- Two ranges share a 64 KiB unit. -/
def unitsMeet (a la b lb : Nat) : Bool :=
  decide (a / unitBytes * unitBytes < b + lb) && decide (b / unitBytes * unitBytes < a + la)

/-- The units reserved to a scratchpad window are its context's from here on (R112, R269). -/
def reserveUnits (s : State) (w : RxWin) : State :=
  match w.area with
  | some (n, off, len) =>
    { s with unitLast := (List.range 64).foldl (fun m k =>
        if unitsMeet off len (k * unitBytes) 1 then m.set 0 (64 * n + k) (w.ctx + 1) else m) s.unitLast }
  | none => s

/-- A unit of the window is given to an instance of another context or reserved to another context's window (R288). -/
def rxTaken (s : State) (x id : Nat) (w : RxWin) : Bool :=
  match w.area with
  | none => false
  | some (n, off, len) =>
    (s.core n).insts.any (fun i => decide (i.ctx ≠ x) && unitsMeet off len (i.base * unitBytes) (i.units * unitBytes)) ||
    s.fabric.rxwin.entries.any (fun e => decide (e.1 ≠ id) && (match e.2 with
      | some v => decide (v.ctx ≠ x) && !v.off && (match v.area with
        | some (m, o, l) => decide (m = n) && unitsMeet off len o l
        | none => false)
      | none => false))

/-- The slot table entry of a record, where valid (R262). -/
def slotRecord (bs : List Byte) : Option FSlot :=
  let dur := rf bs 0 4
  let g := rf bs 4 4
  let d := rf bs 8 1
  let dev (i : Nat) := rf bs (0x10 + 16 * i) 2
  let bud (i : Nat) := rf bs (0x14 + 16 * i) 4
  let msk (i : Nat) : BitVec 64 := BitVec.ofNat 64 (rf bs (0x18 + 16 * i) 8)
  let ok := decide (1000 ≤ dur) && decide (dur ≤ 1000000) && decide (500 ≤ g) && decide (g + 500 ≤ dur) && decide (d ≤ 16) &&
    decide (rf bs 9 7 = 0) &&
    (List.range 16).all (fun i =>
      if i < d then
        decide (dev i < 4096) && decide (rf bs (0x12 + 16 * i) 2 = 0) && decide (bud i % 128 = 0) &&
        decide (1 ≤ (bitList (msk i)).length) && decide ((bitList (msk i)).length ≤ 16) &&
        (List.range i).all (fun j => decide (dev j ≠ dev i) && decide (msk j &&& msk i = 0))
      else decide (rf bs (0x10 + 16 * i) 16 = 0))
  if ok then some { dur := dur, guard := g, dests := (List.range d).map (fun i => (dev i, bud i, msk i)) } else none

/-! ## F instructions (R282-R291) -/

/-- A result in g and the operands popped: the word completes. -/
def fDone (pops : Nat) (g : BitVec 4) (v : Nat) (s : State) : State := retire ((s.pop pops).putG g (BitVec.ofNat 64 v))

/-- The FSEND and FQSEND operations in flight on core n (R282): lines are to be read yet, or a send of theirs is neither
performed nor failed. F's own stores to transmit space are none of them. -/
def bulkOps (s : State) (n : Nat) : List Nat :=
  ((s.fabric.bulks.filter (fun b => b.core = n ∧ b.lines ≠ 0 ∧ b.st = 0)).map (·.id) ++
   (s.fabric.sends.filter (fun d => decide (d.core = n) && d.bulk && decide (d.st < 2))).map (·.acc)).eraseDups

/-- The source, transmit address and count word of FSEND and FQSEND in the order of R282: lines, transmit offset, source location,
and the map entry that covers the whole range. A queued send's entry is an operand value: it has one destination and no
loop-back (R284). The checks of R149 on the source come before that on the alignment of the transmit address.
DESIGN CHOICE (log 90). -/
def bulkOperands (s : State) (queued : Bool) : State × Except Stop (Nat × Nat × Nat × (Nat × TxMap)) :=
  let src := (s.arg 0).toNat
  let ta := (s.arg 1).toNat
  let t := ta - 0x300000000
  let entry := if 0x300000000 ≤ ta ∧ ta < 0x400000000 then txFind s s.ctxNow t else none
  bindCheck s (do
    needs s 3
    let c ← countWord s (s.arg 2).toNat 128
    badOperand s (decide (c.2 ≠ 0) || (queued && entry.any (fun e => e.2.loop || decide (e.2.dests.length ≠ 1))))
    trapIf (decide (src % 128 ≠ 0)) 5 (s.arg 0)
    ownRead s src c.1
    trapIf (decide (ta % 128 ≠ 0)) 5 (s.arg 1)
    match entry with
    | none => .error (.trap 0x18 (s.arg 1))
    | some e =>
      trapIf (decide (t + c.1 > e.2.w + 2 ^ e.2.z)) 0x18 (BitVec.ofNat 64 (0x300000000 + e.2.w + 2 ^ e.2.z))
      if (bulkOps s s.curCore).length ≥ 16 then .error (.wait .sendPlaces)
      else if slipHeld s (fun c => c = e.2.cls) then .error (.wait .held)
      else .ok (c.1, e)) fun x =>
  (s, .ok (x.1, t, src, x.2))

/-- FSEND (R283). -/
def execFsend (s : State) : Out :=
  concludeIn s (
    andThen (bulkOperands s false) fun s x =>
    andThen (register s (spanFoot s [(x.2.2.1, x.1)] false none)) fun s _ =>
    let m := x.2.2.2.2
    let b : Bulk := { id := s.nextId, core := s.curCore, owner := s.me.owner, ctx := s.ctxNow, cls := m.cls, queued := false
                      idx := x.2.2.2.1, ver := m, src := ownLoc s x.2.2.1, t := x.2.1, lines := x.1 / lineBytes }
    (s, .ok (retire ({ (s.pop 3).withId with fabric := { s.fabric with bulks := s.fabric.bulks ++ [b] } }))))

/-- Entries of a device's send queue. -/
def Fabric.queue (f : Fabric) (d : Nat) : List Bulk :=
  f.bulks.filter (fun b => b.queued ∧ b.dev = d ∧ b.lines ≠ 0 ∧ b.st = 0)

/-- FQSEND (R284). -/
def execFqsend (g : BitVec 4) (s : State) : Out :=
  concludeIn s (
    andThen (bulkOperands s true) fun s x =>
    let m := x.2.2.2.2
    andThen (register s (spanFoot s [(x.2.2.1, x.1)] false none)) fun s _ =>
    let d := (m.dests.headD (0, 0)).1
    if (s.fabric.queue d).length ≥ 64 then (s, .ok (fDone 3 g 1 s))
    else
      let b : Bulk := { id := s.nextId, core := s.curCore, owner := s.me.owner, ctx := s.ctxNow, cls := m.cls, queued := true
                        dev := d, idx := x.2.2.2.1, src := ownLoc s x.2.2.1, t := x.2.1, w := m.w, lines := x.1 / lineBytes }
      (s, .ok (fDone 3 g 0 ({ s.withId with fabric := { s.fabric with bulks := s.fabric.bulks ++ [b] } }))))

/-- node(L, a) of R61 over the contributions that `get` gives. -/
def nodeVal (op : Nat) (get : Nat → Option (List Word)) : Nat → Nat → Option (List Word)
  | 0, a => get a
  | l + 1, a =>
    match nodeVal op get l (2 * a), nodeVal op get l (2 * a + 1) with
    | none, hi => hi
    | lo, none => lo
    | some x, some y => some (List.zipWith (redOp op) x y)

/-- A contribution of n elements at a location: BF16 inputs are widened, and a NaN of the float operations is the canonical one
(R39, R46, R61, R277). -/
def contribution (s : State) (loc n op : Nat) (bf : Bool) : List Word :=
  let es := if bf then 2 else 4
  (List.range n).map (fun i =>
    let v := leNat (loadBytes s ((List.range es).map (fun b => (loc + es * i + b, 0))))
    if bf then encF32 (fval fmtBf16 v)
    else if op = 1 ∨ op = 3 then encF32 (f32 (BitVec.ofNat 32 v))
    else BitVec.ofNat 32 v)

/-- A participant of the reduction has left the group before this device takes part: what has arrived of it is abandoned (R279). -/
def leftBefore (s : State) (win seq : Nat) : State := match s.fabric.red? win seq with
  | some r => if r.part.isNone then abandonRed s r else s
  | none => s

/-- FSACC (R285). -/
def execFsacc (g : BitVec 4) (s : State) : Out :=
  let ra := (s.arg 0).toNat
  let src := (s.arg 1).toNat
  concludeIn s (
    andThen (check s (do needs s 2; trapIf (decide (ra % 64 ≠ 0)) 5 (s.arg 0))) fun s _ =>
    andThen (fRecord s ra 64 64) fun s bs =>
    let win := rf bs 0 2
    let ob := rf bs 2 1
    let op := bitsOf ob 0 3
    let bf := decide (bitsOf ob 3 1 = 1)
    let cls := bitsOf ob 4 4
    let lv := rf bs 3 1
    let a := rf bs 4 2
    let n := rf bs 8 4
    let tab := rf bs 0x10 8
    let seq := rf bs 0x18 8 % 256
    andThen (check s (badOperand s (decide (win > 1023 ∨ op < 1 ∨ op > 4 ∨ (bf ∧ op ≠ 1 ∧ op ≠ 3) ∨ lv > 12 ∨
      a ≥ 2 ^ (12 - lv) ∨ rf bs 6 2 ≠ 0 ∨ n % 32 ≠ 0 ∨ n < 32 ∨ n > 8192 ∨ rf bs 0xC 4 ≠ 0 ∨ tab % 128 ≠ 0 ∨
      tab ≥ 0x400000 ∨ rf bs 0x20 32 ≠ 0)))) fun s _ =>
    andThen (check s (ownRead s tab 8192)) fun s _ =>
    andThen (readNow s tab 8192 128 0) fun s tb =>
    let me := s.fabric.devid.toNat
    let ent (v : Nat) : Nat := rf tb (2 * v) 2
    let present (v : Nat) : Bool := decide (bitsOf (ent v) 15 1 = 1)
    let mineIn (v : Nat) : Bool := decide (v / 2 ^ lv = a)
    let slots := (List.range 4096).filter present
    let es := if bf then 2 else 4
    let own := slots.filter mineIn
    let at_ (v : Nat) : Nat := src + (v - a * 2 ^ lv) * n * es
    andThen (check s (do
      badOperand s ((List.range 4096).any (fun v =>
        if mineIn v then decide (bitsOf (ent v) 12 3 ≠ 0) || (present v && decide (bitsOf (ent v) 0 12 ≠ me))
        else present v && decide (bitsOf (ent v) 0 12 = me)))
      trapIf (decide (src % 4 ≠ 0)) 5 (s.arg 1)
      own.forM (fun v => ownRead s (at_ v) (n * es)))) fun s _ =>
    andThen (match own.find? (fun v => (poisonedAt s (ownLoc s (at_ v)) (n * es)).isSome) with
      | some v => poisonCheck s (at_ v) (ownLoc s (at_ v)) (n * es)
      | none => (s, .ok ())) fun s _ =>
    andThen (behindParked s false (fun c => c = cls)) fun s _ =>
    if classBusy s cls then (s, .error (.wait .other))
    else
    andThen (register s (spanFoot s ((ra, 64) :: (tab, 8192) :: own.map (fun v => (at_ v, n * es))) false none)) fun s _ =>
    if slots.any (fun v => !s.fabric.member (bitsOf (ent v) 0 12)) then (s, .ok (fDone 2 g 1 (leftBefore s win seq)))
    else
      let old := s.fabric.red? win seq
      if old.isNone ∧ s.fabric.reds.length ≥ 8 then (s, .ok (fDone 2 g 2 s))
      else
        match nodeVal op (fun v => if present v then some (contribution s (ownLoc s (at_ v)) n op bf) else none) lv a with
        | none => (s, .ok (fDone 2 g 0 s))
        | some v =>
          let p : Part :=
            { core := s.curCore, owner := s.me.owner, acc := s.nextId, ctx := s.ctxNow, cls := cls, op := op, level := lv
              pos := a, v := v, owners := ⟨slots.map (fun v => (v, bitsOf (ent v) 0 12 + 1))⟩
              bad := s.fabric.refusedWith win seq, badDev := if s.fabric.refusedWith win seq = 0 then 0 else me }
          let r : Red := { (old.getD { win := win, seq := seq }) with part := some p }
          let f := s.fabric.putRed r
          let s1 : State := { s.withId with fabric := { f with
            gone := f.gone.filter (fun e => e ≠ (win, seq)), refused := f.refused.filter (fun e => (e.1, e.2.1) ≠ (win, seq)) } }
          (s, .ok (fDone 2 g 0 (climb s1 r 13))))

/-- WMAPW (R286). -/
def execWmapw (g : BitVec 4) (s : State) : Out :=
  let a := (s.arg 0).toNat
  let k := (s.arg 1).toNat
  concludeIn s (
    andThen (check s (do needs s 2; badOperand s (decide (k > 1023)))) fun s _ =>
    andThen (fRecord s a 128 128) fun s bs =>
    match txRecord s.ctxNow bs with
    | none => (s, .error (.trap 1 s.wordVal))
    | some e =>
      andThen (register s (readFoot s a 128)) fun s _ =>
      let old := s.fabric.txmap.get none k
      let clash := match e with
        | none => false
        | some m => s.fabric.txmap.entries.any (fun x => decide (x.1 ≠ k) && (match x.2 with
          | some y => decide (y.ctx = m.ctx) && decide (y.w < m.w + 2 ^ m.z) && decide (m.w < y.w + 2 ^ y.z)
          | none => false))
      if clash then (s, .ok (fDone 2 g 1 s))
      else if old.any (fun o => o.ctx ≠ s.ctxNow) then (s, .ok (fDone 2 g 2 s))
      else (s, .ok (fDone 2 g 0 { s with fabric := { s.fabric with txmap := s.fabric.txmap.set none k e } })))

/-- WMAPR (R287): it writes 128 bytes of own scratchpad. An entry index above 1,023 traps 0x0001. DESIGN CHOICE (log 90). -/
def execWmapr (g : BitVec 4) (s : State) : Out :=
  let a := (s.arg 0).toNat
  let k := (s.arg 1).toNat
  concludeIn s (
    andThen (check s (do
      needs s 2
      badOperand s (decide (k > 1023))
      trapIf (decide (a % 128 ≠ 0)) 5 (s.arg 0)
      inOwn s a 128)) fun s _ =>
    andThen (behindParked s false (fun c => c = 0)) fun s _ =>
    andThen (register s (ownFoot s a (ownLoc s a) 128 true)) fun s _ =>
    let e := (s.fabric.txmap.get none k).filter (fun m => m.ctx = s.ctxNow)
    let bs := match e with
      | some m => m.bytes
      | none => List.replicate 128 0
    let s1 := issueStore (depositClock s (ownLoc s a) 128) 0 0 (locate (ownLoc s a) bs)
    (s, .ok (fDone 2 g (if e.isSome then 1 else 0) s1)))

/-- RXWW (R288). A group-only window that a recomputation has made invalid still belongs to the context that wrote it.
DESIGN CHOICE (log 90). -/
def execRxww (g : BitVec 4) (s : State) : Out :=
  let a := (s.arg 0).toNat
  let k := (s.arg 1).toNat
  concludeIn s (
    andThen (check s (do needs s 2; badOperand s (decide (k > 1023)))) fun s _ =>
    andThen (fRecord s a 32 32) fun s bs =>
    match rxRecord s s.ctxNow bs with
    | none => (s, .error (.trap 1 s.wordVal))
    | some e =>
      andThen (register s (readFoot s a 32)) fun s _ =>
      if (s.fabric.rxwin.get none k).any (fun o => o.ctx ≠ s.ctxNow) then (s, .ok (fDone 2 g 1 s))
      else if e.any (rxTaken s s.ctxNow k) then (s, .ok (fDone 2 g 2 s))
      else
        let s1 := { s with fabric := { s.fabric with rxwin := s.fabric.rxwin.set none k e } }
        (s, .ok (fDone 2 g 0 (match e with
          | some w => reserveUnits s1 w
          | none => s1))))

/-- The permission of FSLOTW and FSLOTGO (R289). -/
def slotAllowed (s : State) : Except Stop Unit :=
  let u := s.fabric.slotUsr
  trapIf (!(s.me.priv s.curCore || (u.getLsbD 6 && decide ((u.extractLsb' 0 6).toNat = s.ctxNow)))) 4 s.wordVal

/-- FSLOTW (R289). -/
def execFslotw (s : State) : Out :=
  let a := (s.arg 0).toNat
  let k := (s.arg 1).toNat
  concludeIn s (
    andThen (check s (do needs s 2; slotAllowed s; badOperand s (decide (k > 63)))) fun s _ =>
    andThen (fRecord s a 272 16) fun s bs =>
    match slotRecord bs with
    | none => (s, .error (.trap 1 s.wordVal))
    | some e =>
      andThen (register s (readFoot s a 272)) fun s _ =>
      let f := s.fabric
      let live := f.rot.any (fun r => r.running && decide (k < r.count))
      (s, .ok (retire ({ (s.pop 2) with fabric :=
        if live then { f with fslotNext := f.fslotNext.set none k (some e) }
        else { f with fslot := f.fslot.set {} k e, fslotNext := f.fslotNext.drop k } }))))

/-- FSLOTGO (R290). DEDUCED (log 65). -/
def execFslotgo (s : State) : Out := conclude s (do
  needs s 2
  slotAllowed s
  let t := (s.arg 0).toNat
  let c := (s.arg 1).toNat
  let f := s.fabric
  let running := f.rot.any (·.running)
  badOperand s (decide (c > 64))
  badOperand s (decide (c > 0) && (running || decide (t < s.ftime + 1000) ||
    (List.range c).any (fun i => decide ((f.fslot.get {} i).dur = 0))))
  let rot : Option Rotation :=
    if c = 0 then f.rot.map (fun r => if r.running then { r with stopping := true } else r)
    else some { start := t, count := c }
  .ok (retire { s.pop 2 with fabric := { f with rot := rot } }))

/-- FSLOTST (R291). DEDUCED (log 50). -/
def execFslotst (g : BitVec 4) (s : State) : Out :=
  let v := match s.fabric.rot with
    | some r => if r.running then r.cur + 2 ^ 6 + boolBit r.inGuard 7 else 0
    | none => 0
  resultG g (BitVec.ofNat 64 (v + 2 ^ 32 * s.fabric.rotsDone.toNat)) s

/-- A device id on the stack: above 4,095 it traps 0x0001 (R291). -/
def deviceOperand (s : State) (pops : Nat) : Except Stop Nat := do
  needs s pops
  badOperand s (decide ((s.arg 0).toNat > 4095))
  .ok (s.arg 0).toNat

/-- FGRP (R291). -/
def execFgrp (g : BitVec 4) (s : State) : Out := conclude s (do
  let d ← deviceOperand s 1
  let f := s.fabric
  let v := boolBit (f.member d) 0 + boolBit (f.isDirect d) 1 + 2 ^ 2 * (f.paths d).length + 2 ^ 8 * (f.forwarder d).getD 0 +
    2 ^ 32 * f.epoch.toNat
  .ok (fDone 1 g v s))

/-- FPATH (R291). -/
def execFpath (g : BitVec 4) (s : State) : Out := conclude s (do
  let d ← deviceOperand s 2
  let f := s.fabric
  let v := match (if f.member d then (f.paths d)[(s.arg 1).toNat]? else none) with
    | some b =>
      let x := f.fibres.get {} b
      b + boolBit x.up 6 + boolBit x.paused 7 + 2 ^ 32 * x.nretrain
    | none => 0
  .ok (fDone 2 g v s))

/-- FQST (R291). -/
def execFqst (g : BitVec 4) (s : State) : Out := conclude s (do
  let d ← deviceOperand s 1
  let q := s.fabric.queue d
  .ok (fDone 1 g (q.length + 2 ^ 16 * ((q.map (·.lines)).foldl (· + ·) 0 % 2 ^ 32)) s))

/-! ## The reflection fence (R273-R275) -/

/-- A failed parked entry of the executing sequencer in a class of the mask is delivered at the fence (R161). -/
def fenceFault (s : State) (mask : BitVec 16) : State × Except Stop Unit :=
  let c := s.me
  match c.replay.find? (fun p => p.failed && decide (p.owner = c.owner) && decide (p.eng = s.curEng.tag) && mask.getLsbD p.cls) with
  | some p => (deliverFailed s s.curCore s.curEng p, .error (.trap p.cause p.va))
  | none => (s, .ok ())

/-- RFENCE: the sequencer stalls at the word until the fence completes. DEDUCED (log 48). -/
def execRfence (_r : BitVec 5) (_p : BitVec 3) (m : BitVec 16) (s : State) : Out :=
  concludeIn s (
    andThen (check s (commonReady s)) fun s _ =>
    andThen (fenceFault s m) fun s _ => (s, .error (.wait .rfence)))

/-- The RFENCE that every sequencer of core n stands at and may execute, which is one word (R65): its status register and mask. A
checkpoint that has fixed its cut before the word keeps it from completing (R130). -/
def fenceAt (s : State) (n : Nat) : Option (BitVec 5 × BitVec 16) :=
  let c := s.core n
  if (team n).all (fun e => canIssue s n e && match (c.seqs.get {} e.tag).wait with
      | some w => decide (w.kind = .rfence) && decide ((c.seqs.get {} e.tag).pc = (c.seqs.get {} 0).pc)
      | none => false) then
    match decode (wordAt s n (c.seqs.get {} 0).pc) with
    | .ok (.rfence r _ m) => some (r, m)
    | _ => none
  else none

/-- A member of W is still to be performed, or a parked entry of the mask remains (R273). -/
def fenceOpen (s : State) (n : Nat) (m : BitVec 16) : Bool :=
  let c := s.core n
  let f := s.fabric
  f.sends.any (fun d => decide (d.core = n) && decide (d.owner = c.owner) && m.getLsbD d.cls && decide (d.st < 2)) ||
  f.bulks.any (fun b => decide (b.core = n) && decide (b.owner = c.owner) && m.getLsbD b.cls && decide (b.lines ≠ 0) &&
    decide (b.st = 0)) ||
  f.reds.any (fun r => r.part.any (fun p => decide (p.core = n) && decide (p.owner = c.owner) && m.getLsbD p.cls &&
    decide (p.bad = 0))) ||
  c.copies.any (fun o => decide (o.owner = c.owner) && o.units.any (fun u => match u with
    | .tx _ x _ _ => m.getLsbD x.cls
    | _ => false)) ||
  c.queued (m.getLsbD ·)

/-- The failed members of W: access number, status, device, window. A queue entry's map entry names them (R274). Of a queue entry, which
R273 names as one send, each line that failed counts, and what it had left to drain once more. DESIGN CHOICE (log 90). -/
def fenceFailures (s : State) (n : Nat) (m : BitVec 16) : List (Nat × Nat × Nat × Nat) :=
  let c := s.core n
  let f := s.fabric
  (f.sends.filter (fun d => d.core = n ∧ d.owner = c.owner ∧ m.getLsbD d.cls ∧ d.st = 3)).map (fun d =>
    (d.acc, d.status, d.dev, d.win)) ++
  f.reds.filterMap (fun r => (r.part.filter (fun p => p.core = n ∧ p.owner = c.owner ∧ m.getLsbD p.cls ∧ p.bad ≠ 0 ∧
    p.told = false)).map (fun p => (p.acc, p.bad, p.badDev, r.win))) ++
  (f.bulks.filter (fun b => b.core = n ∧ b.owner = c.owner ∧ m.getLsbD b.cls ∧ b.st = 3)).map (fun b =>
    (b.id, 6, b.dev, Config.freeNat s.nonce 7 % 1024))

/-- The member issued earliest; of copies and lines of one issue that failed, the first in the list of sends.
DESIGN CHOICE (log 90). -/
def firstIssued (l : List (Nat × Nat × Nat × Nat)) : Option (Nat × Nat × Nat × Nat) :=
  l.foldl (fun a x => match a with
    | none => some x
    | some y => if x.1 < y.1 then some x else a) none

/-- RFENCE_COMPLETE (R273-R275): W is performed or failed. Every sequencer completes and counts the word, S gets the status,
and what the fence covered is forgotten. DEDUCED (log 48). -/
def execRfenceComplete (n : Nat) (s : State) : Out :=
  match fenceAt s n with
  | none => .next s
  | some (r, m) =>
    if fenceOpen s n m then .next s
    else
      let bad := fenceFailures s n m
      let own := (s.core n).owner
      let st := match firstIssued bad with
        | some x => x.2.1
        | none => 0
      let rf := match firstIssued bad with
        | some x => x.2.1 + 2 ^ 16 * x.2.2.1 + 2 ^ 32 * x.2.2.2 + 2 ^ 48 * min bad.length 0xFFFF
        | none => 0
      let s := { s with fabric := { s.fabric with
        sends := s.fabric.sends.filter (fun d => !(decide (d.core = n) && decide (d.owner = own) && m.getLsbD d.cls))
        bulks := s.fabric.bulks.filter (fun b => !(decide (b.core = n) && decide (b.owner = own) && m.getLsbD b.cls))
        reds := s.fabric.reds.map (fun r => { r with part := r.part.map (fun p =>
          if p.core = n ∧ p.owner = own ∧ m.getLsbD p.cls then { p with told := true } else p) }) } }
      let s := (team n).foldl (fun s e => let t := s.as n e; retire (countCommon t)) s
      let c := s.core n
      .next (s.setCore n { c.setS r.toNat (BitVec.ofNat 64 st) with rfstat := BitVec.ofNat 64 rf })

/-! ## Packets (R256, R263, R264, R276) -/

/-- A packet that cannot be passed on is dropped, and its sender is told why, unless it is an acknowledgement.
DESIGN CHOICE (log 90). -/
def dropForward (s : State) (d : Send) (src status : Nat) : State :=
  let t : State := { s with fabric := { s.fabric with sends := s.fabric.sends.filter (fun x => x.id ≠ d.id) } }
  if d.load.isAck then t else queueAck t src status

/-- The outcome of a send of this device is known: performed sends are forgotten, failed ones are kept for the fence, and a
participation notes what its packets met. One that is no longer in flight fails once, by the first packet that was refused (R388). -/
def endOwn (s : State) (d : Send) (status : Nat) : State :=
  let f := s.fabric
  let gone := f.sends.filter (fun x => x.id ≠ d.id)
  let redEnd (seq : Nat) : State :=
    let s1 : State := { s with fabric := { f with sends := gone } }
    if status = 0 then settleRed s1 d.win seq
    else if (f.red? d.win seq).any (fun r => r.part.any (fun p => p.acc = d.acc)) then
      settleRed (noteRed s1 d.win seq status d.dev) d.win seq
    else if gone.any (fun x => x.acc = d.acc ∧ x.st = 3) then s1
    else { s with fabric := { f with sends := f.sends.map (fun x =>
      if x.id = d.id then { x with st := 3, status := status } else x) } }
  match d.load with
  | .partial_ seq _ _ _ _ => redEnd seq
  | .result seq _ _ => redEnd seq
  | .ack _ => { s with fabric := { f with sends := gone } }
  | .line _ _ _ _ =>
    if status = 0 then { s with fabric := { f with sends := gone } }
    else { s with fabric := { f with sends := f.sends.map (fun x => if x.id = d.id then { x with st := 3, status := status } else x) } }

/-- The outcome of a packet is known. -/
def endSend (s : State) (d : Send) (status : Nat) : State := match d.fwd with
  | some x => dropForward s d x.1 status
  | none => endOwn s d status

/-- The local path delivers a send to this device's own window (R268); an answer of none is a wait. -/
def deliverLocal (s : State) (d : Send) : Option (State × Nat) :=
  let me := s.fabric.devid.toNat
  match d.load with
  | .line o op en bs => if arrivalHeld s d.win o then none else some (arrive s d.win o op d.poison en bs me)
  | .partial_ seq lv pos l ws => arrivePartial s d.win seq lv pos l ws me
  | .result seq l ws => if arrivalHeld s d.win (lineBytes * l) then none else some (arriveResult s d.win seq l ws me)
  | .ack _ => some (s, 0)

/-- Send x comes before send d in sender order, as far as what issued them decides it (R264): the one issued earlier, and of the lines
and copies of one issue the one handed over earlier. A line of FSEND or of a copy goes by its operation, whenever it is read.
DEDUCED (log 45). -/
def Send.before (x d : Send) : Bool := decide (x.acc < d.acc) || (decide (x.acc = d.acc) && decide (x.id < d.id))

/-- What leaves before a send (R167, R264): an older send for the same device on the same path, an older send of its sequencer and
class on whatever path, and what the sequencer has issued in the class before it. All of them go by the number of the issue, so that
no two wait for one another. An acknowledgement keeps to its path alone, and a
packet that is passed on to that and to the path that it came on, to the same device (R259). DEDUCED (log 45). -/
def sendBlocked (s : State) (d : Send) : Bool :=
  let f := s.fabric
  f.sends.any (fun x => x.before d && decide (x.st = 0) && decide (x.dev = d.dev) && (d.loopb ||
    decide (f.pathFor x.dev x.load.offset = f.pathFor d.dev d.load.offset))) ||
  d.fwd.any (fun y => f.sends.any (fun x => decide (x.id < d.id) && decide (x.st = 0) && decide (x.dev = d.dev) &&
    x.fwd.any (fun z => decide (z.2 = y.2)))) ||
  (!d.load.isAck && d.fwd.isNone && (
    (!d.loopb && f.sends.any (fun x => decide (x.core = d.core) && decide (x.eng = d.eng) && decide (x.owner = d.owner) &&
      decide (x.cls = d.cls) && decide (x.st = 0) && !x.loopb && decide (x.acc < d.acc))) ||
    s.accs.any (fun a => decide (a.n = d.core) && decide (a.eng = d.eng) && decide (a.owner = d.owner) && decide (a.cls = d.cls) &&
      decide (a.no < d.acc)) ||
    backgroundHeld s d.core d.owner (Eng.ofTag d.eng) d.cls d.acc))

/-- The window offset of a queue entry's next line, which chooses its path (R263): under the version that its map entry has now where
that covers the line, else under the last one that the queue entry knew. DEDUCED (log 45). -/
def Fabric.nextOffset (f : Fabric) (b : Bulk) : Nat :=
  match (f.txmap.get none b.idx).filter (fun m => m.ctx = b.ctx ∧ m.w ≤ b.t ∧ b.t < m.w + 2 ^ m.z) with
  | some m => b.t - m.w
  | none => b.t - b.w

/-- It is a time at which queue entry b drains (R276): the links are up, the path of its next line does not wait, and in slot mode the
running slot connects the device, is before its guard interval and has budget for the line. To a device without a path nothing waits
in phase mode. -/
def Fabric.drains (f : Fabric) (t : Nat) (b : Bulk) : Bool :=
  !f.quiesce && !f.retraining &&
  (decide (b.dev = f.devid.toNat) || (!f.slotMode && (f.paths b.dev).isEmpty) ||
    (f.pathFor b.dev (f.nextOffset b)).any f.decided && f.budgetLeft t b.dev lineBytes)

/-- The part of a queue entry that drains next (R276): under the version current now, or the failure of what is left, once it is a
time at which the queue drains. -/
def drainQueue (s : State) (b : Bulk) : State :=
  let f := s.fabric
  let put (x : Bulk) : Fabric := { f with bulks := f.bulks.map (fun y => if y.id = b.id then x else y) }
  let version := (f.txmap.get none b.idx).filter (fun m =>
    m.ctx = b.ctx ∧ m.loop = false ∧ m.dests.map (·.1) = [b.dev] ∧ m.w ≤ b.t ∧ b.t + lineBytes * b.lines ≤ m.w + 2 ^ m.z)
  match version with
  | none => if f.drains s.ftime b then { s with fabric := put { b with st := 3 } } else s
  | some m =>
    let o := b.t - m.w
    let poison := poisonSeen s b.core b.owner .f (b.src / lineBytes)
    let next : Bulk := { b with src := b.src + lineBytes, t := b.t + lineBytes, w := m.w, lines := if poison then 0 else b.lines - 1 }
    let d : Send :=
      { id := s.nextId, acc := b.id, core := b.core, eng := 4, owner := b.owner, ctx := b.ctx, cls := m.cls, dev := b.dev
        win := (m.dests.headD (0, 0)).2, loopb := decide (b.dev = f.devid.toNat), poison := poison, bulk := true
        load := .line o m.op (List.range lineBytes) ((List.range lineBytes).map (fun i => loadByte s b.core .f 0 (b.src + i)))
        st := 1 }
    let done (f : Fabric) : Fabric := { f with bulks := f.bulks.filter (fun x => x.lines ≠ 0 ∨ x.st = 3) }
    if d.loopb then
      match deliverLocal s d with
      | none => s
      | some r =>
        let t := r.1.withId
        let t : State := { t with fabric := done { t.fabric with
          bulks := (put next).bulks
          sends := t.fabric.sends ++ (if r.2 = 0 then [] else [{ d with st := 3, status := r.2 }]) } }
        t
    else
      match leave s b.dev o lineBytes with
      | .waits => s
      | .fails st =>
        { s.withId with fabric := done { put next with sends := f.sends ++ [{ d with st := 3, status := st }] } }
      | .goes fb =>
        let s1 := sealCount { s.withId with fabric := done { put next with sends := f.sends ++ [{ d with fibre := fb }] } } b.dev
        { s1 with fabric := s1.fabric.charge b.dev }

/-- A line of a copy into transmit space for device d is still to be handed to the fabric: queue entries come after it (R276). -/
def copyFor (s : State) (d : Nat) : Bool :=
  s.cores.entries.any (fun e => e.2.copies.any (fun o => o.units.any (fun u => match u with
    | .tx _ m _ _ => (m.targets s.fabric.devid.toNat).any (fun y => y.1 = d)
    | _ => false)))

/-- PACKET_LAUNCH: a waiting send, or the next part of a queue entry, leaves the device or fails. DEDUCED (log 45). -/
def execPacketLaunch (id : Nat) (s : State) : Out :=
  match s.fabric.sends.find? (fun d => d.id = id ∧ d.st = 0) with
  | some d =>
    if sendBlocked s d then .next s
    else if d.loopb then
      match deliverLocal s d with
      | none => .next s
      | some r => .next (endSend r.1 d r.2)
    else
      match (if d.fwd.isSome then passOn s d.dev d.load.offset
        else leave s d.dev d.load.offset (if d.load.isAck then 0 else lineBytes)) with
      | .waits => .next s
      | .fails st => .next (endSend s d st)
      | .goes fb =>
        let s1 : State := { s with fabric := { s.fabric with sends := s.fabric.sends.map (fun x =>
          if x.id = id then { x with st := 1, fibre := fb } else x) } }
        if d.fwd.isSome then .next s1
        else
          let s2 := sealCount s1 d.dev
          .next (if d.load.isAck then s2 else { s2 with fabric := s2.fabric.charge d.dev })
  | none =>
    match s.fabric.bulks.find? (fun b => b.id = id ∧ b.queued ∧ b.lines ≠ 0 ∧ b.st = 0) with
    | none => .next s
    | some b =>
      if ((s.fabric.queue b.dev).head?.map (·.id)) ≠ some id ∨ s.fabric.sends.any (fun d => d.dev = b.dev ∧ d.st = 0) ∨
        s.fabric.bulks.any (fun x => x.queued = false ∧ x.lines ≠ 0 ∧ x.st = 0 ∧ x.ver.dests.any (fun y => y.1 = b.dev)) ∨
        copyFor s b.dev then
        .next s
      else .next (drainQueue s b)

/-- A line of FSEND is read and handed to the fabric (R283): a poisoned line is sent poisoned, and ends the operation. -/
def stepBulk (s : State) (b : Bulk) : State :=
  let poison := poisonSeen s b.core b.owner .f (b.src / lineBytes)
  let bs := (List.range lineBytes).map (fun i => loadByte s b.core .f 0 (b.src + i))
  let s1 := sendLine s b.core 4 b.owner b.ver b.id b.t (List.range lineBytes) bs poison
  let left := if poison then 0 else b.lines - 1
  { s1 with fabric := { s1.fabric with
      sends := s1.fabric.sends.map (fun d => if d.acc = b.id then { d with bulk := true } else d)
      bulks := s1.fabric.bulks.filterMap (fun x =>
        if x.id = b.id then (if left = 0 then none else some { x with src := b.src + lineBytes, t := b.t + lineBytes, lines := left })
        else some x) } }

/-- Sealing admits the packet (R258). -/
def sealOk (s : State) (isSealed authOk : Bool) (src : Nat) : Bool :=
  if s.fabric.seal_ then isSealed && authOk && (sealSlot s src).isSome else !isSealed

/-- A packet of fibre b has got through: the acknowledgements that went before it, and what was passed on, are forgotten, and its
receiver hears. -/
def heard (s : State) (b id : Nat) : State :=
  let f := s.fabric
  let x := f.fibres.get {} b
  { s with fabric := { f with
      fibres := if x.deafAt = none then f.fibres else f.fibres.set {} b { x with deafAt := none }
      sends := f.sends.filter (fun d => !((d.load.isAck || d.fwd.isSome) && decide (d.st = 1) && decide (d.fibre = b) && decide (d.id < id))) } }

/-- A packet from another device is discarded as one whose CRC fails while its receive fibre is paused or not trained
(R294). -/
def rxDeaf (s : State) (b : Nat) : Bool :=
  let x := s.fabric.fibres.get {} b
  x.paused || !x.up

/-- ACKNOWLEDGEMENT_ARRIVAL (R256): a launched send's status comes back, unless its receive fibre is paused (R294) or sealing refuses
the packet that carries it (R258). One for another device is passed on (R259). DEDUCED (log 80). -/
def execAcknowledgementArrival (id : Nat) (k : AckArrival) (s : State) : Out :=
  if rxDeaf s k.fibre then .next s
  else if k.dest ≠ s.fabric.devid.toNat then .next (queueForward s 0 k.fibre k.dest 0 false (.ack k.status))
  else
  match s.fabric.sends.find? (fun d => d.id = id ∧ d.st = 1 ∧ d.load.isAck = false ∧ d.fwd = none) with
  | some d => if sealOk s k.isSealed k.authOk d.dev then .next (heard (endSend s d k.status) d.fibre id) else .next (refuse s)
  | none => .next s

/-- Every packet launched on a fibre fails with status 2 (R256, R294). -/
def failFibre (s : State) (b : Nat) : State :=
  let f := s.fabric
  let x := f.fibres.get {} b
  let s1 : State := { s with fabric := { f with fibres := f.fibres.set {} b { x with failed := true, up := false } } }
  (s.fabric.sends.filter (fun d => d.st = 1 ∧ d.fibre = b ∧ d.loopb = false)).foldl (fun s d => endSend s d 2) s1

/-- The device that the circuit on fibre b joins, or the running slot's destination on it; of a receive fibre the spec names none.
DESIGN CHOICE (log 93). -/
def Fabric.peerOf (f : Fabric) (nonce b : Nat) : Nat :=
  let on := if f.slotMode then (f.nowEntry.dests.filter (fun x => (bitList x.2.2).contains b)).map (·.1)
    else (f.circuits.filter (fun c => c.2.1.contains b)).map (·.1)
  on.headD (Config.freeNat nonce 9 % 2 ^ 12)

/-- The error record of a failed path (R356): the peer and window of a send on it, where there is one, else the device at the other
end, and of which window the spec does not say. DESIGN CHOICE (log 93). -/
def logPath (s : State) (b : Nat) : State :=
  let v := match s.fabric.sends.find? (fun d => d.st = 1 ∧ d.fibre = b) with
    | some d => d.dev + 2 ^ 16 * d.win
    | none => s.fabric.peerOf s.nonce b + 2 ^ 16 * (Config.freeNat s.nonce 10 % 2 ^ 10)
  logError s 6 0xFF 0 b 0 (BitVec.ofNat 64 v)

/-- PACKET_RESEND (R256): a packet whose code failed and all later ones of its fibre go again; after 15 failed resends of one
packet the path has failed. `uncounted` says that the receive fibre at the other end was paused: such resends do not count, and
where they go on for more than 10 ms the path has failed (R294). -/
def execPacketResend (g : Resend) (s : State) : Out :=
  match s.fabric.sends.find? (fun d => d.id = g.send ∧ d.st = 1 ∧ d.loopb = false) with
  | none => .next s
  | some d =>
    let f := s.fabric
    let x := f.fibres.get {} d.fibre
    let again (y : Fibre) (k : Nat) : State := { s with fabric := { f with
      nretry := satInc 16 f.nretry
      fibres := if y = x then f.fibres else f.fibres.set {} d.fibre y
      sends := f.sends.map (fun z => if z.id = d.id then { z with resends := z.resends + k } else z) } }
    if g.uncounted then
      match x.deafAt with
      | none => .next (again { x with deafAt := some s.ftime } 0)
      | some t => .next (if t + 10000000 < s.ftime then failFibre (logPath s d.fibre) d.fibre else again x 0)
    else .next (if d.resends ≥ 15 then failFibre (logPath s d.fibre) d.fibre else again { x with deafAt := none } 1)

/-- A packet from device `src` has been dealt with, and its status goes back. DEDUCED (log 80). -/
def answered (src : Nat) (r : State × Nat) : State := queueAck r.1 src r.2

/-- LINE_ARRIVAL (R270-R272). A line for another device is passed on (R259). DESIGN CHOICE (log 72). -/
def execLineArrival (p : Arrival) (s : State) : Out :=
  if rxDeaf s p.fibre then .next s
  else if p.dest ≠ s.fabric.devid.toNat then
    .next (queueForward s p.src p.fibre p.dest p.win p.poison (.line (lineBytes * p.line) p.op (p.enables.getD (List.range lineBytes)) p.bytes))
  else if !sealOk s p.isSealed p.authOk p.src then .next (answered p.src (refuse s, 4))
  else if arrivalHeld s p.win (lineBytes * p.line) then .next s
  else .next (answered p.src
    (arrive s p.win (lineBytes * p.line) p.op p.poison (p.enables.getD (List.range lineBytes)) p.bytes p.src))

/-- REDUCTION_PARTIAL_ARRIVAL (R278). A partial for another device is passed on (R259). -/
def execReductionPartialArrival (p : RedArrival) (s : State) : Out :=
  if rxDeaf s p.fibre then .next s
  else if p.dest ≠ s.fabric.devid.toNat then
    .next (queueForward s p.src p.fibre p.dest p.win false (.partial_ p.seq8 p.level p.pos p.line p.ws))
  else if !sealOk s p.isSealed p.authOk p.src then .next (answered p.src (refuseRed s p.win p.seq8 4, 4))
  else match arrivePartial s p.win p.seq8 p.level p.pos p.line p.ws p.src with
    | some r => .next (answered p.src r)
    | none => .next s

/-- REDUCTION_RESULT_ARRIVAL (R278). A result for another device is passed on (R259). -/
def execReductionResultArrival (p : RedArrival) (s : State) : Out :=
  if rxDeaf s p.fibre then .next s
  else if p.dest ≠ s.fabric.devid.toNat then
    .next (queueForward s p.src p.fibre p.dest p.win false (.result p.seq8 p.line p.ws))
  else if !sealOk s p.isSealed p.authOk p.src then .next (answered p.src (refuseRed s p.win p.seq8 4, 4))
  else if arrivalHeld s p.win (lineBytes * p.line) then .next s
  else .next (answered p.src (arriveResult s p.win p.seq8 p.line p.ws p.src))

/-- RESERVED_PACKET (R256): discarded and counted. -/
def execReservedPacket (p : ReservedArrival) (s : State) : Out :=
  if rxDeaf s p.fibre then .next s
  else .next { s with fabric := { s.fabric with ndrop := satInc 16 s.fabric.ndrop } }

/-- PACKET_CRC_FAILURE (R256): the packet is discarded; its sender sends it again. -/
def execPacketCrcFailure (_f : Nat) (s : State) : Out := .next s

/-! ## Slots and reconfiguration (R260, R262, R290) -/

/-- The version of entry k in force when its slot begins. -/
def Fabric.takeVersion (f : Fabric) (k : Nat) : Fabric :=
  match f.fslotNext.get none k with
  | some e => { f with fslot := f.fslot.set {} k e, fslotNext := f.fslotNext.drop k }
  | none => f

/-- ROTATION_START: at T the device enters slot mode. DEDUCED (log 65). -/
def execRotationStart (s : State) : Out :=
  match s.fabric.rot with
  | none => .next s
  | some r =>
    if r.running ∨ s.ftime < r.start then .next s
    else
      let f := s.fabric.takeVersion 0
      .next (recompute { s with fabric := { f with
        slotMode := true, rot := some { r with running := true, cur := 0, curStart := r.start } } })

/-- SLOT_START: the running slot's duration has passed; after the last slot of a stopped rotation, the rotation ends and the
device is alone in its group. Versions that no slot has begun with stand for the next rotation (R289). A version that no longer
names a device may take it out of the group: the reductions in which it takes part are abandoned (R262, R279), and no epoch begins.
DEDUCED (log 47). -/
def execSlotStart (s : State) : Out :=
  match s.fabric.rot with
  | none => .next s
  | some r =>
    let e := s.fabric.nowEntry
    if !r.running ∨ s.ftime < r.curStart + e.dur then .next s
    else
      let last := decide (r.cur + 1 ≥ r.count)
      let rots := if last then s.fabric.rotsDone + 1 else s.fabric.rotsDone
      if last ∧ r.stopping then
        let f := s.fabric.fslotNext.keys.foldl Fabric.takeVersion s.fabric
        .next (recompute { s with fabric := { f with slotMode := false, circuits := [], rot := none, rotsDone := rots } })
      else
        let k := if last then 0 else r.cur + 1
        .next (abandonLeft { s with fabric := { s.fabric.takeVersion k with rotsDone := rots, rot := some { r with
          cur := k, curStart := r.curStart + e.dur, inGuard := false, budget := [] } } })

/-- GUARD_INTERVAL_START: the last guard nanoseconds of the slot begin. -/
def execGuardIntervalStart (s : State) : Out :=
  match s.fabric.rot with
  | none => .next s
  | some r =>
    let e := s.fabric.nowEntry
    if !r.running ∨ r.inGuard ∨ s.ftime < r.curStart + (e.dur - e.guard) then .next s
    else .next { s with fabric := { s.fabric with rot := some { r with inGuard := true } } }

/-- QUIESCE_SET (R260). -/
def execQuiesceSet (s : State) : Out := .next { s with fabric := { s.fabric with quiesce := true } }

/-- QUIESCE_CLEAR (R260): the links start to retrain. DEDUCED (log 46). -/
def execQuiesceClear (s : State) : Out :=
  let f := s.fabric
  .next { s with fabric := { f with quiesce := false, retraining := f.retraining || f.quiesce } }

/-- Firmware declares the device ready once the first group has been computed (R353). DESIGN CHOICE (log 61). -/
def noteReady (s : State) : State :=
  if s.plinth.powered ∧ s.plinth.stage.toNat < 0xE then { s with plinth := { s.plinth with stage := 0xF } } else s

/-- LINK_RETRAIN_COMPLETE: after a reconfiguration the fibres that carry circuits, and the receive fibres, are trained, and the
group is recomputed (R260); else the fibres that retrain by themselves after a pause are trained (R294). DEDUCED (log 46). A fibre that only a slot's mask
names is not trained, so that sends on it wait. DESIGN CHOICE (log 90). -/
def execLinkRetrainComplete (cs : List (Nat × List Nat × List Nat)) (s : State) : Out :=
  let f := s.fabric
  if f.quiesce then .next s
  else if f.retraining = false then
    .next { s with fabric := { f with fibres := ⟨f.fibres.entries.map (fun e => (e.1,
      if e.2.retrain ∧ e.2.paused = false then
        { e.2 with up := true, failed := false, retrain := false, nretrain := satInc 16 e.2.nretrain }
      else e.2))⟩ } }
  else
    let carries (b : Nat) : Bool := decide (64 ≤ b) || cs.any (fun c => c.2.1.contains b)
    let fibres := (List.range 128).foldl (fun m b =>
      let x := m.get {} b
      m.set {} b { x with up := carries b, failed := false, retrain := false, deafAt := none, nretrain := if carries b then satInc 16 x.nretrain else x.nretrain })
      f.fibres
    .next (noteReady (recompute { s with fabric := { f with retraining := false, circuits := cs, fibres := fibres } }))

/-! ## Ring heaters and wavelengths (R292-R294) -/

/-- Ring r of fibre f, with its reset assignment until one is written. -/
def Fabric.ring (f : Fabric) (b r : Nat) : OptRing :=
  let x := f.rings.get {} (32 * b + r)
  if x.touched then x else { x with lambda := if r < 16 then BitVec.ofNat 4 r else 0, en := decide (r < 16) }

/-- Each wavelength is assigned to exactly one ring of the fibre with EN = 1. -/
def Fabric.whole (f : Fabric) (b : Nat) : Bool :=
  (List.range 16).all (fun l =>
    decide (((List.range 17).filter (fun r => (f.ring b r).en && decide ((f.ring b r).lambda.toNat = l))).length = 1))

/-- HEAT_WRITE (R293). -/
def execHeatWrite (b r : Nat) (code : BitVec 12) (s : State) : Out :=
  let f := s.fabric
  let x := f.rings.get {} (32 * b + r)
  let f1 := { f with rings := f.rings.set {} (32 * b + r) { x with heat := code } }
  if code = 0 ∨ code = 4095 then
    let y := f1.fibres.get {} b
    let bit : BitVec 64 := 1#64 <<< (b % 64)
    let f2 := { f1 with
      fibres := f1.fibres.set {} b { y with sat := y.sat ||| (1#17 <<< r) }
      optIrq0 := if b < 64 then f1.optIrq0 ||| bit else f1.optIrq0
      optIrq1 := if b < 64 then f1.optIrq1 else f1.optIrq1 ||| bit }
    .next { s with fabric := f2, plinth := { s.plinth with intPend := s.plinth.intPend ||| 4#8 } }
  else .next { s with fabric := f1 }

/-- ASSIGN_WRITE (R294): the fibre pauses while its assignment is not whole. -/
def execAssignWrite (b r : Nat) (l : BitVec 4) (en : Bool) (s : State) : Out :=
  let f := s.fabric
  let x := f.rings.get {} (32 * b + r)
  let f1 := { f with rings := f.rings.set {} (32 * b + r) { x with lambda := l, en := en, touched := true } }
  let y := f1.fibres.get {} b
  let y1 :=
    if f1.whole b then (if y.paused ∧ y.wholeAt.isNone then { y with wholeAt := some s.ftime } else y)
    else { y with paused := true, wholeAt := none, pausedAt := if y.paused then y.pausedAt else s.ftime }
  .next { s with fabric := { f1 with fibres := f1.fibres.set {} b y1 } }

/-- FIBRE_RESUME (R294): 1 µs after the assignment is whole again. A receive fibre hears its packets from then on, however long the
pause was. -/
def execFibreResume (b : Nat) (s : State) : Out :=
  let y := s.fabric.fibres.get {} b
  if y.paused ∧ y.wholeAt.any (fun t => t + 1000 ≤ s.ftime) then
    .next { s with fabric := { s.fabric with
      fibres := s.fabric.fibres.set {} b { y with paused := false, wholeAt := none, failed := y.failed && decide (b < 64) } } }
  else .next s

/-- FIBRE_PAUSE_TIMEOUT (R294): after more than 10 ms the paths of a transmit fibre fail and it retrains. Of a receive fibre, the paths
whose circuits end on it fail where they begin: here they are noted as failed and logged. DESIGN CHOICE (log 90). -/
def execFibrePauseTimeout (b : Nat) (s : State) : Out :=
  let y := s.fabric.fibres.get {} b
  if y.paused ∧ y.failed = false ∧ y.pausedAt + 10000000 < s.ftime then
    let t := logPath s b
    if 64 ≤ b then .next { t with fabric := { t.fabric with fibres := t.fabric.fibres.set {} b { y with failed := true } } }
    else
    let t := failFibre t b
    .next { t with fabric := { t.fabric with fibres := t.fabric.fibres.set {} b { t.fabric.fibres.get {} b with retrain := true } } }
  else .next s

/-- How far ring r of fibre b is from the wavelength in its LAMBDA field, in pm: 1 pm for a heater code and 75 pm for a kelvin of
the temperature, which comes in sixteenths of one, from a place that depends on the part (R293). DESIGN CHOICE (log 81). -/
def Fabric.offTune (f : Fabric) (b r : Nat) (temp : BitVec 16) : Nat :=
  let x := f.ring b r
  ((16 * x.heat.toNat + 75 * temp.toNat : Int) - (Config.partNat (2 * (32 * b + r)) x.lambda.toNat : Int)).natAbs / 16

/-- The reading at a distance: greatest at none, and not rising with the distance (R293). DESIGN CHOICE (log 81). -/
def monReading (ring dist : Nat) : Nat :=
  (List.range dist).foldl (fun a i => a - Config.partNat (2 * ring + 1) (i + 1)) (Config.partNat (2 * ring + 1) 0 % 4096)

/-- What the monitor of a ring reads as it stands, at a temperature. -/
def Fabric.monNow (f : Fabric) (b r : Nat) (temp : BitVec 16) : BitVec 12 :=
  BitVec.ofNat 12 (monReading (32 * b + r) (f.offTune b r temp))

/-- The MON register at time t: the latest update, or, from 1,000 ns after that on, an update of the present at the temperature of OPT_TEMP
(R292, R395). DESIGN CHOICE (log 81). -/
def Fabric.monRead (f : Fabric) (t b r : Nat) : BitVec 12 :=
  let x := f.ring b r
  if x.monAt + 1000 ≤ t then f.monNow b r f.optTemp else x.mon

/-- MON_UPDATE (R292, R293): the monitor samples its ring, at the temperature of that moment, which OPT_TEMP shows up to 10 µs later
(R281). -/
def execMonUpdate (b r : Nat) (temp : BitVec 16) (s : State) : Out :=
  let x := s.fabric.rings.get {} (32 * b + r)
  .next { s with fabric := { s.fabric with
    rings := s.fabric.rings.set {} (32 * b + r) { x with mon := s.fabric.monNow b r temp, monAt := s.ftime } } }

/-- OPT_TEMP_UPDATE (R281). -/
def execOptTempUpdate (t : BitVec 16) (s : State) : Out := .next { s with fabric := { s.fabric with optTemp := t } }

end Sys2Proof.Machine
end

