-- ==== Sys2Proof/Machine/Slices.lean ====
section
/-!
DEFINITION. The slice instructions of S (R296-R328).
-/

namespace Sys2Proof.Machine

/-! ## What they share -/

/-- A slice instruction on the token in sa: the words a handler may not run (R331), the token's zero bits (R299), the
entry's own checks, and then the answer. -/
def sliceOp (tok : W64) (checks : Except Stop Unit) (f : Except Stop (State × W64)) (d : BitVec 5) (s : State) : Out :=
  conclude s (do
    notInHandler s
    trapIf (tokBad tok) 1 tok
    checks
    let r ← f
    .ok (retire (r.1.putS d r.2)))

/-- The release step of R142 for a slice operation (R317). -/
def sliceRelease (s : State) : Except Stop Unit :=
  if released s s.curCore s.curEng then .ok () else .error (.wait .release)

/-- The set that the token names, found by the running context (R296). -/
def State.setOf (s : State) (tok : W64) : Option SliceSet := findSet s s.ctxNow tok

/-- The set, where it is open and not cancelled. -/
def State.openSet (s : State) (tok : W64) : Option SliceSet := (s.setOf tok).filter (fun t => t.state = 1)

/-- A set that is found has the mode that the instruction needs (R319). DEDUCED (log 15). -/
def needsMode (s : State) (tok : W64) (token : Bool) : Except Stop Unit :=
  trapIf ((s.setOf tok).any (fun t => t.token ≠ token)) 1 tok

/-- An answer that changes nothing. -/
def answer (s : State) (v : W64) : Except Stop (State × W64) := .ok (s, v)
def answerStatus (s : State) (code : Nat) : Except Stop (State × W64) := .ok (s, sliceStatus code)

/-- The set written back after generations changed, with the records that this discarded counted (R301, R310). -/
def putBumped (s : State) (k : Nat) (b : SliceSet × Nat) : State := (s.putSet k b.1).sliceInc 0 b.2

/-! ## Opening and closing (R297, R298, R316, R320) -/

/-- The set that a parameter block describes, if valid (R297); its table's location follows from the address. Own scratchpad is what
R146 gives the core, 1 MiB on the service core; a table in it beyond the partition is found out by the combine that reads it (R149,
R298). DEDUCED (log 56). -/
def setOfBlock (s : State) (bs : List Byte) : Option SliceSet :=
  let f (o n : Nat) := leNat ((bs.drop o).take n)
  let mode := bitsOf (f 0 4) 0 8
  let tree := bitsOf (f 0 4) 8 1
  let w := f 4 4
  let parts := f 8 4
  let tol := f 0xC 4
  let tab := f 0x18 8
  let token := decide (mode = 1)
  let inMain := decide (0x10000000000 ≤ tab) && decide (tab < 0x10000000000000)
  let tabOk := token || (decide (tab % 32 = 0) && (inMain || decide (tab < if s.curCore = Config.serviceCore then 0x100000 else 0x400000)))
  if mode ≤ 1 ∧ f 0 4 < 2 ^ 9 ∧ (tree = 0 ∨ token) ∧ 2 ≤ w ∧ w ≤ 64 ∧ 1 ≤ parts ∧ parts ≤ (if token then 1 else 128) ∧
    (if token then tol = 0 else tol < 0x7F800000) ∧ tabOk then
    some { state := 1, token := token, tree := decide (tree = 1), w := w, h := w, parts := parts
           tol := BitVec.ofNat 32 tol, maxSweeps := f 0x10 4, first := f 0x14 4, tabMain := inMain
           tab := if token ∨ inMain then tab else ownLoc s tab, tabVa := tab, tabEnd := ownLoc s (ownBytes s) }
  else none

/-- Slice contexts that no set holds (R296, R318). -/
def freeContexts (s : State) : Nat := 256 - (s.slices.entries.map (fun e => e.2.h - e.2.base)).foldl (· + ·) 0

/-- SSOPEN (R320). DEDUCED (log 56). -/
def execSsopen (d a : BitVec 5) (s : State) : Out :=
  let ba := (s.sval a).toNat
  concludeIn s (
    andThen (check s (do
      notInHandler s
      trapIf (decide (ba % 32 ≠ 0)) 5 (s.sval a)
      spawnSpace ba)) fun s _ =>
    andThen (readNow s ba 32 32 0) fun s bs =>
    match setOfBlock s bs with
    | none => (s, .error (.trap 1 (s.sval a)))
    | some t =>
      andThen (check s (sliceRelease s)) fun s _ =>
      andThen (register s (readFoot s ba 32)) fun s _ =>
      let v := match (List.range 16).find? (fun k => (s.set k).state = 0) with
        | some k =>
          if freeContexts s < t.w then (s, sliceStatus 9)
          else (s.putSet k { t with ctx := s.ctxNow, opener := (s.curCore, s.me.owner), opened := s.nonce }, sliceToken k 0 0)
        | none => (s, sliceStatus 9)
      (s, .ok (retire (v.1.putS d v.2))))

/-- SSCLOSE (R316). -/
def execSsclose (d a : BitVec 5) (s : State) : Out :=
  let tok := s.sval a
  sliceOp tok (.ok ()) (do
    sliceRelease s
    match s.setOf tok with
    | none => answerStatus s 3
    | some t => if t.out ≠ [] then answerStatus s 6 else .ok (closeSet s (tokSet tok), 0)) d s

/-- SCANCEL (R315). -/
def execScancel (d a : BitVec 5) (s : State) : Out :=
  let tok := s.sval a
  sliceOp tok (.ok ()) (do
    sliceRelease s
    match s.setOf tok with
    | none => answerStatus s 3
    | some t =>
      .ok (if t.state = 1 then cancelSet s (tokSet tok) 2 else s, BitVec.ofNat 64 t.out.length)) d s

/-! ## Seeding and fine solves (R302, R303, R321-R323) -/

/-- SSEED (R321). -/
def execSseed (d a b : BitVec 5) (s : State) : Out :=
  let tok := s.sval a
  let v := (s.sval b).toNat
  let n := tokN tok
  let parent := bitsOf v 32 12
  sliceOp tok (do
    trapIf (decide (bitsOf v 44 20 ≠ 0)) 1 tok
    trapIf ((s.setOf tok).any (fun t => decide (if t.token then parent ≠ 0 ∧ !t.tree else v ≠ 0))) 1 tok) (do
    sliceRelease s
    match s.openSet tok with
    | none => answerStatus s 3
    | some t =>
      let c := t.slice n
      if !t.inWindow n then answerStatus s 4
      else if (if t.token then n = 0 ∨ t.onPath n ∨ (t.tree ∧ (n ≤ parent ∨ !t.inWindow parent))
          else t.h ≤ n + 1 ∨ (n < t.p ∧ c.seeded)) then answerStatus s 6
      else
        let c1 := { c with seeded := true }
        let c2 := if t.token then
            { c1 with value := BitVec.ofNat 32 v, parent := if t.tree then parent else 0, verdict := 0 }
          else c1
        let r := (t.putSlice n c2).bump n
        .ok (putBumped s (tokSet tok) r, sliceToken (tokSet tok) n (r.1.slice n).gen)) d s

/-- The words of the text that the executing core runs: the abandon word lies below (R322). -/
def textWords (s : State) : Nat := match s.me.inst with
  | some i => i.lrec.textLen
  | none => 65536

/-- Hands slice n of set k out to the executing instance, bound where deferral is enabled (R302, R308, R322). -/
def handOut (s : State) (k n : Nat) (defer : Bool) (abandon reg : Nat) : State × W64 :=
  let t := s.set k
  let c := t.slice n
  let me := s.me
  let by_ : Nat := match me.inst with
    | some _ => 0
    | none => 65536
  let t1 := t.putSlice n { c with infl := true, ist := false }
  let s1 := s.putSet k { t1 with out := t1.out ++ [(n, c.gen.toNat + by_)] }
  let b : Binding := { set := k, n := n, g := c.gen, reg := reg, abandon := abandon }
  (s1.setMe { me with inst := me.inst.map (fun i =>
      { i with tokens := i.tokens ++ [(k, n, c.gen)], bind := if defer then some b else i.bind }) },
    sliceToken k n c.gen)

/-- SFBEG (R322), in its order of decision. -/
def execSfbeg (d a b : BitVec 5) (s : State) : Out :=
  let tok := s.sval a
  let v := (s.sval b).toNat
  let k := tokSet tok
  sliceOp tok (do
    trapIf (decide (bitsOf v 17 47 ≠ 0)) 1 tok
    badOperand s (decide (bitsOf v 0 16 ≥ textWords s))) (
    match s.openSet tok with
    | none => answerStatus s 3
    | some t =>
      if s.me.inst.any (fun i => i.bind.isSome) then answerStatus s 8
      else if t.done then answerStatus s 2
      else if t.exhausted then answerStatus s 7
      else match t.candidate with
        | none => answerStatus s 1
        | some n => .ok (handOut s k n (decide (bitsOf v 16 1 = 1)) (bitsOf v 0 16) d.toNat)) d s

/-- The token is outstanding and was handed to the executing instance, or to firmware that executes (R323). -/
def holdsToken (s : State) (tok : W64) : Bool := match s.me.inst with
  | some i => i.tokens.contains (tokSet tok, tokN tok, tokG tok)
  | none => (s.set (tokSet tok)).out.contains (tokN tok, (tokG tok).toNat + 65536)

/-- The executing instance no longer holds the token, and a binding to its slice has ended (R303). -/
def dropToken (s : State) (k n : Nat) (g : BitVec 16) : State :=
  let me := s.me
  let bound := me.inst.any (fun i => i.bind.any (fun b => b.set = k ∧ b.n = n))
  s.setMe { me with
    cancel := if bound then none else me.cancel
    inst := me.inst.map (fun i =>
      { i with tokens := i.tokens.filter (fun t => t ≠ (k, n, g)), bind := if bound then none else i.bind }) }

/-- SFEND (R303, R323). DESIGN CHOICE (log 55). -/
def execSfend (d a b : BitVec 5) (s : State) : Out :=
  let tok := s.sval a
  let k := tokSet tok
  let n := tokN tok
  let g := tokG tok
  sliceOp tok (do
    trapIf (decide (bitsOf (s.sval b).toNat 1 63 ≠ 0)) 1 tok
    badOperand s (!holdsToken s tok || (s.setOf tok).isNone)) (do
    sliceRelease s
    let t := s.set k
    let c := t.slice n
    let s1 := dropToken s k n g
    if t.state ≠ 1 then .ok (returnToken s1 k n, sliceStatus 3)
    else if c.ist ∨ g ≠ c.gen then
      .ok (returnToken (s1.putSet k (t.putSlice n { c with fine := 2 })) k n, sliceStatus 5)
    else if bitsOf (s.sval b).toNat 0 1 = 1 then
      let r : FaultRec := { cause := 0, eng := 0, addr := BitVec.ofNat 64 (Config.freeNat s.nonce 12), pc := s.q.pc
                            core := s.curCore, gen := g, program := true }
      .ok (returnToken (s1.putSet k (t.putSlice n { c with fine := 3, frec := some r })) k n, 0)
    else .ok (returnToken (s1.putSet k (t.putSlice n { c with fine := 1, fg := g })) k n, 0)) d s

/-! ## Sweeps, prefixes, waits and recycling (R306, R324-R326) -/

/-- SJUMP (R306, R324). -/
def execSjump (d a : BitVec 5) (s : State) : Out :=
  let tok := s.sval a
  sliceOp tok (needsMode s tok false) (
    match s.openSet tok with
    | none => answerStatus s 3
    | some t =>
      let r := t.sweep
      let t1 := (t.which (fun _ => true)).foldl (fun u n => u.putSlice n { u.slice n with swept := false }) t
      let t2 := { t1 with p := if r.2.1 then t.h else t.p, sweeps := t.sweeps + 1 }
      let t3 := { t2 with exhausted := t2.exhausted || (decide (t2.maxSweeps ≠ 0) &&
        decide (t2.maxSweeps ≤ t2.sweeps) && decide (t2.p < t2.h)) }
      .ok (s.putSet (tokSet tok) t3, BitVec.ofNat 64 (r.1.toNat + 2 ^ 32 * (t3.sweeps % 2 ^ 16) + boolBit r.2.1 48 +
        boolBit t3.exhausted 49 + boolBit r.2.2 50))) d s

/-- SPFX (R325). -/
def execSpfx (d a : BitVec 5) (s : State) : Out :=
  let tok := s.sval a
  sliceOp tok (.ok ()) (match s.setOf tok with
    | none => answerStatus s 3
    | some t => answer s t.prefixWord) d s

/-- SWAITP (R325). -/
def execSwaitp (d a b : BitVec 5) (s : State) : Out :=
  let tok := s.sval a
  let v := (s.sval b).toNat
  sliceOp tok (trapIf (decide (bitsOf v 13 51 ≠ 0)) 1 tok) (match s.setOf tok with
    | none => answerStatus s 3
    | some t =>
      if v ≤ t.p ∨ t.done ∨ t.exhausted ∨ (t.state ≠ 1 ∧ t.out = []) then answer s t.prefixWord
      else .error (.wait (.sliceSet (tokSet tok)))) d s

/-- SWAITF (R325). -/
def execSwaitf (d a : BitVec 5) (s : State) : Out :=
  let tok := s.sval a
  let n := tokN tok
  sliceOp tok (.ok ()) (match s.openSet tok with
    | none => answerStatus s 3
    | some t =>
      if !t.inWindow n then answerStatus s 4
      else if (t.slice n).fine = 1 then answer s (sliceToken (tokSet tok) n (t.slice n).fg)
      else .error (.wait (.sliceSet (tokSet tok)))) d s

/-- SRECYC (R326). -/
def execSrecyc (d a : BitVec 5) (s : State) : Out :=
  let tok := s.sval a
  let n := tokN tok
  sliceOp tok (.ok ()) (do
    sliceRelease s
    match s.openSet tok with
    | none => answerStatus s 3
    | some t =>
      if !t.inWindow n then answerStatus s 4
      else if n ≠ t.base ∨ t.p ≤ n + 1 ∨ (t.slice n).infl ∨ t.h > 4095 then answerStatus s 6
      else
        let last := t.slice (t.h - 1)
        let t1 := if t.token then t else t.putSlice (t.h - 1) { last with seeded := last.seeded || last.roundBelow }
        .ok (s.putSet (tokSet tok) { t1.putSlice n {} with base := t.base + 1, h := t.h + 1 },
          sliceToken (tokSet tok) t.h 0)) d s

/-! ## Token mode (R311-R314, R327) -/

/-- Slice n is under test (R312, R314). -/
def SliceSet.underTest (t : SliceSet) (n : Nat) : Bool :=
  if t.tree then t.childOf t.pt n && (t.which (fun m => decide (m < n) && t.childOf t.pt m)).all
    (fun m => decide ((t.slice m).verdict = 2))
  else decide (n = t.p)

/-- What a token operation finds wrong with slice n of generation g: a status, or nothing (R327). -/
def SliceSet.testStatus (t : SliceSet) (n : Nat) (g : BitVec 16) (resid : Bool) : Option Nat :=
  let c := t.slice n
  if !t.inWindow n then some 4
  else if !t.underTest n ∨ (resid ∧ c.verdict ≠ 2) then some 6
  else if g ≠ c.gen ∨ c.fine ≠ 1 then some 5
  else none

/-- The slices that leave the tree when slice n joins the settled path: the other children of the previous PT and their
descendants (R301, R313). DEDUCED (log 56). -/
def SliceSet.losers (t : SliceSet) (n : Nat) : List Nat :=
  if t.tree then
    t.which (fun d => t.below t.pt d && decide (d ≠ n) && !t.below n d && decide (d ≠ 0) && (t.slice d).seeded)
  else []

/-- Slice n joins the settled path with value v. -/
def SliceSet.commit (t : SliceSet) (n : Nat) (v : Word) : SliceSet × Nat :=
  let b := t.invalidate (t.losers n)
  ({ b.1.putSlice n { b.1.slice n with verdict := 1, value := v } with
    p := t.p + 1, pt := n, path := if t.tree then t.path ++ [n] else t.path }, b.2)

/-- Slice n is rejected: every slice above it, or its descendants, are invalidated (R301, R312). -/
def SliceSet.reject (t : SliceSet) (n : Nat) : SliceSet × Nat :=
  let b := t.invalidate (t.which (t.below n))
  (b.1.putSlice n { b.1.slice n with verdict := 2 }, b.2)

/-- The test of a draft (R312). -/
def acceptsDraft (p q u : Word) : Bool :=
  let a := rne (fmul (f32 u) (f32 q))
  !(f32 p).isNan && !a.isNan && fleVal a (f32 p)

/-- SACCEPT (R312, R327). -/
def execSaccept (d a b : BitVec 5) (s : State) : Out :=
  let tok := s.sval a
  let n := tokN tok
  let pq := s.sval b
  sliceOp tok (needsMode s tok true) (do
    sliceRelease s
    match s.openSet tok with
    | none => answerStatus s 3
    | some t =>
      match t.testStatus n (tokG tok) false with
      | some c => answerStatus s c
      | none =>
        if acceptsDraft (pq.extractLsb' 0 32) (pq.extractLsb' 32 32) ((s.sval d).extractLsb' 0 32) then
          .ok (putBumped s (tokSet tok) (t.commit n (t.slice n).value), 0)
        else .ok (putBumped s (tokSet tok) (t.reject n), 1)) d s

/-- SRESID (R313, R327). -/
def execSresid (d a b : BitVec 5) (s : State) : Out :=
  let tok := s.sval a
  let n := tokN tok
  let v := s.sval b
  sliceOp tok (do
    trapIf (decide (bitsOf v.toNat 33 31 ≠ 0)) 1 tok
    needsMode s tok true) (do
    sliceRelease s
    match s.openSet tok with
    | none => answerStatus s 3
    | some t =>
      match t.testStatus n (tokG tok) true with
      | some c => answerStatus s c
      | none =>
        let s1 := putBumped s (tokSet tok) (t.commit n (v.extractLsb' 0 32))
        .ok (if v.getLsbD 32 then s1.sliceInc 2 1 else s1, 0)) d s

/-! ## Fault records (R328) -/

/-- A word of a fault record. -/
def FaultRec.word (r : FaultRec) (first n w : Nat) : W64 :=
  match w with
  | 0 => BitVec.ofNat 64 (r.cause + 2 ^ 16 * r.eng + 2 ^ 19 + boolBit r.delivered 20 + boolBit r.program 21 +
      2 ^ 32 * r.gen.toNat)
  | 1 => r.addr
  | _ => BitVec.ofNat 64 (r.pc % 2 ^ 16 + 2 ^ 16 * r.core + 2 ^ 32 * ((first + n) % 2 ^ 32))

/-- SFLT (R328). -/
def execSflt (d a b : BitVec 5) (s : State) : Out :=
  let tok := s.sval a
  let w := (s.sval b).toNat
  let n := tokN tok
  sliceOp tok (badOperand s (decide (w > 2))) (match s.setOf tok with
    | none => answerStatus s 3
    | some t => answer s (match (t.slice n).frec with
      | some r => r.word t.first n w
      | none => 0)) d s

/-! ## Events -/

def WaitKind.isSlice : WaitKind → Bool
  | .sliceSet _ => true
  | _ => false

/-- SLICE_WAIT_WAKE (R325). -/
def execSliceWaitWake (n : Nat) (e : Eng) (s : State) : Out :=
  let t := s.as n e
  if waiting s n e WaitKind.isSlice then
    match decode t.word with
    | .ok (.swaitp d a b) => resumeWord t (execSwaitp d a b t)
    | .ok (.swaitf d a) => resumeWord t (execSwaitf d a t)
    | _ => .next s
  else .next s

/-- ABANDONMENT (R309): it proceeds once everything issued has performed its writes. -/
def execAbandonment (n : Nat) (s : State) : Out := .next (tryAbandon s n)

end Sys2Proof.Machine
end

