-- ==== Sys2Proof/Machine/Lives.lean ====
section
/-!
DEFINITION. The life of an instance: room on a core (R112), start (R63), text staging (R16), discarding (R121, R129, R340),
and what its launch keeps of it (R115-R118).
-/

namespace Sys2Proof.Machine

/-! ## Launches -/

def State.launch? (s : State) (num : Nat) : Option Launch := s.tasks.launches.find? (fun l => l.num = num)

def State.mapLaunch (s : State) (num : Nat) (f : Launch → Launch) : State :=
  { s with tasks := { s.tasks with launches := s.tasks.launches.map (fun l => if l.num = num then f l else l) } }

/-- The product of the extents of the present levels of one kind (R117). -/
def LoopTab.product (t : LoopTab) (kind : Nat) : Nat :=
  ((t.levels.filter (fun l => l.present ∧ l.kind = kind)).map (·.extent)).foldl (fun a b => a * b) 1

def LoopTab.steps (t : LoopTab) : Nat := t.product 0
def LoopTab.nc (t : LoopTab) : Nat := t.product 1
def LoopTab.nd (t : LoopTab) : Nat := t.product 2

/-- Instances for each die point (R118). -/
def LoopTab.perPoint (t : LoopTab) : Nat := (t.nc + t.grain - 1) / t.grain

/-- The instances of a step, over the live dies as they stand (R118). -/
def LoopTab.instances (t : LoopTab) (live : List Nat) : List Unplaced :=
  (List.range t.nd).flatMap (fun p => (List.range t.perPoint).map (fun i => ⟨p, i, live.getD (p % live.length) 4, 0⟩))

/-- The launch places nothing further, and completes with this status unless it has one (R116, R121, R340). -/
def Launch.stop (status : Nat) (l : Launch) : Launch :=
  { l with stopped := true, todo := [], status := if l.stopped then l.status else status }

/-- The die of a compute core (R8). -/
def dieOf (n : Nat) : Nat := n / 32

/-- Some instance of the launch runs, is parked or is spilled. -/
def resident (s : State) (num : Nat) : Bool := s.cores.entries.any (fun e => e.2.insts.any (fun i => i.launch = num))

/-- Every memory effect of the launch has been performed at package scope (R115). -/
def effectsDone (s : State) (num : Nat) : Bool :=
  !s.accs.any (fun a => decide (a.owner.1 = num)) &&
  !s.fabric.sends.any (fun d => decide (d.owner.1 = num) && decide (d.st = 0)) &&
  !s.fabric.bulks.any (fun b => decide (b.owner.1 = num) && decide (b.lines ≠ 0) && decide (b.st = 0)) &&
  !s.cores.entries.any (fun e =>
    e.2.copies.any (fun c => decide (c.owner.1 = num)) || e.2.bmvs.any (fun b => decide (b.owner.1 = num)) ||
    e.2.replay.any (fun p => decide (p.owner.1 = num) && !p.failed))

/-! ## Room (R112) -/

/-- The class-0 reserve in force on a core: a new size waits while the core holds a class-0 instance (R136). -/
def cl0InForce (s : State) (c : Core) : Nat :=
  if c.insts.any (fun i => i.cls = 0) then c.cl0Hold.getD s.tasks.cl0Part else s.tasks.cl0Part

/-- Unit u of core n is reserved to a receive window of another context than x (R269). -/
def windowed (s : State) (n x u : Nat) : Bool :=
  s.fabric.rxwin.entries.any (fun e => match e.2 with
    | some w => !w.off && decide (w.ctx ≠ x) && decide (w.base.toNat < 0x10000000000) &&
        (overlapAt (spLoc n (u * unitBytes)) unitBytes w.base.toNat (2 ^ w.z)).isSome
    | none => false)

/-- Unit u of core n is free for an instance of context x. -/
def unitFree (s : State) (n x u : Nat) : Bool :=
  !(s.core n).insts.any (fun i => decide (i.base ≤ u) && decide (u < i.base + i.units)) && !windowed s n x u

/-- The first unit of the lowest run of free units that an instance of this class may take. -/
def roomAt (s : State) (n x cls units : Nat) : Option Nat :=
  let r := cl0InForce s (s.core n)
  let lo := if cls = 0 then 63 - r else 0
  let hi := if cls = 0 then 63 else 63 - r
  ((List.range (hi + 1 - units - lo)).map (· + lo)).find? (fun b =>
    decide (b + units ≤ hi) && (List.range units).all (fun k => unitFree s n x (b + k)))

/-- The instance that a core resumes next: the one stopped last (R133). -/
def Core.lastStopped (c : Core) : Option Stopped := match c.parked with
  | some p => some p
  | none => c.spilled.head?

/-- The units from `base` of core n were last context x's (R112, R269). -/
def ownUnits (s : State) (x n base units : Nat) : State :=
  { s with unitLast := (List.range units).foldl (fun m k => m.set 0 (64 * n + base + k) (x + 1)) s.unitLast }

/-- Whether location a keeps what it holds when its unit, one of `units` from `base` of core n, is given to context x: it is
zero, or, where the unit was last context x's, zero or what is there (R112, log 19). -/
def unitKeeps (s : State) (n x base units a : Nat) : Bool :=
  decide (a < spLoc n (base * unitBytes)) || decide (spLoc n ((base + units) * unitBytes) ≤ a) ||
    (decide (s.unitLast.get 0 (64 * n + (a - spLoc n 0) / unitBytes) = x + 1) && Config.freeBool s.nonce a)

/-- The partition of `units` units from `base` of core n given to an instance of context x (R112).
DESIGN CHOICE (log 19). -/
def givePartition (s : State) (n x base units : Nat) : State :=
  ownUnits { s with
    mem := ⟨s.mem.entries.filter (fun e => unitKeeps s n x base units e.1)⟩
    poison := ⟨s.poison.entries.filter (fun e => unitKeeps s n x base units (lineBytes * e.1))⟩ } x n base units

/-- A core may take a new instance of class cls: none runs, and every stopped one has a greater class (R133).
DEDUCED (log 58). -/
def Core.mayTake (c : Core) (cls : Nat) : Bool :=
  c.inst.isNone && (match c.lastStopped with
    | some p => decide (cls < p.inst.cls)
    | none => true)

/-! ## Start (R63) and staging (R16) -/

/-- The registers that clear at instance start (R108, R158, R162, R176, R212, R253, R275). -/
def Core.clearStats (c : Core) : Core :=
  { c with nfull := 0, nage := 0, npark := 0, nmiss := 0, nwalk := 0, nfault := 0, nser := 0, nwait := 0, nmma := 0
           nmcast := 0, npois := 0, novf := 0, rfstat := 0 }

/-- Instance i on a core, at its start (R63): its sequencers run once its text is staged. -/
def Core.start (c : Core) (i : Inst) : Core :=
  let at_ : SeqState := { pc := i.lrec.pro }
  let c := { c.cleared.clearStats with
    inst := some i
    seqs := Eng.all.foldl (fun (m : Sparse SeqState) (e : Eng) => m.set {} e.tag at_) {}
    slipw := BitVec.ofNat 4 i.lrec.slipw
    detmode := i.lrec.policy.getLsbD 4 }
  let c := { c with sreg := (c.sreg.set 0 28 (BitVec.ofNat 64 i.first)).set 0 29 i.lrec.args }
  { c with greg := [1, 2, 3, 4].foldl (fun m t => m.set 0 (16 * t + 15) i.lrec.args) c.greg }

/-- A word of a text image as staging reads it, unless its page is absent, without X, or poisoned. -/
def stageWord (s : State) (x va : Nat) : Option Word :=
  (walk s x va).bind (fun t =>
    let p := t.place s va
    if t.x ∧ s.poison.get false (p.1 / lineBytes) = false then some (BitVec.ofNat 32 (readNat s p.2 p.1 4)) else none)

/-- The text of instance i staged into the instruction memory of core n: other instances stopped there will find other text
(R133). Nothing where the image cannot be read. -/
def stageText (s : State) (n : Nat) (i : Inst) : Option State :=
  ((List.range i.lrec.textLen).mapM (fun w => stageWord s i.ctx (i.lrec.text.toNat + 4 * w))).map (fun ws =>
    let c := s.core n
    let mark (p : Stopped) : Stopped := { p with restage := true }
    let s1 := s.setCore n { c with parked := c.parked.map mark, spilled := c.spilled.map mark }
    { s1 with imem := ws.zipIdx.foldl (fun m e => m.set 0 (65536 * n + e.2) e.1) s1.imem })

/-! ## Discarding -/

/-- The bytes of a stopped instance's record: in the save buffer, or in its save slot (R133); bytes that no translation
reaches are some value (log 7). -/
def recordOf (s : State) (n : Nat) (p : Stopped) : List Byte :=
  if p.spilled then
    match plinthRead s p.inst.ctx (saveSlot s p.inst.ctx n p.inst.cls) recordBytes with
    | some bs => bs
    | none => (List.range recordBytes).map (fun o => Config.freeByte s.nonce (2 ^ 82 + o))
  else readLocs s 0 (saveLoc n 0) recordBytes

/-- The running instance of core n is discarded at once: its registers and its tiles go, its tokens return, and the sets it
opened are cancelled (R129, R219, R316). What it had issued runs to its end, but its loads have nowhere to go. -/
def discardRunning (s : State) (n : Nat) : State :=
  let c := s.core n
  match c.inst with
  | none => s
  | some i =>
    let s := { s with accs := s.accs.filter (fun a => !(decide (a.owner = i.key) && (match a.eff with
      | .read _ _ => true
      | _ => false))) }
    sliceGone (s.setCore n (freeTiles c i.ctx).cleared) i

/-- A stopped instance of core n is discarded: its held tiles become free, and where it was escalated CORE_ESC.PEND clears, as at a
terminate, unless another escalated instance still awaits a command (R110, R340). -/
def discardStopped (s : State) (n : Nat) (p : Stopped) : State :=
  let held := fieldAt (recordOf s n p) 0x6C 2
  let c := s.core n
  let c := (List.range 16).foldl (fun c t =>
    if (BitVec.ofNat 16 held).getLsbD t ∧ c.tileSt.get .free t = .held ∧ c.tileOwner.get 0 t = p.inst.ctx then
      { c with tileSt := c.tileSt.set .free t .free, tileOwner := c.tileOwner.set 0 t 0, tile := c.tile.set {} t {} }
    else c) c
  let others (q : Stopped) : Bool := decide (q.inst.key ≠ p.inst.key)
  let c := { c with parked := c.parked.filter others, spilled := c.spilled.filter others
                    replay := c.replay.filter (fun x => !(x.failed && decide (x.owner = p.inst.key))) }
  let pend := c.escPend && (!p.escalated || (c.parked.toList ++ c.spilled).any (·.escalated))
  sliceGone (s.setCore n { c with escPend := pend }) p.inst

/-- Every instance of core n that f covers is discarded. -/
def discardWhere (s : State) (n : Nat) (f : Inst → Bool) : State :=
  let s1 := if (s.core n).inst.any f then discardRunning s n else s
  let c := s1.core n
  ((c.parked.toList ++ c.spilled).filter (fun p => f p.inst)).foldl (fun t p => discardStopped t n p) s1

/-- An instance that was discarded and is to run again (R121, R129): it is unplaced once more. -/
def replace (s : State) (i : Inst) (die : Nat) : State :=
  s.mapLaunch i.launch (fun l =>
    if l.stopped then l else { l with todo := ⟨i.p, i.i, die, i.again + 1⟩ :: l.todo })

/-- The running instance of core n is discarded as at a terminate, and its launch stops with this status (R16, R340). -/
def terminateRunning (s : State) (n status : Nat) : State :=
  match (s.core n).inst with
  | none => s
  | some i => (discardRunning s n).mapLaunch i.launch (Launch.stop status)

end Sys2Proof.Machine
end

