-- ==== Sys2Proof/Machine/Tasks.lean ====
section
/-!
DEFINITION. The distributors: acceptance of launches (R122, R123, R126), placement and pre-emption (R118, R127, R128),
staging, the end of an instance (R80), completion (R115), overflow queues (R125), and die fencing (R120, R121).
-/

namespace Sys2Proof.Machine

/-! ## Queues and their heads (R113, R122, R123, R126) -/

def State.queue (s : State) (k : Nat) : Queue := s.plinth.queues.get {} k
def State.setQueue (s : State) (k : Nat) (q : Queue) : State :=
  { s with plinth := { s.plinth with queues := s.plinth.queues.set {} k q } }

/-- The first pool entry of context x and class c, with its die: the one that entered a pool first. -/
def poolHead (s : State) (x c : Nat) : Option (Nat × Child) :=
  ((List.range 4).flatMap (fun d => (s.tasks.pools.get [] d).map (fun ch => (d, ch)))).foldl (fun a e =>
    if e.2.ctx = x ∧ e.2.lrec.cls = c then
      match a with
      | none => some e
      | some b => if e.2.no < b.2.no then some e else a
    else a) none

/-- The weight of a queue (R110, R126): 0 disables a submission queue. -/
def queueWeight (s : State) (k : Nat) : Nat :=
  let w := ctxField s (k / 16) (0x14 + (if k % 16 < 8 then k % 16 else 0)) 1
  if k % 16 < 8 then w else max 1 w

/-- A present level has extent 0: the launch has no instances (R114). -/
def LoopTab.empty (t : LoopTab) : Bool := decide (t.steps * t.nd * t.nc = 0)

/-- The launch has placed all its instances: the last step is open and nothing is left of it, or it has none. -/
def Launch.placedAll (l : Launch) : Bool :=
  decide (l.todo = []) && (l.stopped || l.tab.empty || decide (l.tab.steps ≤ l.step + 1))

/-- Every instance of the launch has retired and its memory effects are performed (R115, R123). -/
def launchDone (s : State) (l : Launch) : Bool := l.placedAll && !resident s l.num && effectsDone s l.num

/-- R123 lets the head entry of a queue place its first instance. -/
def notHeldBack (s : State) (k : Nat) (e : QEntry) : Bool :=
  match s.launch? (s.queue k).lastLaunch with
  | none => true
  | some l => launchDone s l || (decide (bitsOf e.flags 0 1 = 1) && l.placedAll)

/-- The record and table of a launch entry as the master reads them, or the status that it completes with (R116): 2 where both
are invalid, which R116 leaves open. DESIGN CHOICE (log 77). -/
def readEntry (s : State) (x : Nat) (e : QEntry) : Nat ⊕ (LoopRec × LoopTab) :=
  if e.clean = false ∨ e.recAddr.toNat % 64 ≠ 0 then .inl 2
  else
    match programRead s x e.recAddr.toNat 64 with
    | none => .inl 2
    | some bs =>
      let r := recOf bs (ctxClass s x)
      if !recValid s x bs r then .inl 2
      else if e.tabAddr = 0 then .inr (r, oneTab)
      else if e.tabAddr.toNat % 8 ≠ 0 then .inl 3
      else
        match (programRead s x e.tabAddr.toNat 40).bind tabOf with
        | none => .inl 3
        | some t => .inr (r, t)

/-- The heads that have become candidates are read (R116, R122). DEDUCED (log 57). -/
def readHeads (s : State) : State :=
  { s with plinth := { s.plinth with queues := ⟨s.plinth.queues.entries.map (fun p =>
    match p.2.pend with
    | e :: l =>
      if e.read = none ∧ ctxValid s (p.1 / 16) ∧ notHeldBack s p.1 e then
        (p.1, { p.2 with pend := { e with read := some (readEntry s (p.1 / 16) e) } :: l })
      else p
    | [] => p)⟩ } }

/-- The candidate head of queue k as read. -/
def candidateOf (s : State) (k : Nat) : Option (Nat ⊕ (LoopRec × LoopTab)) :=
  if !ctxValid s (k / 16) then none
  else if k % 16 < 8 then (s.queue k).pend.head?.bind (·.read)
  else (poolHead s (k / 16) (k % 16 - 8)).map (fun p => .inr (p.2.lrec, p.2.tab))

/-- Every queue number, in the cycle of R122 and R126. DEDUCED (log 57). -/
def allQueues : List Nat := (List.range 64).flatMap (fun x => (List.range 12).map (fun q => 16 * x + q))

/-- The cost of a launch (R122). -/
def cost (r : LoopRec) (t : LoopTab) : Nat := min (2 ^ 32 - 1) (r.est * r.trips * (t.steps * t.nd * t.perPoint))

/-- The head of queue k becomes a launch with the next number (R115, R118). -/
def acceptHead (s : State) (k : Nat) (c : Nat ⊕ (LoopRec × LoopTab)) : State :=
  let num := s.tasks.lastNum + 1
  let x := k / 16
  let q := s.queue k
  let e := q.pend.headD {}
  let child := if k % 16 < 8 then none else poolHead s x (k % 16 - 8)
  let l0 : Launch := { num := num, ctx := x, queue := k % 16, cls := 3, lrec := {}, tab := {}, compAddr := e.compAddr
                       flags := e.flags, compCtr := e.compCtr }
  let l : Launch := match c with
    | .inl status => { l0 with stopped := true, status := status }
    | .inr (r, t) => { l0 with
        cls := r.cls, lrec := r, tab := t
        tabAddr := match child with
          | some p => p.2.tabAddr
          | none => e.tabAddr
        todo := if t.empty then [] else t.instances s.tasks.live }
  let s1 := match child with
    | some p => { s with tasks := { s.tasks with
        pools := s.tasks.pools.set [] p.1 ((s.tasks.pools.get [] p.1).filter (fun ch => ch.no ≠ p.2.no)) } }
    | none => s.setQueue k { q with pend := q.pend.drop 1, lastLaunch := num }
  { s1 with tasks := { s1.tasks with lastNum := num, launches := s1.tasks.launches ++ [l] } }

/-- Queue k has no further launch: its deficit is zero (R122). -/
def settleDeficit (s : State) (k : Nat) : State :=
  let q := s.queue k
  if (if k % 16 < 8 then q.pend = [] else (poolHead s (k / 16) (k % 16 - 8)).isNone) then s.setQueue k { q with deficit := 0 }
  else s

/-- The head of queue k is accepted, if the queue's deficit allows it. -/
def tryAccept (s : State) (k : Nat) (c : LoopRec × LoopTab) : State :=
  let q := s.queue k
  let w := cost c.1 c.2
  if w ≤ q.deficit then settleDeficit (acceptHead (s.setQueue k { q with deficit := q.deficit - w }) k (.inr c)) k else s

/-- LAUNCH_ACCEPT (R116, R122): the master accepts a candidate whose record or table is invalid at once; otherwise it goes
on with its visit to a queue, or visits the next one that holds a candidate of the highest class. Of several invalid candidates that of
the lowest context and queue comes first, and a queue of weight 0 is among them. DESIGN CHOICE (log 92). -/
def execLaunchAccept (s : State) : Out :=
  if s.plinth.stage ≠ 0xF ∨ !s.tasks.live.contains s.tasks.master then .next s
  else
    let s := readHeads s
    let cands := allQueues.filterMap (fun k => (candidateOf s k).map (fun c => (k, c)))
    match cands.find? (fun c => c.2.isLeft) with
    | some (k, c) => .next (acceptHead s k c)
    | none =>
      let ok := cands.filterMap (fun c => match c.2 with
        | .inr r => if queueWeight s c.1 = 0 then none else some (c.1, r)
        | .inl _ => none)
      match (ok.map (fun c => c.2.1.cls)).foldl (fun a c => match a with
          | none => some c
          | some b => some (min b c)) (none : Option Nat) with
      | none => .next { s with plinth := { s.plinth with inVisit := false } }
      | some cls =>
        let same := ok.filter (fun c => c.2.1.cls = cls)
        let cur := s.plinth.visited
        let goesOn (c : Nat × LoopRec × LoopTab) : Bool := decide (c.1 = cur) && decide (cost c.2.1 c.2.2 ≤ (s.queue cur).deficit)
        match (if s.plinth.inVisit then same.find? goesOn else none) with
        | some c => .next (tryAccept s c.1 c.2)
        | none =>
          match (same.find? (fun c => cur < c.1)).or same.head? with
          | none => .next s
          | some c =>
            let q := s.queue c.1
            let s1 := s.setQueue c.1 { q with deficit := q.deficit + queueWeight s c.1 * 65536 }
            .next (tryAccept { s1 with plinth := { s1.plinth with visited := c.1, inVisit := true } } c.1 c.2)

/-! ## Placement and pre-emption (R117, R118, R127, R128) -/

/-- Steps whose instances have all retired give way to the next (R117). -/
def advanceSteps (s : State) : State :=
  { s with tasks := { s.tasks with launches := s.tasks.launches.map (fun l =>
      if !l.stopped ∧ l.todo = [] ∧ !l.tab.empty ∧ l.step + 1 < l.tab.steps ∧ !resident s l.num ∧ effectsDone s l.num then
        { l with step := l.step + 1, todo := l.tab.instances s.tasks.live }
      else l) } }

/-- a goes before b: lower instance number, and then, which R118 leaves open, lower die point. DESIGN CHOICE (log 77). -/
def Unplaced.before (a b : Unplaced) : Bool := decide (a.i < b.i) || (decide (a.i = b.i) && decide (a.p < b.p))

def firstOf (us : List Unplaced) : Option Unplaced := us.foldl (fun a u => match a with
  | none => some u
  | some b => if u.before b then some u else a) none

/-- The launches with instances unplaced on a die, lowest class and then oldest first. -/
def launchesFor (s : State) (d : Nat) : List Launch :=
  (List.range 4).flatMap (fun c => s.tasks.launches.filter (fun l => l.cls = c ∧ l.todo.any (fun u => u.die = d)))

/-- The lowest core of the die that takes an instance of the launch, with its partition's first unit.
DEDUCED (log 58). -/
def coreFor (s : State) (d : Nat) (l : Launch) : Option (Nat × Nat) :=
  ((List.range 32).map (· + 32 * d)).findSome? (fun n =>
    if (s.core n).mayTake l.cls then (roomAt s n l.ctx l.cls l.lrec.part).map (fun b => (n, b)) else none)

/-- Instance u of launch l goes to core n (R118, R119). -/
def placeOn (s : State) (l : Launch) (u : Unplaced) (n base : Nat) : State :=
  let no := s.tasks.placedNo + 1
  let first := u.i * l.tab.grain
  let i : Inst :=
    { launch := l.num, ctx := l.ctx, cls := l.cls, lrec := l.lrec, tab := l.tab, tabAddr := l.tabAddr, step := l.step, p := u.p
      i := u.i, first := first, count := min l.tab.nc (first + l.tab.grain) - first, base := base, units := l.lrec.part
      placed := no, again := u.again }
  let c := s.core n
  let c := if c.insts.any (fun j => j.cls = 0) then c else { c with cl0Hold := none }
  let s := s.mapLaunch l.num (fun l => { l with started := true, todo := l.todo.filter (fun v => v ≠ u) })
  givePartition { s.setCore n (c.start i) with tasks := { s.tasks with placedNo := no } } n l.ctx base l.lrec.part

/-- A stop is in progress that makes room for instance u of launch l. -/
def served (s : State) (l : Launch) (u : Unplaced) : Bool :=
  s.cores.entries.any (fun e => e.2.stopReq.any (fun r => r.serves = (l.num, u.p, u.i)))

/-- The running instance that a newcomer stops: of those whose stop makes room, the greatest class and the latest placed
(R127). -/
def victim (s : State) (d : Nat) (l : Launch) : Option (Nat × Inst) :=
  ((List.range 32).map (· + 32 * d)).foldl (fun a n =>
    let c := s.core n
    match c.inst with
    | some i =>
      if c.active ∧ c.stopReq.isNone ∧ l.cls < i.cls ∧ (roomAt s n l.ctx l.cls l.lrec.part).isSome then
        match a with
        | none => some (n, i)
        | some (_, j) => if j.cls < i.cls ∨ (j.cls = i.cls ∧ j.placed < i.placed) then some (n, i) else a
      else a
    | none => a) none

/-- The kinds of stop. -/
inductive StopKind where
  | drain | kill | checkpoint
  deriving DecidableEq, Repr

/-- Which kind of stop a newcomer of this class and these tokens makes (R128). -/
def stopKind (s : State) (c : Core) (i : Inst) (cls tokens : Nat) : StopKind :=
  let p := i.lrec.policy
  let iter := match c.leader with
    | some e => (c.seqs.get {} e.tag).iter.toNat
    | none => (c.seqs.get {} 0).iter.toNat
  let left := i.lrec.est * (i.lrec.trips - iter)
  let kill := p.getLsbD 0 && p.getLsbD 3
  if cls ≠ 0 ∧ p.getLsbD 2 ∧ left ≤ s.tasks.preDrain then .drain
  else if kill ∧ s.tasks.preKill.toNat ≤ tokens then .kill
  else if p.getLsbD 1 then .checkpoint
  else if kill then .kill
  else .checkpoint

/-- A checkpoint requested now: the leader stops at once if it stands just past a safe point (R130). -/
def StopReq.begin (c : Core) (serves : Nat × Nat × Nat) (cycle : Nat) : StopReq :=
  StopReq.atOnce c { serves := serves, drain := false, since := cycle }

/-- The running instance of core n is stopped for instance u of launch l (R127-R129). -/
def preempt (s : State) (l : Launch) (u : Unplaced) (n : Nat) (i : Inst) : State :=
  let c := s.core n
  let serves := (l.num, u.p, u.i)
  match stopKind s c i l.cls l.lrec.tokens with
  | .drain => s.setCore n { c with stopReq := some { serves := serves, drain := true, since := s.cycle, budget := s.tasks.preDrain } }
  | .checkpoint => s.setCore n { c with stopReq := some (StopReq.begin c serves s.cycle) }
  | .kill =>
    let s1 := replace (discardRunning s n) i (dieOf n)
    { s1 with tasks := { s1.tasks with nkill := satInc 16 s1.tasks.nkill } }

/-- INSTANCE_PLACE (R117, R118, R127): the distributor of a die places the next instance that a core can take; where none
can be placed, the first launch that finds a victim has it stopped. -/
def execInstancePlace (d : Nat) (s : State) : Out :=
  if !s.tasks.live.contains d then .next s
  else
    let s := advanceSteps s
    let ls := launchesFor s d
    let next (l : Launch) (f : Unplaced → Bool) : Option Unplaced := firstOf (l.todo.filter (fun u => u.die = d ∧ f u))
    match ls.findSome? (fun l => (next l (fun _ => true)).bind (fun u => (coreFor s d l).map (fun c => (l, u, c)))) with
    | some (l, u, n, b) => .next (placeOn s l u n b)
    | none =>
      match ls.findSome? (fun l =>
          (next l (fun u => !served s l u)).bind (fun u => (victim s d l).map (fun v => (l, u, v)))) with
      | some (l, u, n, i) => .next (preempt s l u n i)
      | none => .next s

/-- TEXT_STAGING (R16): the text of the instance placed on core n is staged, and its sequencers start; an image that cannot
be read discards it. -/
def execTextStaging (n : Nat) (s : State) : Out :=
  let c := s.core n
  match c.inst with
  | none => .next s
  | some i =>
    if c.active then .next s
    else
      match stageText s n i with
      | some t => .next (t.setCore n { t.core n with active := true })
      | none => .next (terminateRunning s n 2)

/-! ## The end of an instance and of a launch (R80, R115) -/

/-- Everything that keeps an instance whose sequencers have all executed ENDT (R80). -/
def heldAtEnd (s : State) (n : Nat) (i : Inst) : Bool :=
  let c := s.core n
  c.queued (fun _ => true) || s.accs.any (fun a => decide (a.owner = i.key)) ||
  c.copies.any (fun o => decide (o.owner = i.key)) || c.bmvs.any (fun b => decide (b.owner = i.key)) ||
  s.fabric.sends.any (fun d => decide (d.owner = i.key) && decide (d.st = 0)) ||
  s.fabric.bulks.any (fun b => decide (b.owner = i.key) && decide (b.lines ≠ 0) && decide (b.st = 0))

/-- The instance of core n retires (R64, R80, R219, R316). -/
def retireInst (s : State) (n : Nat) (i : Inst) : State :=
  let c := s.core n
  let s1 := sliceGone (s.setCore n { c.cleared with tileAbs := 0 }) i
  s1.mapLaunch i.launch (fun l => { l with retired := l.retired + 1 })

/-- INSTANCE_END (R80): every sequencer has executed ENDT and nothing it issued is outstanding. A write that failed in the
replay queue is delivered at the ENDT of its sequencer instead (R161). -/
def execInstanceEnd (n : Nat) (s : State) : Out :=
  let c := s.core n
  match c.inst with
  | none => .next s
  | some i =>
    if !c.active ∨ c.mode ≠ .run ∨ c.trapPend.isSome ∨ c.abandon.isSome then .next s
    else
      match c.replay.find? (fun p => decide (p.owner = i.key) && p.failed && (c.seqs.get {} p.eng).ended) with
      | some p =>
        .next (raise (deliverFailed s n (Eng.ofTag p.eng) p) n (Eng.ofTag p.eng) p.cause p.va false)
      | none =>
        if Eng.all.all (fun e => (c.seqs.get {} e.tag).ended) ∧ !heldAtEnd s n i then .next (retireInst s n i) else .next s

/-- The state with the descriptor of context x as `desc` gives it, while `f` runs. -/
def underDesc (s : State) (x : Nat) (desc : Option (List Byte)) (f : State → State) : State :=
  match desc with
  | none => f s
  | some bs =>
    let t := f { s with plinth := { s.plinth with
      ctxTab := bs.zipIdx.foldl (fun m e => m.set 0 (64 * x + e.2) e.1) s.plinth.ctxTab } }
    { t with plinth := { t.plinth with ctxTab := s.plinth.ctxTab } }

/-- 1 is added to a counter of context x; an index beyond its counters names none (log 18). -/
def bumpCounter (s : State) (x idx : Nat) : State :=
  if idx < ctxField s x 0x10 2 then
    let k := ctxField s x 0x0E 2 + idx
    { s with tasks := { s.tasks with counters := s.tasks.counters.set 0 k (s.tasks.counters.get 0 k + 1) } }
  else s

/-- The completion record is written, where its address is aligned and every byte may be written (R115). -/
def writeCompletion (s : State) (l : Launch) : State :=
  let a := l.compAddr.toNat
  let ok := (walk s l.ctx a).any (fun t => t.w)
  if a = 0 ∨ a % 16 ≠ 0 ∨ !ok then s
  else programWrite s l.ctx a (leBytes 2 l.status ++ leBytes 2 0 ++ leBytes 4 (min l.retired (2 ^ 32 - 1)) ++ leBytes 8 l.num)

/-- MSI-X vector v is raised. -/
def raiseVector (s : State) (v : Nat) : State := { s with plinth := { s.plinth with msix := s.plinth.msix ++ [v] } }

/-- The steps of R115 for a launch from a queue, and of R126 for a child. -/
def complete (s : State) (l : Launch) : State :=
  let s1 := underDesc s l.ctx l.desc (fun s =>
    if l.queue < 8 then
      let s := writeCompletion s l
      if bitsOf l.compCtr 15 1 = 1 then bumpCounter s l.ctx (bitsOf l.compCtr 0 12) else s
    else if l.lrec.parent.getLsbD 31 then bumpCounter s l.ctx (bitsOf l.lrec.parent.toNat 0 12) else s)
  let s2 := if l.queue < 8 ∧ bitsOf l.flags 1 1 = 1 then raiseVector s1 (8 * l.ctx + l.queue) else s1
  { s2 with tasks := { s2.tasks with launches := s2.tasks.launches.filter (fun x => x.num ≠ l.num) } }

/-- LAUNCH_COMPLETE (R115). -/
def execLaunchComplete (num : Nat) (s : State) : Out :=
  match s.launch? num with
  | none => .next s
  | some l => if launchDone s l then .next (complete s l) else .next s

/-! ## Overflow queues (R125) -/

/-- OVERFLOW_MOVE (R125): the head of a context's overflow queue enters a pool with room; contexts with lower numbers come
first. DEDUCED (log 60). -/
def execOverflowMove (d x : Nat) (s : State) : Out :=
  match s.tasks.ovf.get [] x with
  | [] => .next s
  | ch :: l =>
    if !s.tasks.live.contains d ∨ poolFree s d ≤ 64 ∨ s.tasks.ovf.keys.any (fun y => decide (y < x)) then .next s
    else .next { s with tasks := { s.tasks with
      ovf := s.tasks.ovf.set [] x l
      ovfHead := s.tasks.ovfHead.set 0 x ((s.tasks.ovfHead.get 0 x + 1) % ovfCapacity s x)
      pools := s.tasks.pools.set [] d (s.tasks.pools.get [] d ++ [{ ch with no := s.nonce }]) } }

/-! ## Die fencing (R120, R121) -/

/-- A launch after die d is fenced (R121): `lost` are its instances there that had been placed. -/
def Launch.fence (live : List Nat) (d : Nat) (lost : List Inst) (l : Launch) : Launch :=
  let gone := lost.filter (fun i => i.launch = l.num)
  if !l.todo.any (fun u => u.die = d) ∧ gone = [] then l
  else if l.lrec.policy.getLsbD 3 ∧ l.stopped then l
  else if l.lrec.policy.getLsbD 3 then
    let die (p : Nat) : Nat := live.getD (p % live.length) 4
    { l with todo := l.todo.map (fun u => if u.die = d then { u with die := die u.p } else u) ++
        gone.map (fun i => ⟨i.p, i.i, die i.p, i.again + 1⟩) }
  else { l with stopped := true, todo := [], status := 1 }

/-- Children of a fenced die's pool move to the pool of die m, and those that do not fit to the front of their context's
overflow queue. In the pool they keep their places in the order of entry, which R126 leaves open. DEDUCED (log 60).
DESIGN CHOICE (log 77). -/
def movePool (s : State) (d m : Nat) : State :=
  let l := s.tasks.pools.get [] d
  let room := poolFree s m
  let rest := l.drop room
  let s1 := { s with tasks := { s.tasks with
    pools := (s.tasks.pools.set [] d []).set [] m (s.tasks.pools.get [] m ++ l.take room) } }
  (List.range 64).foldl (fun t x =>
    let mine := rest.filter (fun ch => ch.ctx = x)
    if mine = [] then t else frontOvf t x mine) s1

/-- DIE_FENCE (R120, R121): the die takes no part any longer, and its work is reissued or fails. DEDUCED (log 60). -/
def execDieFence (d : Nat) (s : State) : Out :=
  if !s.tasks.live.contains d then .next s
  else
    let cores := (List.range 32).map (· + 32 * d)
    let lost := cores.flatMap (fun n => (s.core n).insts)
    let live := s.tasks.live.filter (fun x => x ≠ d)
    let s1 := cores.foldl (fun t n => (discardWhere t n (fun _ => true)).setCore n {}) s
    let s2 := { s1 with tasks := { s1.tasks with live := live, launches := s1.tasks.launches.map (Launch.fence live d lost) } }
    let s3 := match live with
      | m :: _ => movePool s2 d m
      | [] => s2
    .next (logError s3 8 0xFF 0 d 0 0)

/-- MASTER_ELECTION (R120): the lowest live die's distributor is the master. -/
def execMasterElection (s : State) : Out := match s.tasks.live with
  | m :: _ => .next { s with tasks := { s.tasks with master := m } }
  | [] => .next s

end Sys2Proof.Machine
end

