-- ==== Sys2Proof/Machine/Stops.lean ====
section
/-!
DEFINITION. Stopping and resuming an instance: checkpoints, forced cuts and drains (R129-R131), resumption (R346), firmware's
commands to an escalated instance (R340), and tile transfers by firmware (R222).
-/

namespace Sys2Proof.Machine

/-! ## The safe-point table (R77) -/

/-- The safe-point entry of index k of an instance, if it can be read. DEDUCED (log 23). -/
def safeEntry (s : State) (i : Inst) (k : Nat) : Option (List Byte) := programRead s i.ctx (i.lrec.spTab.toNat + 32 * k) 32

/-- The vector registers that a live mask names, as physical registers under a rotating base (R76, R77). -/
def physMask (m : Nat) (rrb : BitVec 4) : BitVec 32 :=
  BitVec.ofNat 32 ((List.range 32).foldl (fun a n => if m.testBit n then a ||| 2 ^ phys n rrb else a) 0)

/-- What a safe-point entry names live; bit 0 of m live names nothing. DEDUCED (log 23). -/
def liveOf (bs : List Byte) (rrb : BitVec 4) : Live :=
  { s := BitVec.ofNat 32 (fieldAt bs 0 4), v := physMask (fieldAt bs 4 4) rrb
    g := BitVec.ofNat 64 (fieldAt bs 8 8), m := BitVec.ofNat 8 (fieldAt bs 0x10 1 / 2 * 2), t := BitVec.ofNat 16 (fieldAt bs 0x12 2) }

/-- The LOOPKs among the common words of core n from number a up to, not including, number b, by the common-word
record. -/
def loopksIn (s : State) (n a b : Nat) : Nat :=
  let c := s.core n
  (((c.cwRec.take (b - c.cwBase)).drop (a - c.cwBase)).filter (loopkAt s n)).length

/-- RRB as V left it at the common cut after `k` common words (R76, R77): without the rotations of the LOOPKs past it that a V which
has executed ENDT stands beyond, and at a LOOPK without that LOOPK's own. -/
def rrbAt (s : State) (n k : Nat) (loopk : Bool) : BitVec 4 :=
  let c := s.core n
  let v := (c.seqs.get {} Eng.v.tag).cc.toNat
  c.rrb - BitVec.ofNat 4 (loopksIn s n k v + if loopk && decide (k ≤ v) then 1 else 0)

/-- How a checkpoint at safe-point index k saves, with RRB as at the safe point: with the entry's live registers and stub, with
everything where the record names no table, or as a forced cut with the entry's address where the entry cannot be used.
DEDUCED (log 24). -/
def stopInfo (s : State) (i : Inst) (k : Nat) (rrb : BitVec 4) : StopInfo ⊕ W64 :=
  if i.lrec.spTab = 0 then .inl { index := k }
  else
    let bad : StopInfo ⊕ W64 := .inr (BitVec.ofNat 64 (i.lrec.spTab.toNat + 32 * k))
    match safeEntry s i k with
    | none => bad
    | some bs =>
      if fieldAt bs 0x14 4 ≥ i.lrec.textLen then bad
      else
        .inl { index := k, live := liveOf bs rrb, stub := if fieldAt bs 0x11 1 % 2 = 1 then some (fieldAt bs 0x14 4) else none }

/-! ## Stops (R129-R131) -/

/-- Every sequencer has reached the count that a checkpoint stops at. -/
def Core.reached (c : Core) (k : BitVec 32) : Bool :=
  Eng.all.all (fun e => let q := c.seqs.get {} e.tag; q.ended || decide (k.toNat ≤ q.cc.toNat))

/-- A stop request of core n that is a checkpoint, outside a handler. -/
def checkpointing (s : State) (n : Nat) : Option StopReq :=
  let c := s.core n
  if c.mode = .handler ∨ c.inst.isNone ∨ c.trapPend.isSome ∨ c.abandon.isSome ∨ !c.active then none
  else c.stopReq.filter (fun r => !r.drain)

/-- A stop is counted as a forced cut. DEDUCED (log 59). -/
def countForced (s : State) : State := { s with tasks := { s.tasks with nforce := satInc 16 s.tasks.nforce } }

/-- CHECKPOINT_COMPLETE (R130, R131): all sequencers stand at the common cut and their ordinary accesses are performed: the
instance is saved and parked. DEDUCED (log 59). -/
def execCheckpointComplete (n : Nat) (s : State) : Out :=
  let c := s.core n
  match checkpointing s n, c.inst with
  | some r, some i =>
    match r.k with
    | none => .next s
    | some k =>
      if c.mode ≠ .run ∨ r.cut ∨ !c.reached k ∨ !quiet s n then .next s
      else
        let s1 := s.setCore n c.cutAll
        match stopInfo s i r.index (rrbAt s n k.toNat r.loopk) with
        | .inl info =>
          let s2 := parkInst s1 n info false
          .next { s2 with tasks := { s2.tasks with nckpt := satInc 16 s2.tasks.nckpt } }
        | .inr a =>
          let s2 := parkInst s1 n { forced := true, trap := some ⟨0x1A, a, 0, false⟩ } false
          .next (countForced { s2 with tasks := { s2.tasks with cause := 0x1A } })
  | _, _ => .next s

/-- FORCED_CUT (R131): a checkpoint that is not complete SPDMAX cycles after its request cuts every sequencer at its word
boundary, and once their ordinary accesses are performed it saves all registers. -/
def execForcedCut (n : Nat) (s : State) : Out :=
  let c := s.core n
  match checkpointing s n with
  | none => .next s
  | some r =>
    if s.cycle < r.since + c.spdmax then .next s
    else
      let c := { c.cutAll with stopReq := some { r with cut := true } }
      let s := s.setCore n c
      if quiet s n then
        let stub := if c.mode = .stub then some (c.seqs.get {} 0).pc else none
        .next (countForced (parkInst s n { forced := true, stub := stub } false))
      else .next s

/-- DRAIN_BUDGET_EXPIRY (R129): a drain beyond its budget becomes a checkpoint from this cycle on, outside a handler. -/
def execDrainBudgetExpiry (n : Nat) (s : State) : Out :=
  let c := s.core n
  match c.stopReq with
  | none => .next s
  | some r =>
    if r.drain ∧ c.mode ≠ .handler ∧ r.since + r.budget ≤ s.cycle then
      .next (s.setCore n { c with stopReq := some (StopReq.begin c r.serves s.cycle) })
    else .next s

/-! ## Resumption (R346) -/

/-- An operation that the stopped instance issued is still to perform its writes (R132). A copy that stands behind a saved entry does not
hold the resumption, which alone returns the entry. DEDUCED (log 33). -/
def backgroundOf (s : State) (n : Nat) (key : Nat × Nat) : Bool :=
  let c := s.core n
  c.copies.any (fun o => decide (o.owner = key) && !stuck c o) || c.bmvs.any (fun b => decide (b.owner = key)) ||
  s.fabric.sends.any (fun d => decide (d.owner = key) && decide (d.st = 0)) ||
  s.fabric.bulks.any (fun b => decide (b.owner = key) && decide (b.lines ≠ 0) && decide (b.st = 0)) ||
  s.accs.any (fun a => decide (a.owner = key) && !a.atCore)

/-- A sequencer as its record's header holds it, with what the stop kept beside the record: whether it is in its kernel and past
which safe point (R70, R76, R130), and what it has acquired (R168). A pc that firmware has moved stands past no safe point. -/
def seqOf (bs : List Byte) (k : Clk) (h : SeqState) (e : Eng) : SeqState :=
  let t := e.tag
  { inKernel := h.inKernel, inIter := h.inIter, lastSafe := h.lastSafe, acq := h.acq, crel := h.crel
    atSafe := if fieldAt bs (0x10 + 2 * t) 2 = h.pc then h.atSafe else none
    pc := fieldAt bs (0x10 + 2 * t) 2, cc := BitVec.ofNat 32 (fieldAt bs (0x20 + 4 * t) 4)
    iter := BitVec.ofNat 32 (fieldAt bs (0x38 + 4 * t) 4), wc := BitVec.ofNat 24 (fieldAt bs (0x50 + 4 * t) 4), vclk := k
    ended := (fieldAt bs 4 4).testBit (6 + t) }

/-- The clock that every sequencer holds after a resumption: wc of each. -/
def clockOf (bs : List Byte) : Clk :=
  let w (t : Nat) : BitVec 24 := BitVec.ofNat 24 (fieldAt bs (0x50 + 4 * t) 4)
  ⟨w 0, w 1, w 2, w 3, w 4⟩

/-- A register map restored from `n` fields of `size` bytes at offset o, of which only those that f covers are live. -/
def restoreRegs {w : Nat} (bs : List Byte) (o size n : Nat) (f : Nat → Bool) (key : Nat → Nat) : Sparse (BitVec w) :=
  (List.range n).foldl (fun m i => if f i then m.set 0 (key i) (BitVec.ofNat w (fieldAt bs (o + size * i) size)) else m) {}

/-- Steps 3, 7 and 8 of R346: the registers, stacks, events, table, counts and rings of the record. -/
def Core.restore (c : Core) (bs : List Byte) (p : Stopped) : Core :=
  let k := clockOf bs
  let live := p.live
  let depth (q : Nat) : Nat := min 8 (bitsOf (fieldAt bs 0x68 2) (4 * q) 4)
  let slotClk (x : Slot) : Slot := { x with clk := some k }
  let ring (r : Ring) : Ring := { r with slots := ⟨r.slots.entries.map (fun e => (e.1, slotClk e.2))⟩ }
  let low := ((List.range 5).map (fun t => fieldAt bs (0x20 + 4 * t) 4)).foldl min (fieldAt bs 0x20 4)
  { c.cleared with
    inst := some { p.inst with again := p.inst.again + 1 }
    seqs := Eng.all.foldl (fun (m : Sparse SeqState) (e : Eng) => m.set {} e.tag (seqOf bs k (p.hid.get {} e.tag) e)) {}
    sreg := restoreRegs bs 0x100 8 32 (fun n => live.s.getLsbD n && decide (n ≠ 0)) id
    greg := restoreRegs bs 0x200 8 64 (fun n => live.g.getLsbD n) (fun n => 16 + n)
    stack := (List.range 4).foldl (fun m q => m.set [] (q + 1)
      (((List.range (depth q)).map (fun i => BitVec.ofNat 64 (fieldAt bs (0x400 + 64 * q + 8 * i) 8))).reverse)) {}
    mreg := restoreRegs bs 0x500 32 8 (fun n => live.m.getLsbD n && decide (n ≠ 0)) id
    fmtTab := restoreRegs bs 0x600 4 16 (fun _ => true) id
    events := (List.range 64).foldl (fun m ev => m.set [] ev
      ((List.range (min 8 (fieldAt bs (0x640 + ev) 1))).map (fun i =>
        { value := BitVec.ofNat 32 (fieldAt bs (0x1000 + 32 * ev + 4 * i) 4), clk := k, rel := (p.posts.get [] ev).getD i [] }))) {}
    vreg := (List.range 32).foldl (fun m n =>
      if live.v.getLsbD n then m.set {} n (restoreRegs bs (0x7000 + 1024 * n) 4 256 (fun _ => true) id) else m) {}
    rrb := BitVec.ofNat 4 (fieldAt bs 0x64 1)
    slipw := BitVec.ofNat 4 (fieldAt bs 0x65 1)
    detmode := decide (fieldAt bs 0x66 1 % 2 = 1)
    rings := ⟨p.rings.entries.map (fun e => (e.1, ring e.2))⟩
    cwRec := (List.range (fieldAt bs 0xA0 1)).map (fun i => fieldAt bs (0xA2 + 2 * i) 2)
    cwBase := low
    replay := c.replay.filter (fun x => x.owner ≠ p.inst.key) ++ p.replay ++ c.replay.filter (fun x => x.owner = p.inst.key)
    active := true }

/-- Step 5 of R346: the tiles of the held and spilled masks (R220). -/
def Core.settleTiles (c : Core) (x held spilled : Nat) : Core :=
  (List.range 16).foldl (fun c t =>
    if held.testBit t ∧ !spilled.testBit t ∧ c.tileSt.get .free t = .held ∧ c.tileOwner.get 0 t = x then
      { c with tileSt := c.tileSt.set .free t .active }
    else if held.testBit t ∨ spilled.testBit t then { c with tileAbs := c.tileAbs ||| (1#16 <<< t) }
    else c) { c with tileAbs := 0 }

/-- Instruction memory as step 2 of R346 leaves it: as it stands, from the text area of the save slot, or staged again. None is a text
that cannot be read: the instance is discarded and its launch stops with status 2, which R133 does not say of a text area.
DESIGN CHOICE (log 86). -/
def restage (s : State) (n : Nat) (p : Stopped) : Option State :=
  let c := s.core n
  let mark (q : Stopped) : Stopped := { q with restage := true }
  if !p.restage then some s
  else if p.inst.overlay then
    (plinthRead s p.inst.ctx (saveSlot s p.inst.ctx n p.inst.cls + 0x10000) 0x40000).map (fun bs =>
      { s.setCore n { c with parked := c.parked.map mark, spilled := c.spilled.map mark } with
        imem := (List.range 65536).foldl (fun m w => m.set 0 (65536 * n + w) (BitVec.ofNat 32 (fieldAt bs (4 * w) 4))) s.imem })
  else stageText s n p.inst

/-- A spilled instance's record is copied back into the save buffer (R133). -/
def unspill (s : State) (n : Nat) (p : Stopped) : State :=
  if p.spilled then { s with mem := (recordOf s n p).zipIdx.foldl (fun m e => putByte m (saveLoc n e.2) e.1) s.mem } else s

/-- The stub word offset of a record, where its STUB flag is set. DEDUCED (log 24). -/
def stubOf (bs : List Byte) : Option Nat := if (fieldAt bs 4 4).testBit 1 then some (fieldAt bs 0x0C 4) else none

/-- S takes up a rebuild stub; its own pc, ENDED flag and safe point wait for the stub's RTE (R134). -/
def Core.enterStub (c : Core) (at_ : Nat) : Core :=
  let q := c.seqs.get {} 0
  { c with
    mode := .stub, stubPc := q.pc, stubEnded := q.ended, stubSafe := q.atSafe
    seqs := c.seqs.set {} 0 { q with pc := at_, ended := false, atSafe := none } }

/-- Step 6 of R346: where its set was cancelled meanwhile, the instance is abandoned at its leader's next safe point (R315). -/
def Core.rebind (c : Core) (s : State) : Core :=
  match c.inst.bind (·.bind) with
  | some b => if (s.set b.set).state ≠ 1 then { c with cancel := some ((c.leader.map Eng.tag).getD 0) } else c
  | none => c

/-- The trap that a record holds pending (R345). The record has no CW: a trap that is entered from it has 0. DESIGN CHOICE (log 97). -/
def trapOf (bs : List Byte) : Option TrapPend :=
  if (fieldAt bs 4 4).testBit 3 then
    some ⟨fieldAt bs 0x78 2, BitVec.ofNat 64 (fieldAt bs 0x80 8), bitsOf (fieldAt bs 0x7A 2) 0 3, false⟩
  else none

/-- Instance p of core n is restored and its sequencers restart (R346). -/
def resume (s : State) (n : Nat) (p : Stopped) : State :=
  let s := unspill s n p
  let bs := readLocs s 0 (saveLoc n 0) recordBytes
  match restage s n p with
  | none => discardStopped (s.mapLaunch p.inst.launch (Launch.stop 2)) n p
  | some s =>
    let c := s.core n
    let others (q : Stopped) : Bool := decide (q.inst.key ≠ p.inst.key)
    let c := { c with parked := c.parked.filter others, spilled := c.spilled.filter others }
    let c := (c.restore bs p).settleTiles p.inst.ctx (fieldAt bs 0x6C 2) (fieldAt bs 0x6E 2)
    let c := c.rebind s
    let c := c.keepBars (fun a => a = fieldAt bs 0x10 2 || decide (some a = stubOf bs))
    let c := match stubOf bs with
      | some w => c.enterStub w
      | none => c
    match trapOf bs with
    | some tp => enterTrap (s.setCore n { c with trapPend := some tp }) n tp
    | none => s.setCore n c

/-- Core n is the next to take an instance of a class below cls: that placement, which a stop has made room for, comes before
the resumption (R127, R133). -/
def newcomerFor (s : State) (n cls : Nat) : Bool :=
  s.tasks.live.contains (dieOf n) && (launchesFor s (dieOf n)).any (fun l =>
    decide (l.cls < cls) && (coreFor s (dieOf n) l).any (fun c => decide (c.1 = n)))

/-- INSTANCE_RESUME (R133, R346): the core runs nothing and no instance of a lower class comes first, the instance stopped
last awaits no command, and nothing that it issued is outstanding. -/
def execInstanceResume (n : Nat) (s : State) : Out :=
  let c := s.core n
  match c.lastStopped with
  | none => .next s
  | some p =>
    if c.inst.isSome ∨ p.escalated ∨ backgroundOf s n p.inst.key ∨ newcomerFor s n p.inst.cls then .next s
    else .next (resume s n p)

/-! ## Firmware's commands (R340) -/

/-- The escalated instance that awaits a command: the one stopped last. -/
def Core.escalated (c : Core) : Option Stopped := (c.parked.toList ++ c.spilled).find? (·.escalated)

/-- CORE_CMD_RESUME (R340): the escalated instance may resume. -/
def execCoreCmdResume (n : Nat) (s : State) : Out :=
  let c := s.core n
  match c.escalated with
  | none => .next s
  | some p =>
    let f (q : Stopped) : Stopped := if q.inst.key = p.inst.key then { q with escalated := false } else q
    .next (s.setCore n { c with escPend := false, parked := c.parked.map f, spilled := c.spilled.map f })

/-- CORE_CMD_TERMINATE (R340): the escalated instance is discarded, and its launch stops with status 4. -/
def execCoreCmdTerminate (n : Nat) (s : State) : Out :=
  let c := s.core n
  match c.escalated with
  | none => .next s
  | some p =>
    let s1 := s.setCore n { c with escPend := false }
    .next ((discardStopped s1 n p).mapLaunch p.inst.launch (Launch.stop 4))

/-! ## Tile transfers by firmware (R222) -/

/-- STATE of CORE_TILE. -/
def Core.ctileSt (c : Core) : Nat := bitsOf c.ctile.toNat 14 2

/-- A GO is accepted where the core runs no instance and nothing hinders the transfer. DEDUCED (log 82). An instance whose text is
still being staged counts as running. DESIGN CHOICE (log 93). -/
def goOk (c : Core) (restore : Bool) : Bool :=
  c.inst.isNone && !c.tbusy && (if restore then decide (c.ctileSt = 1 ∨ c.ctileSt = 2) else !c.tfull)

/-- An accepted GO: the transfer is that of CORE_TILE's fields as the write left them, and it is not a refused one.
DEDUCED (log 82). -/
def Core.go (c : Core) (restore : Bool) : Core :=
  let w := if restore then c.ctile ||| 0x10#17 else c.ctile &&& 0x1FFEF#17
  { c with tbusy := true, trefused := false, ctile := w, tjob := w }

/-- A GO sets REFUSED and changes nothing else where it is not accepted (R222). DEDUCED (log 82). -/
def tileGo (n : Nat) (restore : Bool) (s : State) : State :=
  let c := s.core n
  s.setCore n (if goOk c restore then c.go restore else { c with trefused := true })

/-- TILE_SAVE_GO and TILE_RESTORE_GO (R222). -/
def execTileSaveGo (n : Nat) (s : State) : Out := .next (tileGo n false s)
def execTileRestoreGo (n : Nat) (s : State) : Out := .next (tileGo n true s)

/-- TILE_TRANSFER_COMPLETE (R222): the save or restore happens, and BUSY clears. A save follows the stores to the area that the core
has seen, and a restore does not look at the area's poison. DESIGN CHOICE (log 93). -/
def execTileTransferComplete (n : Nat) (s : State) : Out :=
  let c := s.core n
  if !c.tbusy ∨ (!c.tjob.getLsbD 4 ∧ imageHeld s n (spLoc n transferArea)) then .next s
  else
    let s := s.setCore n { c with tbusy := false }
    .next (if c.tjob.getLsbD 4 then restoreTile s n (bitsOf c.tjob.toNat 0 4) transferArea (bitsOf c.tjob.toNat 8 6) (bitsOf c.tjob.toNat 14 2)
      else saveTile s n (bitsOf c.tjob.toNat 0 4) transferArea)

end Sys2Proof.Machine
end

