-- ==== Sys2Proof/Machine/Plinth.lean ====
section
/-!
DEFINITION. The plinth's blocks: contexts (R110), key slots (R157, R258), submission queues (R349, R350), the replay queue's
commands (R161), patrol scrub (R164), boot and measurements (R353-R355), the lifetime store (R357), power (R360), and BAR2
(R351).
-/

namespace Sys2Proof.Machine

/-- INT_PEND bit k of the service core is set (R335). -/
def raiseInt (s : State) (k : Nat) : State :=
  { s with plinth := { s.plinth with intPend := s.plinth.intPend ||| (1#8 <<< k) } }

/-! ## Contexts (R110) -/

/-- The descriptor of context x as 64 bytes. -/
def descOf (s : State) (x : Nat) : List Byte := (List.range 64).map (fun o => s.plinth.ctxTab.get 0 (64 * x + o))

/-- A descriptor that breaks no stated limit. -/
def descOk (bs : List Byte) : Bool :=
  let f := fieldAt bs
  decide (f 8 2 < 448) && decide (f 0xA 1 < 4) && decide (f 0xB 1 < 4) && decide (1 ≤ f 0xC 1) && decide (f 0xC 1 ≤ 8) &&
  decide (f 0xE 2 < 4096) && decide (f 0xE 2 + f 0x10 2 ≤ 4096) && decide (f 0x12 1 < 64) && decide (f 0x12 1 + f 0x13 1 ≤ 64) &&
  decide (f 0x1C 4 = 0) && decide (f 0x20 8 % 128 = 0) && decide (4 ≤ f 0x28 1) && decide (f 0x28 1 ≤ 20) &&
  decide (f 0x29 7 = 0) && decide (f 0x30 8 % 0x10000 = 0) && decide (f 0x38 8 = 0)

/-- A byte of the context table. -/
def setCtxByte (s : State) (a : Nat) (b : Byte) : State :=
  { s with plinth := { s.plinth with ctxTab := s.plinth.ctxTab.set 0 a b } }

/-- CONTEXT_VALID_SET (R110): the bit is set, unless the descriptor breaks a limit; then TASK_STAT records 0x001A. -/
def setContext (x : Nat) (s : State) : State :=
  if ctxValid s x then s
  else if descOk (descOf s x) then setCtxByte s (64 * x + 0xB) (s.plinth.ctxTab.get 0 (64 * x + 0xB) ||| 1#8)
  else { s with tasks := { s.tasks with cause := 0x1A } }

/-- The consumed entries of queue k as launches that are cancelled: each receives a number and completes with status 5. -/
def cancelEntries (s : State) (k : Nat) (desc : List Byte) : State :=
  let q := s.queue k
  let s1 := q.pend.foldl (fun (s : State) e =>
    let num := s.tasks.lastNum + 1
    let l : Launch := { num := num, ctx := k / 16, queue := k % 16, cls := 3, lrec := {}, tab := {}, compAddr := e.compAddr
                        flags := e.flags, compCtr := e.compCtr, stopped := true, status := 5, desc := some desc }
    { s with tasks := { s.tasks with lastNum := num, launches := s.tasks.launches ++ [l] } }) s
  s1.setQueue k { s1.queue k with pend := [], check := none }

/-- CONTEXT_VALID_CLEAR (R110): the bit is cleared, and what is left of the context's work is cancelled. An accepted child of it completes
as its other launches do, and adds 1 to its parent link's counter. DESIGN CHOICE (log 92). The overflow queue is empty then, and its head stands where it stood.
DESIGN CHOICE (log 94). -/
def clearContext (x : Nat) (s : State) : State :=
  if !ctxValid s x then s
  else
    let desc := descOf s x
    let s1 := s.cores.keys.foldl (fun t n => discardWhere t n (fun i => i.ctx = x)) s
    let s2 := { s1 with tasks := { s1.tasks with
      launches := s1.tasks.launches.map (fun l => if l.ctx = x then { l.stop 5 with status := 5, desc := some desc } else l)
      pools := (List.range 4).foldl (fun m d => m.set [] d ((m.get [] d).filter (fun ch => ch.ctx ≠ x))) s1.tasks.pools
      ovf := s1.tasks.ovf.set [] x [] } }
    let s3 := (List.range 8).foldl (fun t q => cancelEntries t (16 * x + q) desc) s2
    setCtxByte s3 (64 * x + 0xB) (s3.plinth.ctxTab.get 0 (64 * x + 0xB) &&& 0xFE#8)

def execContextValidSet (x : Nat) (s : State) : Out := .next (setContext x s)
def execContextValidClear (x : Nat) (s : State) : Out := .next (clearContext x s)

/-! ## Key slots (R157, R258) -/

/-- VALID of key slot k is written: setting it clears a link slot's packet counter. -/
def setKeyValid (k : Nat) (v : Bool) (s : State) : State :=
  let s1 := { s with plinth := { s.plinth with keyVal := s.plinth.keyVal.set false k v } }
  if v ∧ 448 ≤ k then
    { s1 with fabric := { s1.fabric with lkey := s1.fabric.lkey.set {} k { s1.fabric.lkey.get {} k with counter := 0 } } }
  else s1

/-- KEY_SLOT_VALID. -/
def execKeySlotValid (k : Nat) (v : Bool) (s : State) : Out := .next (setKeyValid k v s)

/-! ## Submission queues (R349, R350) -/

/-- After a signature failure the device answers reads of BOOT_STAT and nothing else (R353). -/
def State.answers (s : State) : Bool := decide (s.plinth.stage ≠ 0xE#4)

/-- The bytes of slot i of a queue's entry area. -/
def slotBytes (s : State) (x q i : Nat) : List Byte :=
  (List.range 64).map (fun o => s.plinth.qentry.get 0 (0x8000 * x + 0x1000 * q + 64 * i + o))

/-- The launch entry that 64 bytes hold (R113). -/
def entryOf (bs : List Byte) : QEntry :=
  { recAddr := BitVec.ofNat 64 (fieldAt bs 0 8), tabAddr := BitVec.ofNat 64 (fieldAt bs 8 8)
    compAddr := BitVec.ofNat 64 (fieldAt bs 0x10 8), flags := fieldAt bs 0x18 2, compCtr := fieldAt bs 0x1A 2
    clean := decide (fieldAt bs 0x18 2 < 4) && decide (fieldAt bs 0x1C 34 = 0) }

/-- The sequence number after `n` (R349). -/
def nextSequence (n : Nat) : Nat := if n = 65535 then 1 else n + 1

/-- Consumes the entries of a queue whose sequence numbers match, from the head on. Where the head's does not, the queue
waits from now on. -/
def consume (s : State) (x q : Nat) : Nat → Queue → Queue
  | 0, u => u
  | k + 1, u =>
    if u.halted ∨ u.head = u.tail then { u with check := none }
    else
      let bs := slotBytes s x q u.head
      if fieldAt bs 0x3E 2 = u.nextSeq then
        consume s x q k { u with head := (u.head + 1) % 64, nextSeq := nextSequence u.nextSeq, check := none
                                 pend := u.pend ++ [entryOf bs] }
      else { u with check := u.check.or (some s.cycle) }

def checkQueue (s : State) (x q : Nat) : State := s.setQueue (16 * x + q) (consume s x q 65 (s.queue (16 * x + q)))

/-- The queue exists: its context is valid and has so many (R350). -/
def queueOpen (s : State) (x q : Nat) : Bool := ctxValid s x && decide (q < ctxField s x 0x0C 1)

/-- NOTIFY (R350): the host has written entry bytes; the tail moves and the head is checked. -/
def execNotify (x q tail : Nat) (relaxed : Bool) (entries : List (Nat × Byte)) (s : State) : Out :=
  if !s.answers then .next s
  else
  let p := s.plinth
  let s1 := { s with plinth := { p with
    qentry := entries.foldl (fun m e => m.set 0 (0x8000 * x + 0x1000 * q + e.1) e.2) p.qentry
    nrelax := if relaxed then satInc 32 p.nrelax else p.nrelax } }
  if !queueOpen s1 x q then .next s1
  else
    let u := s1.queue (16 * x + q)
    .next (checkQueue (s1.setQueue (16 * x + q) { u with tail := tail }) x q)

/-- SEQUENCE_RECHECK (R350). -/
def execSequenceRecheck (x q : Nat) (s : State) : Out :=
  if queueOpen s x q ∧ (s.queue (16 * x + q)).check.isSome then .next (checkQueue s x q) else .next s

/-- Cycles in a millisecond and in ten microseconds (R6): 21 cycles last 20 ns. -/
def cyclesPerMs : Nat := 1050000

/-- QUEUE_HALT (R350): the head's number has not matched for a millisecond. It is read once more: a number that the host has stored
meanwhile is consumed instead. -/
def execQueueHalt (x q : Nat) (s : State) : Out :=
  let u := s.queue (16 * x + q)
  match u.check with
  | some c =>
    if c + cyclesPerMs ≤ s.cycle then
      let t := checkQueue s x q
      if queueOpen s x q ∧ (t.queue (16 * x + q)).head ≠ u.head then .next t
      else .next (raiseVector (raiseInt (s.setQueue (16 * x + q) { u with halted := true, check := none }) 4) 513)
    else .next s
  | none => .next s

/-- QSTAT_HALTED_CLEAR (R350): checking resumes at the head. -/
def execQstatHaltedClear (x q : Nat) (s : State) : Out :=
  let s1 := s.setQueue (16 * x + q) { s.queue (16 * x + q) with halted := false }
  .next (if queueOpen s1 x q then checkQueue s1 x q else s1)

/-! ## The replay queue (R161) -/

/-- The entries that firmware sees parked, in park order. -/
def Core.parkedNow (c : Core) : List Parked := c.replay.filter (fun p => !p.failed)

/-- An older entry of the same class, sequencer and instance is still parked, or saved with its instance (R163). -/
def Core.olderParked (c : Core) (p : Parked) : Bool :=
  c.parkedAll.any (fun x => !x.failed && decide (x.cls = p.cls) && decide (x.eng = p.eng) && decide (x.owner = p.owner) &&
    decide (x.id < p.id))

/-- Entry p has left the queue of core n: the record of a stopped instance counts it no longer (R132, R163). DESIGN CHOICE (log 86). -/
def leftQueue (s : State) (n : Nat) (p : Parked) : State :=
  if p.owner = (s.core n).owner then s else noteSaved s n p.owner false

/-- The parked write p of core n is tried again: it is performed, or stays with its new cause. DEDUCED (log 64). -/
def retryWrite (s : State) (n : Nat) (p : Parked) : State :=
  let again (s : State) (cause : Nat) : State :=
    let c := s.core n
    raiseInt (s.setCore n { c with replay := c.replay.map (fun x =>
      if x.id = p.id then { x with cause := cause, retry := false } else x) }) 1
  match xlate s n p.ctx p.va.toNat with
  | (s, none) => again s 8
  | (s, some t) =>
    if t.w = true then
      let pl := t.place s p.va.toNat
      let s1 := writeBytes s pl.2 (p.bytes.map (fun b => (pl.1 + b.1, b.2)))
      let s2 := if p.poison then { s1 with poison := s1.poison.set false (pl.1 / lineBytes) true } else s1
      let c := s2.core n
      leftQueue (s2.setCore n { c with replay := c.replay.filter (fun x => x.id ≠ p.id) }) n p
    else
      let d := s.core n
      again (s.setCore n { d with nfault := satInc 16 d.nfault }) 9

/-- Where a retry would write now, if it can. -/
def parkedLocs (s : State) (n : Nat) (p : Parked) : List Nat := match (xlate s n p.ctx p.va.toNat).2 with
  | some t => if t.w then p.bytes.map (fun b => (t.place s p.va.toNat).1 + b.1) else []
  | none => []

/-- An older access or operation of the parked write's sequencer and class is still to be performed, or a store to its bytes that
comes before it: one that the core has seen, or that an engine-scope fence puts before it (R166, R167, R170).
DEDUCED (log 64). -/
def writeHeld (s : State) (n : Nat) (p : Parked) : Bool :=
  seenOver s n (parkedLocs s n p) || fencedOver s n (Eng.ofTag p.eng) p.issued (parkedLocs s n p) ||
  s.accs.any (fun a => decide (a.n = n) && decide (a.eng = p.eng) && decide (a.owner = p.owner) && decide (a.cls = p.cls) &&
    decide (a.no < p.issued)) ||
  backgroundHeld s n p.owner (Eng.ofTag p.eng) p.cls p.issued ||
  s.fabric.sends.any (fun d => decide (d.core = n) && decide (d.eng = p.eng) && decide (d.owner = p.owner) &&
    decide (d.cls = p.cls) && decide (d.st = 0) && decide (d.acc < p.issued))

/-- Every retry of core n that no older entry and no older access of its class holds back. DEDUCED (log 64). -/
def runRetries (n : Nat) : Nat → State → State
  | 0, s => s
  | k + 1, s =>
    let c := s.core n
    match c.replay.find? (fun p => p.retry && !p.failed && !c.olderParked p && !writeHeld s n p) with
    | some p => runRetries n k (retryWrite s n p)
    | none => s

/-- RETRY of entry e of core n. -/
def retryEntry (n e : Nat) (s : State) : State :=
  let c := s.core n
  match c.parkedNow[e]? with
  | none => s
  | some p =>
    runRetries n 32 (s.setCore n { c with replay := c.replay.map (fun x => if x.id = p.id then { x with retry := true } else x) })

/-- FAIL of entry e of core n: it leaves the queue, and its cause waits for its sequencer; of an instance that is gone,
nothing is left. -/
def failEntry (n e : Nat) (s : State) : State :=
  let c := s.core n
  match c.parkedNow[e]? with
  | none => s
  | some p =>
    let lives := decide (p.owner = (0, 0)) || c.insts.any (fun i => i.key = p.owner)
    let fail (x : Parked) : Option Parked := if x.id ≠ p.id then some x else if lives then some { x with failed := true } else none
    runRetries n 32 (leftQueue (s.setCore n { c with replay := c.replay.filterMap fail }) n p)

/-- REPLAY_RETRY and REPLAY_FAIL. -/
def execReplayRetry (n e : Nat) (s : State) : Out := .next (retryEntry n e s)
def execReplayFail (n e : Nat) (s : State) : Out := .next (failEntry n e s)

/-! ## Patrol scrub (R164) -/

/-- A location that exists: a byte of a scratchpad, or of fitted main memory. -/
def locExists (a : Nat) : Bool :=
  (decide (mainBase ≤ a) && decide (a < mainBase + 16 * 2 ^ 39)) ||
  (decide (spBase ≤ a) && decide (a < spBase + 128 * 0x400000 + 0x100000))

/-- A correctable main-memory error of module m: its saturating counter in the lifetime store's staging copy counts it (R164,
R358). DESIGN CHOICE (log 83). -/
def countCorrected (s : State) (m : Nat) : State :=
  let p := s.plinth
  let v := leNat ((List.range 8).map (fun i => p.staging.get 0 (0x800 + 8 * m + i)))
  { s with plinth := { p with staging := (locate (0x800 + 8 * m) (leBytes 8 (satInc 64 v))).foldl (fun b e => b.set 0 e.1 e.2) p.staging } }

/-- PATROL_SCRUB: an error that cannot be corrected poisons the line that holds a location, and the error log says so; one that
can is counted. DESIGN CHOICE (log 83). -/
def execPatrolScrub (f : Scrub) (s : State) : Out :=
  let a := f.loc
  if !locExists a then .next s
  else if f.corrected then .next (if isMain a then countCorrected s ((a - mainBase) / 2 ^ 39) else s)
  else
    let s1 := { s with poison := s.poison.set false (a / lineBytes) true }
    let o := (a - mainBase) / lineBytes * lineBytes
    if isMain a then .next (logError s1 3 0xFF 0 (o / 2 ^ 39) (BitVec.ofNat 64 (2 ^ 43 + o)) 0)
    else .next (logError s1 3 0xFF 0 (Config.freeNat s.nonce 13) (BitVec.ofNat 64 (Config.freeNat s.nonce 14)) 0)

/-! ## SHA-256 and measurements (R354) -/

def shaK : List Word :=
  [0x428a2f98#32, 0x71374491#32, 0xb5c0fbcf#32, 0xe9b5dba5#32, 0x3956c25b#32, 0x59f111f1#32, 0x923f82a4#32, 0xab1c5ed5#32,
   0xd807aa98#32, 0x12835b01#32, 0x243185be#32, 0x550c7dc3#32, 0x72be5d74#32, 0x80deb1fe#32, 0x9bdc06a7#32, 0xc19bf174#32,
   0xe49b69c1#32, 0xefbe4786#32, 0x0fc19dc6#32, 0x240ca1cc#32, 0x2de92c6f#32, 0x4a7484aa#32, 0x5cb0a9dc#32, 0x76f988da#32,
   0x983e5152#32, 0xa831c66d#32, 0xb00327c8#32, 0xbf597fc7#32, 0xc6e00bf3#32, 0xd5a79147#32, 0x06ca6351#32, 0x14292967#32,
   0x27b70a85#32, 0x2e1b2138#32, 0x4d2c6dfc#32, 0x53380d13#32, 0x650a7354#32, 0x766a0abb#32, 0x81c2c92e#32, 0x92722c85#32,
   0xa2bfe8a1#32, 0xa81a664b#32, 0xc24b8b70#32, 0xc76c51a3#32, 0xd192e819#32, 0xd6990624#32, 0xf40e3585#32, 0x106aa070#32,
   0x19a4c116#32, 0x1e376c08#32, 0x2748774c#32, 0x34b0bcb5#32, 0x391c0cb3#32, 0x4ed8aa4a#32, 0x5b9cca4f#32, 0x682e6ff3#32,
   0x748f82ee#32, 0x78a5636f#32, 0x84c87814#32, 0x8cc70208#32, 0x90befffa#32, 0xa4506ceb#32, 0xbef9a3f7#32, 0xc67178f2#32]

def shaInit : List Word :=
  [0x6a09e667#32, 0xbb67ae85#32, 0x3c6ef372#32, 0xa54ff53a#32, 0x510e527f#32, 0x9b05688c#32, 0x1f83d9ab#32, 0x5be0cd19#32]

def shaSmall (x : Word) (a b c : Nat) : Word := x.rotateRight a ^^^ x.rotateRight b ^^^ (x >>> c)
def shaBig (x : Word) (a b c : Nat) : Word := x.rotateRight a ^^^ x.rotateRight b ^^^ x.rotateRight c

/-- The message schedule, latest word first. -/
def shaExpand : Nat → List Word → List Word
  | 0, l => l
  | k + 1, l =>
    shaExpand k ((shaSmall (l.getD 1 0) 17 19 10 + l.getD 6 0 + shaSmall (l.getD 14 0) 7 18 3 + l.getD 15 0) :: l)

/-- One round on the eight working words. -/
def shaRound (v : List Word) (kw : Word × Word) : List Word :=
  match v with
  | [a, b, c, d, e, f, g, h] =>
    let t1 := h + shaBig e 6 11 25 + ((e &&& f) ^^^ (~~~e &&& g)) + kw.1 + kw.2
    let t2 := shaBig a 2 13 22 + ((a &&& b) ^^^ (a &&& c) ^^^ (b &&& c))
    [t1 + t2, a, b, c, d + t1, e, f, g]
  | _ => v

/-- One block of 64 bytes. -/
def shaBlock (h : List Word) (bs : List Byte) : List Word :=
  let w := (List.range 16).map (fun i => ((bs.drop (4 * i)).take 4).foldl (fun (a : Word) b => (a <<< 8) ||| b.setWidth 32) 0)
  let ws := (shaExpand 48 w.reverse).reverse
  ((shaK.zip ws).foldl shaRound h).zipWith (· + ·) h

/-- A message with its padding: a one bit, zeros, and its length in bits, in whole blocks. -/
def shaPad (bs : List Byte) : List Byte :=
  bs ++ [0x80#8] ++ List.replicate ((119 - bs.length % 64) % 64) 0#8 ++ (leBytes 8 (8 * bs.length)).reverse

def shaBlocks : Nat → List Word → List Byte → List Word
  | 0, h, _ => h
  | k + 1, h, bs => shaBlocks k (shaBlock h (bs.take 64)) (bs.drop 64)

/-- SHA-256 of a message, as 32 bytes. -/
def sha256 (bs : List Byte) : List Byte :=
  let p := shaPad bs
  (shaBlocks (p.length / 64) shaInit p).flatMap (fun w => (leBytes 4 w.toNat).reverse)

/-- M := SHA-256(M ‖ d): a measurement register and d hold byte j of their strings in bits 8j + 7 to 8j. -/
def extendBy (m d : BitVec 256) : BitVec 256 :=
  BitVec.ofNat 256 (leNat (sha256 (leBytes 32 m.toNat ++ leBytes 32 d.toNat)))

def extendMeas (s : State) (r : Nat) (d : BitVec 256) : State :=
  { s with plinth := { s.plinth with meas := s.plinth.meas.set 0 r (extendBy (s.plinth.meas.get 0 r) d) } }

/-- MEASUREMENT_EXTEND (R354): M0 and M1 accept extends only from the ROM, and the others only from firmware. -/
def execMeasurementExtend (r : Nat) (d : BitVec 256) (rom : Bool) (s : State) : Out :=
  .next (if decide (r ≤ 1) = rom then extendMeas s r d else s)

/-! ## Boot and attestation (R353, R355) -/

/-- The service core as the ROM hands it to firmware (R353). -/
def bootCore (c : Core) : Core := { c.cleared with active := true, slipw := 4, detmode := false, spdmax := 0x10000 }

/-- FTIME starts again at 0, and with it what is dated by it: monitors sample once more, and pauses count from now on. -/
def Fabric.rebase (f : Fabric) : Fabric :=
  { f with
    rings := ⟨f.rings.entries.map (fun e => (e.1, { e.2 with mon := f.monNow (e.1 / 32) (e.1 % 32) f.optTemp, monAt := 0 }))⟩
    fibres := ⟨f.fibres.entries.map (fun e => (e.1, { e.2 with
      pausedAt := 0, wholeAt := e.2.wholeAt.map (fun _ => 0), deafAt := e.2.deafAt.map (fun _ => 0) }))⟩ }

/-- POWER_GOOD (R353): the plinth leaves reset, the image is read into the service core's scratchpad, measured with SHA-256 and
verified, and firmware starts at word 0. Where the image lies there, and which step the ROM leaves in STAGE, are open.
DESIGN CHOICE (log 61). -/
def execPowerGood (im : BootImage) (s : State) : Out :=
  if s.plinth.powered then .next s
  else
    let s0 := writeBytes { s with cycle := 0, ftime := 0, fabric := s.fabric.rebase } 0 (locate (spLoc Config.serviceCore im.place) im.image)
    let s1 := extendMeas (extendMeas s0 0 im.romDigest) 1 (BitVec.ofNat 256 (leNat (sha256 im.image)))
    let p := { s1.plinth with powered := true }
    if !im.signatureOk then .next { s1 with plinth := { p with stage := 0xE } }
    else
      let s2 := { s1 with
        plinth := { p with fwver := im.version, stage := BitVec.ofNat 4 (Config.freeNat s.nonce 15 % 14) }
        imem := im.words.zipIdx.foldl (fun (m : Sparse Word) (e : Word × Nat) => m.set 0 (65536 * Config.serviceCore + e.2) e.1) s1.imem }
      .next (s2.setCore Config.serviceCore (bootCore (s2.core Config.serviceCore)))

/-- Bytes put into the host mailbox. -/
def putMail (s : State) (bs : List (Nat × Byte)) : State :=
  { s with plinth := { s.plinth with mailbox := bs.foldl (fun m e => m.set 0 e.1 e.2) s.plinth.mailbox } }

/-- The silicon revision, B0 (R353). -/
def siliconRev : Nat := 0x00B0

/-- The attestation report (R355): serial number, identity key and signature are the device's. -/
def attestReport (s : State) : List Byte :=
  let p := s.plinth
  let own (o n : Nat) (bs : List Byte) : List Byte := (List.range n).map (fun i => Config.identity (o + i) bs)
  let body := leBytes 4 1 ++ leBytes 4 siliconRev ++ leBytes 8 p.fwver.toNat ++ own 0x10 16 [] ++
    (List.range 32).map (fun i => p.mailbox.get 0 (0x40 + i)) ++
    (List.range 8).flatMap (fun r => leBytes 32 (p.meas.get 0 r).toNat) ++ own 0x140 64 []
  body ++ own 0x180 64 body

/-- Firmware answers the mailbox: the report and STATUS 2 for command 1, STATUS 1 for another, and vector 512. -/
def answerMail (s : State) : State :=
  let cmd := leNat ((List.range 4).map (fun i => s.plinth.mailbox.get 0 i))
  raiseVector (putMail s (if cmd = 1 then locate 0x100 (attestReport s) ++ locate 4 (leBytes 4 2) else locate 4 (leBytes 4 1))) 512

/-- ATTESTATION_REQUEST (R355): the host has written the nonce and then CMD, and firmware is told; without a nonce, firmware
answers the request that stands in the mailbox. No address is given by which firmware reaches the mailbox.
DESIGN CHOICE (log 61). -/
def execAttestationRequest (cmd : Nat) (nonce : Option (List Byte)) (s : State) : Out :=
  if !s.answers then .next s
  else match nonce with
    | none => .next (answerMail s)
    | some l => .next (raiseInt (putMail s (locate 0x40 l ++ locate 0 (leBytes 4 cmd) ++ locate 4 (leBytes 4 0))) 3)

/-! ## The lifetime store (R357) -/

/-- LTS_COMMIT: refused within 3,600 s of the last one, while one is in progress, or beyond 2^20 commits. The 3,600 s run from the
acceptance of a commit. DESIGN CHOICE (log 97). -/
def ltsCommit (s : State) : State :=
  let p := s.plinth
  let soon := p.ltsLast.any (fun t => s.ftime < t + 3600 * 10 ^ 9)
  if p.ltsBusy ∨ soon ∨ p.ncommit ≥ 2 ^ 20 then { s with plinth := { p with ltsRefused := true } }
  else { s with plinth := { p with ltsBusy := true, ltsRefused := false, ltsLast := some s.ftime } }

def execLtsCommit (s : State) : Out := .next (ltsCommit s)

/-- LTS_COMMIT_COMPLETE: the staging copy has become the committed one, with what was stored into it while the commit went on.
DESIGN CHOICE (log 97). -/
def execLtsCommitComplete (s : State) : Out :=
  let p := s.plinth
  if p.ltsBusy then
    .next { s with plinth := { p with ltsBusy := false, committed := p.staging, ncommit := p.ncommit + 1 } }
  else .next s

/-! ## Power (R360) -/

/-- POWER_SAMPLE: the limit or 100 °C is exceeded, or no longer; a die at 110 °C is fenced. Temperatures are in °C, the
four compute dies first. DESIGN CHOICE (log 63). -/
def execPowerSample (watts : Nat) (temps : List Nat) (s : State) : Out :=
  let p := s.plinth
  let power := decide (p.pwrLim < watts)
  let heat := temps.any (fun t => decide (100 ≤ t))
  let s1 := { s with plinth := { p with overLim := power || heat } }
  let s2 := if (power || heat) && !p.overLim then raiseVector s1 513 else s1
  let s3 := if power then raiseInt s2 5 else s2
  let s4 := if heat then raiseInt s3 6 else s3
  let hot := (List.range 4).filter (fun d => decide (110 ≤ temps.getD d 0))
  hot.foldl (fun r d => match r with
    | .next t => execDieFence d t
    | x => x) (.next s4)

/-- THROTTLE_ADJUST: the issue allowance k moves by one per millisecond, between 4 and 16. DESIGN CHOICE (log 63). -/
def execThrottleAdjust (s : State) : Out :=
  let p := s.plinth
  if s.cycle < p.throttleAt + cyclesPerMs then .next s
  else
    .next { s with plinth := { p with
      throttle := if p.overLim then max 4 (p.throttle - 1) else min 16 (p.throttle + 1), throttleAt := s.cycle } }

/-! ## BAR0 (R348) -/

/-- The registers of a BAR2 window as two words (R351). -/
def Bar2.word (b : Bar2) (k : Nat) : Nat := if k = 0 then b.base + boolBit b.en 0 else b.key

/-- A window's register is written: a base is a multiple of 4 GiB below 2^44. -/
def Bar2.write (b : Bar2) (k v : Nat) : Bar2 :=
  if k = 0 then { b with base := bitsOf v 32 12 * 2 ^ 32, en := decide (bitsOf v 0 1 = 1) } else { b with key := bitsOf v 0 9 }

/-- QSTAT of queue k (R350). -/
def Queue.stat (u : Queue) : Nat := u.head + boolBit u.halted 6 + 2 ^ 16 * u.nextSeq

/-- BOOT_STAT (R353). -/
def bootStat (s : State) : Nat :=
  s.plinth.stage.toNat + boolBit s.plinth.fatal 4 + 2 ^ 16 * siliconRev + 2 ^ 32 * s.plinth.fwver.toNat

/-- Eight bytes of a block as a word. -/
def blockWord (m : Sparse Byte) (o : Nat) : Nat := leNat ((List.range 8).map (fun i => m.get 0 (o + i)))

/-- The 64 bits that a host read at BAR0 offset o returns, o a multiple of 8: nothing where the device does not answer, and
nothing where no register reads. Every vector's message is sent at once, so no pending bit is set. DESIGN CHOICE (log 84). -/
def bar0Read (s : State) (o : Nat) : Option Nat :=
  let p := s.plinth
  if o = 0x242000 then some (bootStat s)
  else if !s.answers then none
  else if o < 0x200000 then some (blockWord p.qentry o)
  else if o < 0x240000 then
    let k := (o - 0x200000) % 0x1000
    if 0x100 ≤ k ∧ k < 0x140 then some (s.queue (16 * ((o - 0x200000) / 0x1000) + (k - 0x100) / 8)).stat else none
  else if o < 0x240100 then some ((p.bar2.get {} ((o - 0x240000) / 16)).word (o / 8 % 2))
  else if 0x241000 ≤ o ∧ o < 0x242000 then some (blockWord p.mailbox (o - 0x241000))
  else if o = 0x242008 then some p.nrelax
  else if 0x280000 ≤ o ∧ o < 0x2C0000 then some (blockWord p.committed (o - 0x280000))
  else if 0x300000 ≤ o ∧ o < 0x300000 + 16 * 514 then some (blockWord p.msixTab (o - 0x300000))
  else if 0x304000 ≤ o ∧ o < 0x304000 + 72 then some 0
  else none

/-- A host store of 64 bits at BAR0 offset o into queue entries, QSTAT, the BAR2 windows' registers and the MSI-X table. The
notify registers and the mailbox have events of their own. DESIGN CHOICE (log 84). -/
def bar0Write (s : State) (e : Nat × W64) : State :=
  let p := s.plinth
  let o := e.1
  let put (m : Sparse Byte) (a : Nat) : Sparse Byte := (locate a (leBytes 8 e.2.toNat)).foldl (fun b c => b.set 0 c.1 c.2) m
  if !s.answers then s
  else if o < 0x200000 then { s with plinth := { p with qentry := put p.qentry o } }
  else if o < 0x240000 then
    let k := (o - 0x200000) % 0x1000
    if 0x100 ≤ k ∧ k < 0x140 ∧ e.2.getLsbD 6 then
      match execQstatHaltedClear ((o - 0x200000) / 0x1000) ((k - 0x100) / 8) s with
      | .next t => t
      | _ => s
    else s
  else if o < 0x240100 then
    let w := (o - 0x240000) / 16
    { s with plinth := { p with bar2 := p.bar2.set {} w ((p.bar2.get {} w).write (o / 8 % 2) e.2.toNat) } }
  else if 0x300000 ≤ o ∧ o < 0x300000 + 16 * 514 then { s with plinth := { p with msixTab := put p.msixTab (o - 0x300000) } }
  else s

/-! ## BAR2 (R351) -/

/-- The location that offset o of a window reaches: none where it is disabled or beyond fitted memory. -/
def bar2Loc (s : State) (w o : Nat) : Option Nat :=
  let b := s.plinth.bar2.get {} w
  if b.en ∧ s.answers then paLoc (b.base + o) else none

/-- HOST_BAR2_WRITE: the host's stores to BAR0 that come before the write, the window's registers among them, and then the write:
bytes that reach no memory are dropped. The window's key slot is taken as it stands, be it not valid or above 447.
DESIGN CHOICE (log 97). -/
def execHostBar2Write (w o : Nat) (x : HostWrite) (s : State) : Out :=
  let s := x.stores.foldl bar0Write s
  let cells := x.bytes.zipIdx.filterMap (fun e => (bar2Loc s w (o + e.2)).map (fun a => (a, e.1)))
  .next (writeBytes s (s.plinth.bar2.get {} w).key cells)

/-- What a host read returns: all ones where nothing is reached. The window's key slot is taken as for a write.
DESIGN CHOICE (log 97). -/
def bar2Read (s : State) (w o n : Nat) : List Byte :=
  (List.range n).map (fun i => match bar2Loc s w (o + i) with
    | some a => memRead s (s.plinth.bar2.get {} w).key a
    | none => 0xFF#8)

/-- HOST_BAR2_READ: the read changes nothing; `bar2Read` gives its bytes. -/
def execHostBar2Read (_w _o _n : Nat) (s : State) : Out := .next s

end Sys2Proof.Machine
end

