-- ==== Sys2Proof/Machine/Registers.lean ====
section
/-!
DEFINITION. The system registers (R332, R333, R335 and the blocks of the other chapters): what each number reads, who may
write it, and its write rule.
-/

namespace Sys2Proof.Machine

/-! ## Reading -/

/-- A wait that f covers is in progress on the core. -/
def Core.someWait (c : Core) (f : WaitKind → Bool) : Bool :=
  Eng.all.any (fun e => match (c.seq e).wait with
    | some w => f w.kind
    | none => false)

def Mode.code : Mode → Nat
  | .run => 0 | .stub => 1 | .handler => 2

/-- PRIV (R330, R333). -/
def privWord (c : Core) (n : Nat) : Nat :=
  boolBit (c.priv n) 0 + 2 * (if n = Config.serviceCore then (if c.fwHandler then 2 else 0) else c.mode.code)

/-- CHK_STAT (R108). -/
def chkStat (c : Core) : Nat :=
  min 64 c.regions.length + boolBit (c.someWait (fun k => k = .quoin false)) 7 + boolBit (c.someWait (fun k => k = .quoin true)) 8
    + 2 ^ 16 * c.nfull + 2 ^ 32 * c.nage

/-- REPLAY_STAT (R162). -/
def replayStat (c : Core) : Nat :=
  let ps := c.parkedNow
  min 16 ps.length + boolBit (c.someWait (fun k => k.parkCause.isSome) || c.copyStalled) 5
    + ((List.range 16).map (fun k => boolBit (ps.any (fun p => p.cls = k)) (16 + k))).foldl (· + ·) 0 + 2 ^ 32 * c.npark

/-- SPAWN_STAT (R136), of the die whose pool core n spawns into. -/
def spawnStat (s : State) (n : Nat) : Nat :=
  let free := poolFree s (spawnDie s n)
  free + boolBit (decide (free ≤ 64)) 11 + 2 ^ 32 * s.tasks.novf

/-- FAB_ID (R280). -/
def fabId (f : Fabric) : Nat := f.devid.toNat + boolBit f.slotMode 12 + 2 ^ 16 * (f.size % 2 ^ 16) + 2 ^ 32 * f.epoch.toNat

def TileSt.code : TileSt → Nat
  | .free => 0 | .active => 1 | .held => 2

/-- SLC_SETS (R318). DEDUCED (log 16). -/
def slcSets (s : State) : Nat :=
  ((List.range 16).map (fun k => boolBit (decide ((s.set k).state = 1 ∨ (s.set k).state = 3)) k)).foldl (· + ·) 0 + 2 ^ 16 * freeContexts s

/-- What register r of core n reads: nothing where no chapter defines the number (R337). -/
def readReg (s : State) (n r : Nat) : Option Nat :=
  let c := s.core n
  let service := decide (n = Config.serviceCore)
  let t := s.tasks
  let f := s.fabric
  match r with
  | 0x000 => some n
  | 0x001 => some (c.ctxOf n)
  | 0x002 => some (privWord c n)
  | 0x010 => some c.trapCause.toNat
  | 0x011 => some c.trapAddr.toNat
  | 0x012 => some c.trapEng.toNat
  | 0x013 => some c.trapBase.toNat
  | 0x014 => some c.trapVec.toNat
  | 0x020 => some c.slipw.toNat
  | 0x021 => some c.spdmax
  | 0x022 => some c.spdist
  | 0x023 => some (if service then 0 else c.rrb.toNat)
  | 0x030 => some (boolBit c.detmode 0)
  | 0x031 => some (chkStat c)
  | 0x040 => some s.ftime
  | 0x041 => some s.cycle
  | 0x050 => some c.rfstat.toNat
  | 0x060 => some (replayStat c)
  | 0x100 => some t.preDrain
  | 0x101 => some t.preKill.toNat
  | 0x102 => some t.cl0Part
  | 0x103 => some (t.nckpt + 2 ^ 16 * t.nkill + 2 ^ 32 * t.nforce + 2 ^ 48 * t.cause.toNat)
  | 0x104 => some (spawnStat s n)
  | 0x200 => some (match c.inst with
    | some i => i.base + 2 ^ 6 * i.units
    | none => 0)
  | 0x201 => some (c.nmiss + 2 ^ 16 * c.nwalk + 2 ^ 32 * c.nfault)
  | 0x300 => some (c.nser + 2 ^ 32 * c.nwait)
  | 0x301 => some (c.nmma + 2 ^ 32 * c.nmcast)
  | 0x302 => some c.tileAbs.toNat
  | 0x400 => some (min 16 c.copies.length + 2 ^ 16 * c.npois + 2 ^ 32 * c.novf)
  | 0x500 => some (fabId f)
  | 0x501 => some f.slotUsr.toNat
  | 0x502 => some (f.nrefused + 2 ^ 16 * f.nretry + 2 ^ 32 * f.ndrop + 2 ^ 48 * f.naband)
  | 0x600 => some s.sliceCnt.toNat
  | 0x601 => some (slcSets s)
  | 0x708 => some c.wdog
  | 0x709 => some (c.ntrap + 2 ^ 16 * c.nesc)
  | 0x710 => some (if service then s.plinth.intPend.toNat else 0)
  | 0x711 => some (if service then s.plinth.intEn.toNat else 0)
  | _ =>
    if 0x310 ≤ r ∧ r < 0x320 then some (c.tileOwner.get 0 (r - 0x310) % 64 + 2 ^ 6 * (c.tileSt.get .free (r - 0x310)).code)
    else if 0x320 ≤ r ∧ r < 0x330 then some (c.fmtTab.get 0 (r - 0x320)).toNat
    else if 0x700 ≤ r ∧ r < 0x705 then
      let x := c.trapPc.get (0, 0) (r - 0x700)
      some (x.1.toNat + 2 ^ 16 * x.2.toNat)
    else none

/-- Device-wide registers (R332). -/
def deviceWide (r : Nat) : Bool := decide (r / 256 = 1) || decide (r / 256 = 5) || decide (r / 256 = 6)

/-! ## Writing -/

/-- Who may write a register. -/
inductive Access_ where
  | ro | rw | priv
  deriving DecidableEq, Repr

/-- The access of register r on core n (R332 and the registers' own tables). -/
def accessOf (n r : Nat) : Access_ :=
  if [0x020, 0x030, 0x710].contains r then .rw
  else if [0x013, 0x014, 0x021, 0x100, 0x101, 0x102, 0x103, 0x302, 0x501, 0x700, 0x701, 0x702, 0x703, 0x704, 0x708,
      0x711].contains r then .priv
  else if r = 0x001 ∧ n = Config.serviceCore then .priv
  else .ro

/-- SLIPW: a write of 0 stores 1 (R69). -/
def writeSlipw (n : Nat) (v : W64) (s : State) : State :=
  let w : BitVec 4 := v.setWidth 4
  s.setCore n { s.core n with slipw := if w = 0 then 1 else w }

/-- DETMODE: setting DET starts with an empty table, and clearing it empties the table (R108). A write of 1 while DET is 1 keeps the
live entries, of which R108 says nothing. DESIGN CHOICE (log 85). -/
def writeDetmode (n : Nat) (v : W64) (s : State) : State :=
  let c := s.core n
  let d := v.getLsbD 0
  s.setCore n { c with detmode := d, regions := if d = c.detmode then c.regions else [] }

def clamp (lo hi v : Nat) : Nat := min hi (max lo v)

/-- CL0_PART: cores that hold a class-0 instance keep the reserve they have (R136). -/
def writeCl0 (v : Nat) (s : State) : State :=
  let old := s.tasks.cl0Part
  let hold (c : Core) : Core :=
    if c.insts.any (fun i => i.cls = 0) ∧ c.cl0Hold = none then { c with cl0Hold := some old } else c
  { s with cores := ⟨s.cores.entries.map (fun e => (e.1, hold e.2))⟩, tasks := { s.tasks with cl0Part := clamp 1 16 v } }

/-- Register r of core n written with v, under its write rule. -/
def writeReg (n r : Nat) (v : W64) (s : State) : State :=
  let c := s.core n
  let t := s.tasks
  let p := s.plinth
  let service := decide (n = Config.serviceCore)
  match r with
  | 0x001 => s.setCore n { c with ctx := v.setWidth 6 }
  | 0x013 => s.setCore n { c with trapBase := v.setWidth 12 &&& 0xF80#12 }
  | 0x014 => s.setCore n { c with trapVec := v.setWidth 32 }
  | 0x020 => writeSlipw n v s
  | 0x021 => s.setCore n { c with spdmax := clamp 1024 65536 v.toNat }
  | 0x030 => writeDetmode n v s
  | 0x100 => { s with tasks := { t with preDrain := min 65536 v.toNat } }
  | 0x101 => { s with tasks := { t with preKill := v.setWidth 16 } }
  | 0x102 => writeCl0 v.toNat s
  | 0x103 => { s with tasks := { t with cause := t.cause &&& ~~~(v.extractLsb' 48 16) } }
  | 0x302 => s.setCore n { c with tileAbs := c.tileAbs &&& ~~~(v.setWidth 16) }
  | 0x501 => { s with fabric := { s.fabric with slotUsr := v.setWidth 7 } }
  | 0x708 => s.setCore n { c with wdog := clamp 256 65536 v.toNat }
  | 0x710 => if service then { s with plinth := { p with intPend := p.intPend &&& ~~~(v.setWidth 8) } } else s
  | 0x711 => if service then { s with plinth := { p with intEn := v.setWidth 8 } } else s
  | _ =>
    if 0x700 ≤ r ∧ r < 0x705 then
      let x := c.trapPc.get (0, 0) (r - 0x700)
      s.setCore n { c with trapPc := c.trapPc.set (0, 0) (r - 0x700) (v.setWidth 16, x.2) }
    else s

/-- A write to register r by core n as it may come: the cause that stops it, or the write; on the service core a write to a
read-only register is ignored (R332). -/
def tryWrite (s : State) (n r : Nat) (v : W64) : Except Nat State :=
  if (readReg s n r).isNone then .error 1
  else
    match accessOf n r with
    | .ro => if n = Config.serviceCore then .ok s else .error 4
    | .rw => .ok (writeReg n r v s)
    | .priv => if (s.core n).priv n then .ok (writeReg n r v s) else .error 4

/-! ## Events -/

/-- SLIPW_WRITE (R69) and DETMODE_WRITE (R108). -/
def execSlipwWrite (n : Nat) (v : W64) (s : State) : Out := .next (writeSlipw n v s)
def execDetmodeWrite (n : Nat) (v : W64) (s : State) : Out := .next (writeDetmode n v s)

/-- REGISTER_WRITE (R332): a write that its register does not allow changes nothing. -/
def execRegisterWrite (n : Nat) (r : BitVec 12) (v : W64) (s : State) : Out :=
  match tryWrite s n r.toNat v with
  | .ok t => .next t
  | .error _ => .next s

end Sys2Proof.Machine
end

