-- ==== Sys2Proof/Machine/Devices.lean ====
section
/-!
DEFINITION. Device register space (R146): its 64-bit registers by offset, byte-granular reads and writes, and what each write
does. An address that no rule defines reads some value and ignores writes.
-/

namespace Sys2Proof.Machine

/-- A write of the bits `m` of a register that held `old`. -/
def mergeBits (old v m : W64) : W64 := (old &&& ~~~m) ||| (v &&& m)

/-- The state after an event's meaning. -/
def after (f : State → Out) (s : State) : State := match f s with
  | .next t => t
  | _ => s

/-! ## Replay entries (R161) -/

/-- Words 0 and 1 of replay entry e of core n. Which of the 16 entries a parked write occupies is not stated: they are numbered
in park order from 0, and the later ones move down when one leaves. DESIGN CHOICE (log 78). -/
def replayWord (c : Core) (e k : Nat) : Nat :=
  match c.parkedNow[e]? with
  | none => 0
  | some p => match k with
    | 0 => p.va.toNat
    | 1 => p.cls + 2 ^ 4 * p.eng + 2 ^ 7 + 2 ^ 8 * p.cause + 2 ^ 24 * p.size
    | _ => 0

/-! ## Key slots (R157, R258) -/

/-- A word of key slot k: the key material reads zero. -/
def keyWord (s : State) (k o : Nat) : Option Nat :=
  if o = 0x40 then some (boolBit (keyValid s k) 0)
  else if o < 0x40 then
    if k < 448 then some 0
    else if o < 0x20 then some 0
    else if o = 0x20 then some (s.fabric.lkey.get {} k).salt.toNat
    else if o = 0x28 then some (s.fabric.lkey.get {} k).peer.toNat
    else none
  else none

/-- Key material: bytes of the write at slot offset o, kept while VALID is 0. -/
def writeKey (s : State) (k o : Nat) (v m : W64) : State :=
  if keyValid s k then s
  else
    let cells := (List.range 8).filterMap (fun i =>
      if m.getLsbD (8 * i) then some (128 * k + o + i, v.extractLsb' (8 * i) 8) else none)
    { s with plinth := { s.plinth with keys := cells.foldl (fun m e => m.set 0 e.1 e.2) s.plinth.keys } }

def writeKeySlot (s : State) (k o : Nat) (v m : W64) : State :=
  let x := s.fabric.lkey.get {} k
  if o = 0x40 then (if m.getLsbD 0 then setKeyValid k (v.getLsbD 0) s else s)
  else if 448 ≤ k ∧ o = 0x20 then
    let y := { x with salt := (mergeBits (x.salt.setWidth 64) v m).setWidth 32 }
    { s with fabric := { s.fabric with lkey := s.fabric.lkey.set {} k y } }
  else if 448 ≤ k ∧ o = 0x28 then
    let y := { x with peer := (mergeBits (x.peer.setWidth 64) v m).setWidth 12 }
    { s with fabric := { s.fabric with lkey := s.fabric.lkey.set {} k y } }
  else if o < (if k < 448 then 0x40 else 0x20) then writeKey s k o v m
  else s

/-! ## Optics and fabric control (R281, R292) -/

def opticWord (f : Fabric) (t b o : Nat) : Option Nat :=
  if o = 0x480 then
    let y := f.fibres.get {} b
    some (y.sat.toNat + boolBit y.up 17 + boolBit y.paused 18 + 2 ^ 32 * y.nretrain)
  else if o < 0x440 then
    let x := f.ring b (o / 0x40)
    match o % 0x40 with
    | 0x00 => some x.heat.toNat
    | 0x08 => some (f.monRead t b (o / 0x40)).toNat
    | 0x10 => some (x.lambda.toNat + boolBit x.en 4)
    | _ => none
  else none

def writeOptic (s : State) (b o : Nat) (v m : W64) : State :=
  let f := s.fabric
  if o = 0x480 then
    let y := f.fibres.get {} b
    { s with fabric := { f with fibres := f.fibres.set {} b { y with sat := y.sat &&& ~~~((v &&& m).setWidth 17) } } }
  else if o < 0x440 then
    let r := o / 0x40
    let x := f.ring b r
    if o % 0x40 = 0 then after (execHeatWrite b r ((mergeBits (x.heat.setWidth 64) v m).setWidth 12)) s
    else if o % 0x40 = 0x10 then
      let w := mergeBits (BitVec.ofNat 64 (x.lambda.toNat + boolBit x.en 4)) v m
      after (execAssignWrite b r (w.setWidth 4) (w.getLsbD 4)) s
    else s
  else s

/-- FAB_CTL. -/
def fabCtl (f : Fabric) : Nat := f.devid.toNat + boolBit f.quiesce 12 + boolBit f.seal_ 13

def writeFabCtl (s : State) (v m : W64) : State :=
  let f := s.fabric
  let w := mergeBits (BitVec.ofNat 64 (fabCtl f)) v m
  let s1 := { s with fabric := { f with devid := if f.quiesce then w.setWidth 12 else f.devid, seal_ := w.getLsbD 13 } }
  if w.getLsbD 12 = f.quiesce then s1
  else if w.getLsbD 12 then after execQuiesceSet s1
  else after execQuiesceClear s1

/-! ## Core control blocks (R222, R340) -/

def coreWord (c : Core) (o : Nat) : Option Nat := match o with
  | 0x00 => some (c.escCause.toNat + 2 ^ 16 * c.escEng.toNat + boolBit c.escPend 19)
  | 0x08 => some 0
  | 0x10 => some c.trapBase.toNat
  | 0x18 => some c.trapVec.toNat
  | 0x20 => some (c.ctile.toNat % 2 ^ 16)
  | 0x28 => some (boolBit c.tbusy 0 + boolBit c.tfull 1 + boolBit c.trefused 2)
  | _ => none

def writeCore (s : State) (n o : Nat) (v m : W64) : State :=
  let c := s.core n
  match o with
  | 0x08 =>
    match bitsOf (v &&& m).toNat 0 2 with
    | 1 => after (execCoreCmdResume n) s
    | 2 => after (execCoreCmdTerminate n) s
    | _ => s
  | 0x10 => s.setCore n { c with trapBase := (mergeBits (c.trapBase.setWidth 64) v m).setWidth 12 &&& 0xF80#12 }
  | 0x18 => s.setCore n { c with trapVec := (mergeBits (c.trapVec.setWidth 64) v m).setWidth 32 }
  | 0x20 =>
    let w := mergeBits (c.ctile.setWidth 64) v m
    let t : Core := { c with ctile := w.setWidth 17 &&& 0x0FF1F#17 }
    if (v &&& m).getLsbD 16 = false then s.setCore n t
    else s.setCore n (if goOk t (w.getLsbD 4) then (t.go (w.getLsbD 4)) else { c with trefused := true })
  | 0x28 => s.setCore n { c with
      tfull := c.tfull && !(v &&& m).getLsbD 1, trefused := c.trefused && !(v &&& m).getLsbD 2 }
  | _ => s

/-! ## Measurements (R354) -/

/-- Bytes stored for an extend of M_r: when all 32 have come, the register is extended. DESIGN CHOICE (log 62). -/
def writeMeas (s : State) (r o : Nat) (v m : W64) : State :=
  let buf := (List.range 8).foldl (fun b i =>
    if m.getLsbD (8 * i) then b.set none (32 * r + o + i) (some (v.extractLsb' (8 * i) 8)) else b) s.plinth.measIn
  let bytes := (List.range 32).filterMap (fun i => buf.get none (32 * r + i))
  if bytes.length = 32 then
    let clear := (List.range 32).foldl (fun b i => b.set none (32 * r + i) none) buf
    after (execMeasurementExtend r (BitVec.ofNat 256 (leNat bytes)) false)
      { s with plinth := { s.plinth with measIn := clear } }
  else { s with plinth := { s.plinth with measIn := buf } }

/-! ## The map -/

def writeBlock (b : Sparse Byte) (o : Nat) (v m : W64) : Sparse Byte :=
  (List.range 8).foldl (fun b i => if m.getLsbD (8 * i) then b.set 0 (o + i) (v.extractLsb' (8 * i) 8) else b) b

/-- A handler-memory word pair of core n at byte offset o (R331). -/
def handlerWord (s : State) (o : Nat) : Nat := (s.hmem.get 0 (o / 4)).toNat + 2 ^ 32 * (s.hmem.get 0 (o / 4 + 1)).toNat

/-- The register at offset o, a multiple of 8, of device register space: nothing where no rule defines one that reads. -/
def devWord (s : State) (o : Nat) : Option Nat :=
  let p := s.plinth
  if 0x100000 ≤ o ∧ o < 0x101000 then some (blockWord p.ctxTab (o - 0x100000))
  else if 0x200000 ≤ o ∧ o < 0x200000 + 0x400 * 129 then
    let e := (o - 0x200000) % 0x400 / 32
    let k := (o % 32) / 8
    if e < 16 ∧ k < 3 then some (replayWord (s.core ((o - 0x200000) / 0x400)) e k) else none
  else if 0x300000 ≤ o ∧ o < 0x310000 then keyWord s ((o - 0x300000) / 128) (o % 128)
  else if 0x400000 ≤ o ∧ o < 0x440000 then opticWord s.fabric s.ftime ((o - 0x400000) / 0x800) (o % 0x800)
  else if 0x500000 ≤ o ∧ o < 0x540000 then some (blockWord p.staging (o - 0x500000))
  else if 0x560000 ≤ o ∧ o < 0x564000 then some (blockWord p.elog (o - 0x560000))
  else if 0x600000 ≤ o ∧ o < 0x608000 then coreWord (s.core ((o - 0x600000) / 0x100)) (o % 0x100)
  else if 0x608000 ≤ o ∧ o < 0x608018 then some (p.esc.get 0 ((o - 0x608000) / 8)).toNat
  else if 0x700000 ≤ o ∧ o < 0x700100 then some ((p.meas.get 0 ((o - 0x700000) / 32)).toNat >>> (8 * (o % 32)) % 2 ^ 64)
  else if 0x800000 ≤ o ∧ o < 0xA00000 then some (handlerWord s (o - 0x800000))
  else match o with
    | 0x450000 => some (fabCtl s.fabric)
    | 0x450008 => some s.fabric.optTemp.toNat
    | 0x450010 => some s.fabric.optIrq0.toNat
    | 0x450018 => some s.fabric.optIrq1.toNat
    | 0x540008 => some (boolBit p.ltsBusy 0 + boolBit p.ltsRefused 1 + 2 ^ 32 * (p.ncommit % 2 ^ 32))
    | 0x550000 => some p.pwrLim
    | 0x564000 => some p.elogHead.toNat
    | 0x564008 => some (p.elogTail.toNat + 2 ^ 32 * p.nlost)
    | _ => none

/-- The bits `m` of the register at offset o, a multiple of 8, are written. A write that sets RETRY and FAIL of a replay entry
together, which R161 leaves open, fails it. DESIGN CHOICE (log 78). -/
def writeDevWord (s : State) (o : Nat) (v m : W64) : State :=
  let p := s.plinth
  let w1c := v &&& m
  if 0x200000 ≤ o ∧ o < 0x200000 + 0x400 * 129 then
    let n := (o - 0x200000) / 0x400
    let e := (o - 0x200000) % 0x400 / 32
    if o % 32 = 0x10 ∧ e < 16 then
      if w1c.getLsbD 1 then failEntry n e s else if w1c.getLsbD 0 then retryEntry n e s else s
    else s
  else if 0x300000 ≤ o ∧ o < 0x310000 then writeKeySlot s ((o - 0x300000) / 128) (o % 128) v m
  else if 0x400000 ≤ o ∧ o < 0x440000 then writeOptic s ((o - 0x400000) / 0x800) (o % 0x800) v m
  else if 0x500000 ≤ o ∧ o < 0x540000 then { s with plinth := { p with staging := writeBlock p.staging (o - 0x500000) v m } }
  else if 0x600000 ≤ o ∧ o < 0x608000 then writeCore s ((o - 0x600000) / 0x100) (o % 0x100) v m
  else if 0x608000 ≤ o ∧ o < 0x608018 then
    let k := (o - 0x608000) / 8
    { s with plinth := { p with esc := p.esc.set 0 k (p.esc.get 0 k &&& ~~~w1c) } }
  else if 0x700100 ≤ o ∧ o < 0x700200 then writeMeas s ((o - 0x700100) / 32) (o % 32) v m
  else if 0x800000 ≤ o ∧ o < 0xA00000 then
    let w := mergeBits (BitVec.ofNat 64 (handlerWord s (o - 0x800000))) v m
    let k := (o - 0x800000) / 4
    { s with hmem := (s.hmem.set 0 k (w.setWidth 32)).set 0 (k + 1) (w.extractLsb' 32 32) }
  else match o with
    | 0x450000 => writeFabCtl s v m
    | 0x450010 => { s with fabric := { s.fabric with optIrq0 := s.fabric.optIrq0 &&& ~~~w1c } }
    | 0x450018 => { s with fabric := { s.fabric with optIrq1 := s.fabric.optIrq1 &&& ~~~w1c } }
    | 0x540000 => if w1c = 1 then ltsCommit s else s
    | 0x540008 => { s with plinth := { p with ltsRefused := p.ltsRefused && !w1c.getLsbD 1 } }
    | 0x550000 => { s with plinth := { p with pwrLim := clamp 400 1500 (mergeBits (BitVec.ofNat 64 p.pwrLim) v m).toNat } }
    | 0x564000 => { s with plinth := { p with elogHead := (mergeBits (p.elogHead.setWidth 64) v m).setWidth 9 } }
    | _ => s

/-- A store of bytes into the context table (R110): ignored while the descriptor is valid, but for one that clears its valid
bit; a store that sets the bit has the descriptor checked. -/
def writeCtxTab (s : State) (o : Nat) (bs : List Byte) : State :=
  let x := o / 64
  let flag := (locate o bs).find? (fun e => e.1 = 64 * x + 0xB)
  if ctxValid s x then
    match flag with
    | some e => if e.2.getLsbD 0 then s else clearContext x s
    | none => s
  else
    let s1 := (locate o bs).foldl (fun s e => setCtxByte s e.1 (if e.1 = 64 * x + 0xB then e.2 &&& 0xFE#8 else e.2)) s
    match flag with
    | some e => if e.2.getLsbD 0 then setContext x s1 else s1
    | none => s1

/-- A load of n bytes, aligned, at offset o. DESIGN CHOICE (log 25). -/
def devRead (s : State) (o n : Nat) : List Byte :=
  match devWord s (o / 8 * 8) with
  | some w => (leBytes 8 w).drop (o % 8) |>.take n
  | none => (List.range n).map (fun i => Config.freeByte s.nonce (2 ^ 83 + o + i))

/-- A store of bytes, aligned, at offset o. DESIGN CHOICE (log 25). -/
def devWrite (s : State) (o : Nat) (bs : List Byte) : State :=
  if 0x100000 ≤ o ∧ o < 0x101000 then writeCtxTab s (o - 0x100000) bs
  else
    let sh := 8 * (o % 8)
    let v := BitVec.ofNat 64 (leNat bs) <<< sh
    let m := BitVec.ofNat 64 (2 ^ (8 * bs.length) - 1) <<< sh
    writeDevWord s (o / 8 * 8) v m

end Sys2Proof.Machine
end

