-- ==== Sys2Proof/Machine/SMem.lean ====
section
/-!
DEFINITION. Scalar and general-register loads and stores (R99, R169), the class fence (R170), invalidation of translations
(R171, R172), and the events that perform accesses and complete walks and invalidations (R154, R165).
-/

namespace Sys2Proof.Machine

/-! ## Loads and stores -/

/-- A load of n bytes at address a in class cls, with the checks of R149, delivered to `d`. Device registers are read at
once. -/
def scalarLoad (d : Dest) (a n cls : Nat) (s : State) : State × Except Stop State :=
  andThen (reach s .load a n n cls) fun s p =>
  match p with
  | .mem loc key =>
    andThen (poisonCheck s a loc n) fun s _ =>
    andThen (register s (ownFoot s a loc n false)) fun s _ =>
    (s, .ok (retire (issueLoad s cls d ((List.range n).map (fun i => (loc + i, key))))))
  | .dev off =>
    if classBusy s cls then (s, .error (.wait .other))
    else (s, .ok (retire (s.setMe (deliver s.me d (devRead s off n)))))
  | .tx _ => (s, .error (.trap 7 (BitVec.ofNat 64 a)))

/-- A store into transmit space: under the entry that covers the address, in that entry's class (R148, R165, R266).
DEDUCED (log 44). -/
def storeTx (a : Nat) (bs : List Byte) (s : State) : State × Except Stop State :=
  match txCover s s.ctxNow (a - 0x300000000) with
  | none => (s, .error (.trap 0x18 (BitVec.ofNat 64 a)))
  | some m =>
    andThen (behindParked s false (fun c => c = m.cls)) fun s _ =>
    (s, .ok (retire (reflect s m (locate (a - 0x300000000) bs))))

/-- The parked form of a store (R160). -/
def parkedStore (s : State) (a n cls cause : Nat) (bs : List Byte) : Parked :=
  { id := 0, va := BitVec.ofNat 64 a, cls := cls, eng := s.curEng.tag, cause := cause, bytes := locate 0 bs
    size := Nat.log2 n, ctx := s.ctxNow, owner := s.me.owner, issued := s.nextId }

/-- The store parks with this cause, or stalls on a full queue (R160). -/
def parkStore (s : State) (a n cls cause : Nat) (bs : List Byte) : State × Except Stop State :=
  match parkWrite s s.curCore (parkedStore s a n cls cause bs) with
  | .ok t => (s, .ok (retire t))
  | .error e => (s, .error e)

/-- A store of the n low bytes of v at address a in class cls, with the checks of R149. A main-memory store that fails
translation or permission parks, and one that its sequencer stalls with, since the queue was full, parks once an entry has left, without
a second translation (R160). DESIGN CHOICE (log 95). -/
def scalarStore (a n cls : Nat) (v : W64) (s : State) : State × Except Stop State :=
  let bs := leBytes n v.toNat
  andThen (check s (do
    trapIf (decide (a % n ≠ 0)) 5 (BitVec.ofNat 64 a)
    spaceCheck s s.curCore s.curEng .store a n)) fun s _ =>
  if 0x300000000 ≤ a ∧ a < 0x400000000 then storeTx a bs s
  else
    match s.q.wait.bind (·.kind.parkCause), behindParked s false (fun c => c = cls) with
    | some cause, (s, .error (.wait _)) => (s, .error (.wait (.replay cause)))
    | _, (s, .error e) => (s, .error e)
    | some cause, (s, .ok _) => parkStore s a n cls cause bs
    | none, (s, .ok _) =>
    match resolve s s.curCore s.curEng .store a n with
    | (s, .ok (.mem loc key)) =>
      andThen (register s (ownFoot s a loc n true)) fun s _ =>
      (s, .ok (retire (issueStore (depositClock s loc n) cls key (locate loc bs))))
    | (s, .ok (.dev off)) =>
      if classBusy s cls then (s, .error (.wait .other)) else (s, .ok (retire (devWrite s off bs)))
    | (s, .ok (.tx _)) => (s, .error (.trap 0x18 (BitVec.ofNat 64 a)))
    | (s, .error b) =>
      if b.1 = 8 ∨ b.1 = 9 then
        parkStore s a n cls b.1 bs
      else (s, .error (.trap b.1 b.2))

/-- Bytes of a size field, and the address of the S-mem form (R169). -/
def sizeOf (z : BitVec 2) : Nat := 2 ^ z.toNat
def memAddr (s : State) (a : BitVec 5) (z : BitVec 2) (o : BitVec 7) : Nat :=
  (s.sval a + BitVec.ofNat 64 (o.toNat * sizeOf z)).toNat

/-- LD (R169). -/
def execLd (d a : BitVec 5) (c : BitVec 4) (z : BitVec 2) (g : BitVec 1) (o : BitVec 7) (s : State) : Out :=
  concludeIn s (scalarLoad (.sreg d.toNat (sizeOf z) (g == 1)) (memAddr s a z o) (sizeOf z) c.toNat s)

/-- ST (R169). -/
def execSt (r a : BitVec 5) (c : BitVec 4) (z : BitVec 2) (o : BitVec 7) (s : State) : Out :=
  concludeIn s (scalarStore (memAddr s a z o) (sizeOf z) c.toNat (s.sval r) s)

/-- The address of the g-mem form (R99). -/
def gAddr (s : State) (b : BitVec 4) (o : BitVec 11) : Nat := (s.gval b + BitVec.ofNat 64 (8 * o.toNat)).toNat

/-- GLD (R99). -/
def execGld (_e : Eng) (g b c : BitVec 4) (o : BitVec 11) (s : State) : Out :=
  concludeIn s (scalarLoad (.greg s.curEng.tag g.toNat) (gAddr s b o) 8 c.toNat s)

/-- GST (R99). -/
def execGst (_e : Eng) (g b c : BitVec 4) (o : BitVec 11) (s : State) : Out :=
  concludeIn s (scalarStore (gAddr s b o) 8 c.toNat (s.gval g) s)

/-! ## The class fence (R170) -/

/-- A pending access is performed at scope sc (R165): a store at engine scope as soon as it is issued. -/
def Access.doneAt (a : Access) (sc : Nat) : Bool := match sc, a.eff with
  | 0, .write _ _ => true
  | 1, _ => a.atCore
  | _, _ => false

/-- Sequencer e of core n has issued, before access number `mark`, an access in a class that f covers that is not performed
at scope sc: for the running instance, or, where `anyOwner`, for whichever instance (R132, R170). Parked writes are another
matter. -/
def busyIn (s : State) (n : Nat) (e : Eng) (f : Nat → Bool) (sc mark : Nat) (anyOwner : Bool) : Bool :=
  let c := s.core n
  let own (k : Nat × Nat) : Bool := anyOwner || decide (k = c.owner)
  s.accs.any (fun a => decide (a.n = n) && decide (a.eng = e.tag) && f a.cls && !a.doneAt sc && decide (a.no < mark)) ||
  (decide (e = .c) && c.copies.any (fun o => own o.owner && o.carries f && decide (o.id < mark) && !stuck c o)) ||
  (decide (e = .m) && f 15 && c.bmvs.any (fun o => own o.owner && decide (o.id < mark))) ||
  (decide (e = .f) && s.fabric.bulks.any (fun b => decide (b.core = n) && own b.owner && f b.cls &&
    decide (b.lines ≠ 0) && decide (b.st = 0) && decide (b.id < mark))) ||
  (decide (1 < sc) && s.fabric.sends.any (fun d => decide (d.core = n) && decide (d.eng = e.tag) && own d.owner &&
    f d.cls && decide (d.st = 0) && decide (d.acc < mark)))

/-- S has a read in a class that f covers that is not performed. -/
def readsIn (s : State) (f : Nat → Bool) : Bool :=
  s.accs.any (fun a => decide (a.n = s.curCore) && decide (a.eng = s.curEng.tag) && f a.cls && (match a.eff with
    | .read _ _ => true
    | _ => false))

/-- What `id` names carries a class that f covers. -/
def classIn (s : State) (f : Nat → Bool) (id : Nat) : Bool :=
  s.accs.any (fun a => decide (a.no = id) && f a.cls) ||
  s.cores.entries.any (fun e =>
    e.2.copies.any (fun c => decide (c.id = id) && c.carries f) || e.2.bmvs.any (fun b => decide (b.id = id) && f 15) ||
    e.2.parkedAll.any (fun p => (decide (p.id = id) || decide (p.issued = id)) && f p.cls)) ||
  s.fabric.bulks.any (fun b => decide (b.id = id) && f b.cls) || s.fabric.sends.any (fun d => decide (d.acc = id) && f d.cls)

/-- The number of the first access that the executing fence does not precede: as it was when the fence issued.
DESIGN CHOICE (log 42). -/
def State.fenceMark (s : State) : Nat := match s.q.wait with
  | some ⟨.fence m, _, _⟩ => m
  | _ => s.nextId

/-- Something that the fence waits for is not performed at its scope sc: w of R170. DESIGN CHOICE (log 42). -/
def fenceHeld (s : State) (f : Nat → Bool) (sc kind mark : Nat) : Bool :=
  let n := s.curCore
  (if kind = 1 then readsIn s f
   else busyIn s n s.curEng f sc mark false || s.q.acq.any (fun i => classIn s f i && pendingAt s (decide (sc ≤ 1)) i)) ||
  (decide (kind = 0) && Eng.all.any (fun e => busyIn s n e f sc mark true)) ||
  (f 15 && Eng.all.any (fun e => busyIn s n e (fun c => c = 15) sc mark true))

/-- A fence waits in one kind of wait, whatever holds it. -/
def fenceWait (m : Nat) : Stop → Stop
  | .wait _ => .wait (.fence m)
  | t => t

/-- The accesses that a completed fence has performed at core scope and that are still to be performed beyond it: later
class-15 accesses behind an edge of S follow them (R168, R170). -/
def fenceDone (s : State) (f : Nat → Bool) (kind mark : Nat) : State :=
  let mine (a : Access) : Bool := kind ≠ 1 && f a.cls && decide (a.n = s.curCore) &&
    (decide (a.eng = s.curEng.tag) || decide (kind = 0))
  let bank (a : Access) : Bool := f 15 && decide (a.cls = 15) && decide (a.n = s.curCore)
  let got (a : Access) : Bool := kind ≠ 1 && f a.cls && s.q.acq.contains a.no
  { s with accs := s.accs.map (fun a =>
      if a.atCore ∧ a.no < mark ∧ (mine a ∨ bank a ∨ got a) then { a with fenced := true } else a) }

/-- A completed fence at engine scope has performed S's stores in its mask, and those that S has acquired, as far as S sees them:
what S writes to their bytes from now on comes after them (R167, R170, R365). -/
def fenceOwn (s : State) (f : Nat → Bool) (kind : Nat) : State :=
  if kind = 1 then s
  else { s with accs := s.accs.map (fun a =>
    if a.n = s.curCore ∧ a.eng = s.curEng.tag ∧ f a.cls ∧ a.fencedAt = none then { a with fencedAt := some s.nextId } else a) }

/-- CFENCE (R170): with bit 15 every kind waits for the class-15 writes of the core, parked ones included. -/
def execCfence (m : BitVec 16) (sc : BitVec 3) (k : BitVec 2) (s : State) : Out :=
  let f (c : Nat) : Bool := m.getLsbD c
  let mark := s.fenceMark
  concludeIn s (
    andThen (check s (notInHandler s)) fun s _ =>
    match behindParked s true (fun c => if k = 1 then c = 15 && f c else f c) with
    | (s, .error e) => (s, .error (fenceWait mark e))
    | (s, .ok _) =>
      if fenceHeld s f sc.toNat k.toNat mark then (s, .error (.wait (.fence mark)))
      else (s, .ok (retire (if sc = 0 then fenceOwn s f k.toNat else fenceDone s f k.toNat mark))))

/-! ## Invalidation (R171, R172) -/

/-- An invalidation goes out once S's earlier accesses of every class have been performed at package scope. -/
def sendTlbi (kind : Nat) (ctx : W64) (va : Nat) (s : State) : State × Except Stop State :=
  andThen (check s (privileged s)) fun s _ =>
  andThen (behindParked s false (fun _ => true)) fun s _ =>
  if busyIn s s.curCore s.curEng (fun c => c < 16) 2 s.nextId false then (s, .error (.wait .tlbi))
  else if 64 ≤ ctx.toNat then (s, .ok (retire s))
  else (s, .ok (retire { s.withId with
    tlbis := s.tlbis ++ [{ id := s.nextId, core := s.curCore, kind := kind, ctx := ctx.toNat, va := va }] }))

/-- TLBI_VA, TLBI_CTX, TLBI_ALL (R171). -/
def execTlbiVa (c a : BitVec 5) (s : State) : Out := concludeIn s (sendTlbi 0 (s.sval c) (s.sval a).toNat s)
def execTlbiCtx (c : BitVec 5) (s : State) : Out := concludeIn s (sendTlbi 1 (s.sval c) 0 s)
def execTlbiAll (s : State) : Out := concludeIn s (sendTlbi 2 0 0 s)

/-- TLBSYNC (R172): no invalidation of this S is incomplete. -/
def execTlbsync (s : State) : Out := conclude s (do
  privileged s
  if s.tlbis.any (fun t => decide (t.core = s.curCore)) then .error (.wait .tlbsync) else .ok (retire s))

/-- An invalidation removes a cached entry (R171). -/
def Tlbi.hits (i : Tlbi) (t : TlbEnt) : Bool := match i.kind with
  | 0 => t.hits i.ctx i.va
  | 1 => decide (t.ctx = i.ctx)
  | _ => true

/-- The location lies in the page of an entry (R152). -/
def TlbEnt.covers (t : TlbEnt) (a : Nat) : Bool :=
  let o := a - mainBase
  let pa := if bitsOf t.pa 43 1 = 1 then 2 ^ 43 + o else o % 2 ^ 39 / 4096 * 65536 + o / 2 ^ 39 * 4096 + o % 4096
  isMain a && decide (pa / 2 ^ t.bits = t.pa / 2 ^ t.bits)

/-- The main-memory locations of destinations that a copy unit has been translated to. -/
def Unit_.writes : Unit_ → List Nat
  | .line loc _ _ _ => [loc]
  | .accum loc _ es => loc :: es.filterMap (·.2)
  | .comb loc _ _ _ _ _ => [loc]
  | _ => []

/-- Locations that accesses and operations in flight have been translated to. DESIGN CHOICE (log 21). -/
def usedLocs (s : State) : List Nat :=
  s.accs.flatMap (fun a => match a.eff with
    | .write _ bs => bs.map (·.1)
    | .read _ ls => ls.map (·.1)
    | .counter _ _ _ => []) ++
  s.cores.entries.flatMap (fun e =>
    e.2.copies.flatMap (fun o => o.units.flatMap (fun u => u.reads ++ u.writes)) ++
    e.2.bmvs.flatMap (fun b => b.pages.map (·.1)))

/-- TLB_INVALIDATION_COMPLETE (R172): once every access translated through an entry that it removes, or that it would remove had
not a full cache given it up before, has been performed, the entries leave every TLB and the shared cache.
DESIGN CHOICE (log 21). -/
def execTlbInvalidationComplete (id : Nat) (s : State) : Out :=
  match s.tlbis.find? (fun i => i.id = id) with
  | none => .next s
  | some i =>
    let gone := (s.shared ++ s.dropped ++ s.cores.entries.flatMap (fun e => e.2.tlb)).filter i.hits
    if (usedLocs s).any (fun a => gone.any (fun t => t.covers a)) then .next s
    else
      let keep (l : List TlbEnt) : List TlbEnt := l.filter (fun t => !i.hits t)
      .next { s with
        cores := ⟨s.cores.entries.map (fun e => (e.1, { e.2 with tlb := keep e.2.tlb }))⟩
        shared := keep s.shared
        dropped := keep s.dropped
        tlbis := s.tlbis.filter (fun x => x.id ≠ id) }

/-- TABLE_WALK (R154, R159): a translation is fetched and cached, or the walk faults. -/
def execTableWalk (n x : Nat) (va : W64) (s : State) : Out := .next (xlate s n x va.toNat).1

/-! ## Performing an access (R165-R167) -/

/-- Located bytes of a pending write. -/
def Access.bytes (a : Access) : List (Nat × Byte) := match a.eff with
  | .write _ bs => bs
  | _ => []

/-- Access x comes before access a in their sequencer's program order. The parts of one load are unordered among themselves,
and those of one store or copy are written in their order (R166, R237). -/
def Access.before (x a : Access) : Bool :=
  decide (x.n = a.n) && decide (x.eng = a.eng) && decide (x.owner = a.owner) && decide (x.cls = a.cls) &&
  (decide (x.no < a.no) || (decide (x.no = a.no) && decide (x.id < a.id) && (match a.eff with
    | .read _ _ => false
    | _ => true)))

/-- Another pending access comes before `a` at core scope, or at package scope: an older one of its sequencer and class, one to the
same bytes that an engine-scope fence puts before it, or at package scope an earlier store of its core to one of its bytes, as the
core has seen them (R166, R167, R170). DEDUCED (log 43). -/
def precededBy (s : State) (a : Access) (atCore : Bool) : Bool :=
  let locs := a.bytes.map (·.1)
  s.accs.any (fun x => x.before a && !(atCore && x.atCore)) ||
  s.accs.any (fun x => decide (x.n = a.n) && decide (x.eng = a.eng) && x.fencedAt.any (fun m => decide (m ≤ a.no)) &&
    decide (x.no < a.no) && !(atCore && x.atCore) && x.bytes.any (fun b => locs.contains b.1)) ||
  (!atCore && (s.accs.takeWhile (fun x => x.id ≠ a.id)).any (fun x => decide (x.n = a.n) && x.atCore &&
    x.bytes.any (fun b => locs.contains b.1))) ||
  s.fabric.sends.any (fun d => decide (d.core = a.n) && decide (d.eng = a.eng) && decide (d.owner = a.owner) &&
    decide (d.cls = a.cls) && decide (d.st = 0) && decide (d.acc < a.no)) ||
  backgroundHeld s a.n a.owner (Eng.ofTag a.eng) a.cls a.no

/-- The pending accesses once store a has been performed at core scope: those stores come first, in the order in which the
core has seen them. -/
def seenByCore (l : List Access) (a : Access) : List Access :=
  l.filter (fun x => x.atCore && decide (x.id ≠ a.id)) ++ [{ a with atCore := true }] ++
    l.filter (fun x => !x.atCore && decide (x.id ≠ a.id))

def State.dropAcc (s : State) (id : Nat) : State := { s with accs := s.accs.filter (fun a => a.id ≠ id) }

/-- A line of FSEND may be read: F's older accesses and bulk sends of its class have been performed. -/
def bulkMay (s : State) (b : Bulk) : Bool :=
  !s.accs.any (fun a => decide (a.n = b.core) && decide (a.eng = 4) && decide (a.cls = b.cls) && decide (a.id < b.id)) &&
  !s.fabric.bulks.any (fun x => decide (x.core = b.core) && decide (x.owner = b.owner) && decide (x.cls = b.cls) &&
    decide (x.queued = false) && decide (x.lines ≠ 0) && decide (x.st = 0) && decide (x.id < b.id))

/-- ACCESS_PERFORMED (R165): a load returns its value, once older accesses of its class are performed at package scope as
well (R167); a store is performed at core scope, and then at package scope; a
posted counter update reaches its counter; a line of FSEND is read. An access that others precede stays as it is. -/
def execAccessPerformed (id : Nat) (s : State) : Out :=
  match s.accs.find? (fun a => a.id = id) with
  | some a =>
    match a.eff with
    | .read d ls =>
      if precededBy s a false then .next s
      else
        let bs := ls.map (fun l => loadByte s a.n (Eng.ofTag a.eng) l.2 l.1)
        let t := s.dropAcc id
        .next (t.setCore a.n (deliver (t.core a.n) d bs))
    | .counter k add v => if precededBy s a false then .next s else .next (applyCounter (s.dropAcc id) k add v)
    | .write key bs =>
      if a.atCore then
        if precededBy s a false then .next s else .next (writeBytes (s.dropAcc id) key bs)
      else if precededBy s a true then .next s
      else .next { s with accs := seenByCore s.accs a }
  | none =>
    match s.fabric.bulks.find? (fun b => b.id = id ∧ b.queued = false ∧ b.lines ≠ 0 ∧ b.st = 0) with
    | some b => if bulkMay s b then .next (stepBulk s b) else .next s
    | none => .next s

end Sys2Proof.Machine
end

