-- ==== Sys2Proof/Machine/System.lean ====
section
/-!
DEFINITION. System instructions: register reads and writes (R332, R337), TRAP, BRK and WFI (R343), and RTE (R342).
-/

namespace Sys2Proof.Machine

/-- SRD (R337). -/
def execSrd (d : BitVec 5) (r : BitVec 12) (s : State) : Out :=
  match readReg s s.curCore r.toNat with
  | none => .next (trapHere 1 s.wordVal s)
  | some v => resultS d (BitVec.ofNat 64 v) s

/-- SWR (R332, R337). -/
def execSwr (a : BitVec 5) (r : BitVec 12) (s : State) : Out :=
  match tryWrite s s.curCore r.toNat (s.sval a) with
  | .error c => .next (trapHere c s.wordVal s)
  | .ok t => .next (retire t)

/-- TRAP (R342, R343): the word completes, and the saved pc is that of the next one. -/
def execTrap (a : BitVec 5) (s : State) : Out := .next (trapHere 0x14 (s.sval a) (retire s))

/-- BRK (R343): the saved pc is that of the word itself. -/
def execBrk (n : BitVec 5) (s : State) : Out := .next (trapHere 0x15 (n.setWidth 64) s)

/-- What ends a WFI of core n (R343). -/
def wakes (s : State) (n : Nat) : Bool :=
  let c := s.core n
  if n = Config.serviceCore then decide (s.plinth.intPend &&& s.plinth.intEn ≠ 0)
  else c.events.entries.any (fun e => !e.2.isEmpty) || c.stopReq.isSome

/-- WFI (R343). -/
def execWfi (s : State) : Out := if wakes s s.curCore then .next (retire s) else .next (stallIn .wfi s)

/-- WFI_WAKE (R343): the first S that waits in WFI and may go on, in order of cores, goes on. DEDUCED (log 69). -/
def execWfiWake (s : State) : Out :=
  match s.cores.keys.find? (fun n => waiting s n .s (fun k => k = .wfi) && wakes s n) with
  | some n => resumeWord (s.as n .s) (execWfi (s.as n .s))
  | none => .next s

/-- The loads that a handler has pending have no register to go to once its banks are gone (R342). -/
def dropReads (s : State) (n : Nat) : State :=
  { s with accs := s.accs.filter (fun a => match a.eff with
      | .read _ _ => decide (a.n ≠ n)
      | _ => true) }

/-- M waits at the RTE word that S stands at (R331, R342). -/
def handlerDone (c : Core) : Bool :=
  let m := c.hseqs.get {} 2
  decide (m.pc = (c.hseqs.get {} 0).pc) && m.wait.any (fun w => decide (w.kind = .rte))

/-- The end of a rebuild stub: every sequencer goes on at its saved pc (R134, R342). -/
def Core.leaveStub (c : Core) : Core :=
  let q := c.seqs.get {} 0
  { c with
    spdist := 0, mode := .run, stubSafe := none
    seqs := c.seqs.set {} 0 { q with pc := c.stubPc, ended := c.stubEnded, atSafe := c.stubSafe } }.stopAtOnce

/-- RTE (R342). -/
def execRte (s : State) : Out :=
  let c := s.me
  if s.curCore = Config.serviceCore then
    if c.fwHandler then .next ((retire s).setMe (retire s).me.leaveService) else .next (trapHere 4 s.wordVal s)
  else
    match c.mode with
    | .run => .next (trapHere 4 s.wordVal s)
    | .stub => .next ((retire s).setMe (retire s).me.leaveStub)
    | .handler =>
      if handlerDone c then .next ((dropReads s s.curCore).setMe (retire s).me.leaveHandler) else .next (stallIn .rte s)

end Sys2Proof.Machine
end

