-- ==== Sys2Proof/Machine/Tick.lean ====
section
/-!
DEFINITION. The passing of a cycle: CYCLE, FTIME (R333, R261), the safe-point distance of each core (R78, R341), and a new
round of turns (R17).
-/

namespace Sys2Proof.Machine

/-- One cycle of a core. DESIGN CHOICE (log 73). -/
def Core.tick (c : Core) (n : Nat) : Core :=
  let c := { c with turn := 0 }
  if c.distanceRuns n ∧ c.spdist < c.spdmax then { c with spdist := c.spdist + 1 } else c

/-- One cycle of the device. FTIME is the plinth timer in nanoseconds, 20 for each 21 cycles (R261).
DESIGN CHOICE (log 73). -/
def tick (s : State) : State :=
  { s with
    cores := ⟨s.cores.entries.map (fun e => (e.1, e.2.tick e.1))⟩
    cycle := s.cycle + 1
    ftime := if s.cycle % 21 = 20 then s.ftime else s.ftime + 1 }

end Sys2Proof.Machine
end

