-- ==== Sys2Proof/Machine/EventRows.lean ====
section
/-!
DEFINITION. The events of a core that no instruction stands beside: trap entry (R338), the limits on handlers, waits and
safe-point distance (R78, R336, R341), slip release (R67), and retirement from the region table (R106).
-/

namespace Sys2Proof.Machine

/-- TRAP_ENTRY (R338): the cut of core n is complete once everything issued before it has been performed. -/
def execTrapEntry (n : Nat) (s : State) : Out := .next (tryTrap s n)

/-- A handler that has run for 65,536 cycles without RTE (R341). -/
def handlerOver (s : State) (n : Nat) : Bool :=
  let c := s.core n
  c.handling n && !c.halted && c.trapPend.isNone && decide (c.handlerSince + 65536 ≤ s.cycle)

/-- HANDLER_TIMEOUT (R341): a handler trap 0x0017. The spec states no address for it: a free value (log 11). -/
def execHandlerTimeout (n : Nat) (s : State) : Out :=
  if handlerOver s n then .next (raise s n .s 0x17 (BitVec.ofNat 64 (Config.freeNat s.nonce 11)) false) else .next s

/-- WATCHDOG (R336). -/
def execWatchdog (n : Nat) (e : Eng) (s : State) : Out := match overdue s n e with
  | some a => .next (raise s n e 0x17 a false)
  | none => .next s

/-- SAFE_POINT_DISTANCE (R78): the leading sequencer traps at the word it would issue next. DEDUCED (log 69). -/
def execSafePointDistance (n : Nat) (s : State) : Out := match tooFar s n with
  | some e => .next (raise s n e 0xE (BitVec.ofNat 64 (s.core n).spdist) false)
  | none => .next s

/-- SLIP_RELEASE (R67): the stalled sequencer executes its common word. -/
def execSlipRelease (n : Nat) (e : Eng) (s : State) : Out :=
  if waiting s n e (fun k => k = .slip) ∧ slipOk (s.core n) n e then
    let t := s.as n e
    match decode t.word with
    | .ok .nopc => resumeWord t (execNopc t)
    | .ok (.safept i) => resumeWord t (execSafept i t)
    | .ok (.loopk o) => resumeWord t (execLoopk o t)
    | .ok (.lexit o) => resumeWord t (execLexit o t)
    | .ok .endt => resumeWord t (execEndt t)
    | .ok (.rfence r p m) => resumeWord t (execRfence r p m t)
    | _ => .next s
  else .next s

/-- QUOIN_ENTRY_RETIRE (R106). -/
def execQuoinEntryRetire (n : Nat) (s : State) : Out := .next (s.setCore n ((s.core n).prune (team n)))

end Sys2Proof.Machine
end

