-- ==== Sys2Proof/Machine/Rings.lean ====
section
/-!
DEFINITION. Ring words of S and of the engines (R240-R246, R101). A ring word's register operand is s on S and g on an
engine; what it does to the ring is one operation for both.
-/

namespace Sys2Proof.Machine

def State.ring (s : State) (r : Nat) : Ring := s.me.rings.get {} r
def State.putRing (s : State) (r : Nat) (x : Ring) : State :=
  let c := s.me
  s.setMe { c with rings := c.rings.set {} r x }

/-- The address of slot j (R240). -/
def Ring.addr (r : Ring) (j : Nat) : W64 := BitVec.ofNat 64 (r.base + j * r.size)

/-- Ring misuse (R243). -/
def misuse (b : Bool) (r : Nat) : Except Stop Unit := trapIf b 0x11 (BitVec.ofNat 64 r)

def WaitKind.onRing (r : Nat) (claim : Bool) : WaitKind → Bool
  | .ring x c => decide (x = r) && decide (c = claim)
  | _ => false

/-- AWAITF: a full slot rd is taken to draining, its clock merged and its writes acquired (R241, R245). -/
def awaitSlot (r : Nat) (s : State) : Except Stop (State × W64) := do
  notInHandler s
  let x := s.ring r
  misuse (!x.valid) r
  let j := x.slot x.rd
  misuse (decide (j.tag = 3) && decide (j.owner = s.curEng.tag)) r
  if j.tag ≠ 2 ∨ queuedBefore s (WaitKind.onRing r false) then .error (.wait (.ring r false))
  else
    let t := s.putRing r (x.putSlot x.rd { j with tag := 3, owner := s.curEng.tag })
    let q := t.q
    .ok (acquire j.rel (t.setQ { q with vclk := q.vclk.learn j.clk }), x.addr x.rd)

/-- RELS: the draining slot rd becomes empty, its error flag as it was, and what the sequencer releases comes before its next
filling (R241, R168). Its deposited clock goes with it. DESIGN CHOICE (log 89). -/
def releaseSlot (r : Nat) (s : State) : Except Stop State := do
  notInHandler s
  let x := s.ring r
  misuse (!x.valid) r
  let j := x.slot x.rd
  misuse (decide (j.tag ≠ 3)) r
  .ok (s.putRing r { (x.putSlot x.rd { j with tag := 0, clk := none, rel := [] }) with
    rd := (x.rd + 1) % x.count
    rel := x.rel.filter (pendingAt s true) ++ edgeSet s s.curCore s.curEng })

/-- RCLAIM with expected count c: the empty slot cl is taken, and its error flag cleared where it is to be filled (R241, R245). A slot
just claimed holds no deposited clock: R241 lists no reset of it. DESIGN CHOICE (log 89). -/
def claimSlot (r : Nat) (c : W64) (s : State) : Except Stop (State × W64) := do
  notInHandler s
  let x := s.ring r
  misuse (!x.valid) r
  misuse (x.fabric || decide (c.toNat > x.size)) r
  if (x.slot x.cl).tag ≠ 0 ∨ queuedBefore s (WaitKind.onRing r true) then .error (.wait (.ring r true))
  else
    let y : Slot := { x.slot x.cl with b := 0, clk := none, rel := [] }
    let j : Slot := if c = 0 then { y with tag := 2 } else { y with tag := 1, x := c.toNat, a := 0, err := false }
    .ok (s.putRing r { (x.putSlot x.cl j) with cl := (x.cl + 1) % x.count }, x.addr x.cl)

/-- The ring status word (R246). DEDUCED (log 31). -/
def Ring.status (r : Ring) : W64 :=
  let j := r.slot r.rd
  if !r.valid then 0
  else BitVec.ofNat 64 (r.rd + 2 ^ 12 * r.cl + 2 ^ 24 * j.tag + boolBit j.err 26 + boolBit r.ovf 27 + 2 ^ 28 +
    2 ^ 32 * (if j.tag = 0 then 0 else if j.tag = 1 then j.a % 2 ^ 24 else j.b % 2 ^ 24))

/-! S ring words (R245). -/

def execAwaitf (d : BitVec 5) (r : BitVec 8) (s : State) : Out := conclude s (do
  let t ← awaitSlot r.toNat s
  .ok (retire (t.1.putS d t.2)))
def execRels (r : BitVec 8) (s : State) : Out := conclude s (do .ok (retire (← releaseSlot r.toNat s)))
def execRclaim (d : BitVec 5) (r : BitVec 8) (s : State) : Out := conclude s (do
  let t ← claimSlot r.toNat (s.sval d) s
  .ok (retire (t.1.putS d t.2)))
def execRstat (d : BitVec 5) (r : BitVec 8) (s : State) : Out := conclude s (do
  notInHandler s
  .ok (retire (s.putS d (s.ring r.toNat).status)))

/-- A power of two from 1 to 4,096. -/
def isSlotCount (n : Nat) : Bool := (List.range 13).any (fun k => n = 2 ^ k)

/-- Tags in use in the side array by rings other than ring r of the running instance (R240, R344). The service core has no
side array. -/
def tagsUsed (c : Core) (r : Nat) : Nat :=
  let sum (m : Sparse Ring) (f : Nat → Bool) := (m.entries.filter (fun e => f e.1)).foldl (fun a e => a + e.2.count) 0
  sum c.rings (fun k => k ≠ r) + ((c.parked.toList ++ c.spilled).map (fun p => sum p.rings (fun _ => true))).foldl (· + ·) 0
def tagsTotal (n : Nat) : Nat := if n = Config.serviceCore then 0 else 65536

/-- The ring a creating record describes, if its content obeys R240. -/
def ringOf (bs : List Byte) (limit : Nat) : Option Ring :=
  let f (o n : Nat) := leNat ((bs.drop o).take n)
  let base := f 0 8
  let size := f 8 4
  let count := f 12 4
  if base % 128 = 0 ∧ size % 128 = 0 ∧ 128 ≤ size ∧ size ≤ 0x400000 ∧ isSlotCount count ∧ f 16 4 < 4 ∧ f 20 12 = 0 ∧
    base + count * size ≤ limit then
    some { valid := true, base := base, size := size, count := count, fabric := decide (bitsOf (f 16 4) 0 1 = 1)
           remote := decide (bitsOf (f 16 4) 1 1 = 1) }
  else none

/-- RINIT (R240, R243, R245). -/
def execRinit (d : BitVec 5) (r : BitVec 8) (s : State) : Out :=
  let a := (s.sval d).toNat
  let k := r.toNat
  concludeIn s (
    andThen (check s (notInHandler s)) fun s _ =>
    andThen (check s (do
      trapIf (decide (a % 32 ≠ 0)) 5 (BitVec.ofNat 64 a)
      ownRead s a 32)) fun s _ =>
    andThen (readNow s a 32 32 0) fun s bs =>
    let x := s.ring k
    andThen (check s (misuse (x.slots.entries.any (fun e => e.2.tag = 1 || e.2.tag = 3)) k)) fun s _ =>
    if leNat ((bs.drop 12).take 4) = 0 then
      andThen (register s (ownFoot s a (ownLoc s a) 32 false)) fun s _ => (s, .ok (retire (s.putRing k {})))
    else
      match ringOf bs (ownBytes s) with
      | none => (s, .error (.trap 0x11 (BitVec.ofNat 64 k)))
      | some y =>
        andThen (check s (misuse (decide (tagsUsed s.me k + y.count > tagsTotal s.curCore)) k)) fun s _ =>
        andThen (register s (ownFoot s a (ownLoc s a) 32 false)) fun s _ => (s, .ok (retire (s.putRing k y))))

/-! Engine ring words (R101). -/

def execAwaitfEngine (_e : Eng) (g : BitVec 4) (r : BitVec 8) (s : State) : Out := conclude s (do
  let t ← awaitSlot r.toNat s
  .ok (retire (t.1.putG g t.2)))
def execRelsEngine (_e : Eng) (r : BitVec 8) (s : State) : Out := conclude s (do .ok (retire (← releaseSlot r.toNat s)))
def execRclaimEngine (_e : Eng) (g : BitVec 4) (r : BitVec 8) (s : State) : Out := conclude s (do
  let t ← claimSlot r.toNat (s.gval g) s
  .ok (retire (t.1.putG g t.2)))
def execRstatEngine (_e : Eng) (g : BitVec 4) (r : BitVec 8) (s : State) : Out := conclude s (do
  notInHandler s
  .ok (retire (s.putG g (s.ring r.toNat).status)))

def WaitKind.isRing : WaitKind → Bool
  | .ring _ _ => true
  | _ => false

/-- RING_WAIT_WAKE (R245). -/
def execRingWaitWake (n : Nat) (e : Eng) (s : State) : Out :=
  let t := s.as n e
  if waiting s n e WaitKind.isRing then
    match decode t.word with
    | .ok (.awaitf d r) => resumeWord t (execAwaitf d r t)
    | .ok (.rclaim d r) => resumeWord t (execRclaim d r t)
    | .ok (.awaitfEngine x g r) => resumeWord t (execAwaitfEngine x g r t)
    | .ok (.rclaimEngine x g r) => resumeWord t (execRclaimEngine x g r t)
    | _ => .next s
  else .next s

end Sys2Proof.Machine
end

