-- ==== Sys2Proof/Machine/VMem.lean ====
section
/-!
DEFINITION. Vector memory accesses (R194-R196).
-/

namespace Sys2Proof.Machine

/-- The active lanes of a mask, ascending, each with the address that f gives it. -/
def laneAddrs (m : BitVec 256) (f : Nat → Nat) : List (Nat × Nat) :=
  ((List.range 256).filter (fun i => m.getLsbD i)).map (fun i => (i, f i))

/-- Where a checked lane lies (R146). -/
def lanePlace (s : State) (acc : Acc) (a : Nat) : Place := match placeOf s s.curCore s.curEng acc a 4 with
  | .ok (some p) => p
  | _ => .mem 0 0

/-- The location of a lane in scratchpad. -/
def Place.loc : Place → Nat
  | .mem a _ => a
  | .tx t => t
  | .dev o => o

/-- Poison among the active lanes of a load (check 7 of R149): the lowest poisoned address traps, and is logged. -/
def lanePoison (s : State) (ls : List (Nat × Nat)) : State × Except Stop Unit :=
  let bad := ls.filter (fun l => poisonHere s ((lanePlace s .load l.2).loc / lineBytes))
  match bad.foldl (fun a l => match a with
    | none => some l.2
    | some x => some (min x l.2)) none with
  | some a => (logPoison s s.curCore .v (lanePlace s .load a).loc, .error (.trap 0xB (BitVec.ofNat 64 a)))
  | none => (s, .ok ())

/-- A vector load of the active lanes: the checks of R149 on them, the quoin checks, and the accesses, one atomic read for each
group that `key` forms of the lanes: a line of a contiguous load, else a lane (R166, R196). A failing check of R149 comes before a
conflict that the quoin checker finds. DESIGN CHOICE (log 94). -/
def laneLoad (v : BitVec 5) (c : BitVec 4) (ls : List (Nat × Nat)) (key : Nat × Nat → Nat) (s : State) :
    State × Except Stop State :=
  andThen (check s (spacesOk s .load (ls.map (·.2)))) fun s _ =>
  andThen (behindParked s false (fun k => k = c.toNat)) fun s _ =>
  andThen (lanePoison s ls) fun s _ =>
  andThen (register s (spanFoot s (ls.map (fun l => (l.2, 4))) false none)) fun s _ =>
  let part (k : Nat) : Dest × List (Nat × Nat) :=
    let grp := ls.filter (fun l => key l = k)
    (.lanes (phys v.toNat s.me.rrb) (grp.map (·.1)),
      grp.flatMap (fun l => (List.range 4).map (fun b => ((lanePlace s .load l.2).loc + b, 0))))
  (s, .ok (retire (issueLoads s c.toNat ((firsts (ls.map key) []).map part))))

/-- Bytes stored together: one line of a contiguous store, or one lane. Transmit space reflects them under version m. -/
def storeGroup (s : State) (cls : Nat) (tx : Option TxMap) (cells : List (Nat × Byte)) : State :=
  match tx, cells with
  | _, [] => s
  | some m, _ => reflect s m cells
  | none, e :: _ => issueStore (depositClock s e.1 cells.length) cls 0 cells

/-- A vector store of the active lanes, in the groups that `key` forms of their addresses (R194): one write, or one reflected
send, for each line of a contiguous store, and for each lane of the others, lanes of one line among them.
DESIGN CHOICE (log 78). Its checks come in the order of a load's. DESIGN CHOICE (log 94). -/
def laneStore (v : BitVec 5) (c : BitVec 4) (ls : List (Nat × Nat)) (key : Nat × Nat → Nat) (s : State) :
    State × Except Stop State :=
  let x := s.ctxNow
  andThen (check s (spacesOk s .store (ls.map (·.2)))) fun s _ =>
  let uncovered := ls.filter (fun l => match lanePlace s .store l.2 with
    | .tx t => (txCover s x t).isNone
    | _ => false)
  andThen (check s (match (uncovered.map (·.2)).foldl (fun a l => match a with
      | none => some l
      | some y => some (min y l)) none with
    | some a => .error (.trap 0x18 (BitVec.ofNat 64 a))
    | none => .ok ())) fun s _ =>
  andThen (behindParked s false (fun k => k = c.toNat)) fun s _ =>
  andThen (register s (spanFoot s (ls.map (fun l => (l.2, 4))) true none)) fun s _ =>
  let r := s.vec v
  let put (s : State) (k : Nat) : State :=
    let grp := ls.filter (fun l => key l = k)
    let cells := grp.flatMap (fun l => locate (lanePlace s .store l.2).loc (leBytes 4 (r.lane l.1).toNat))
    storeGroup s c.toNat (match (grp.map (fun l => lanePlace s .store l.2)).head? with
      | some (.tx t) => txCover s x t
      | _ => none) cells
  (s, .ok (retire ((firsts (ls.map key) []).foldl put s)))

/-- The address of a contiguous access, a multiple of 128 (R195). -/
def lineBase (s : State) (g : BitVec 4) (o : BitVec 8) : Nat := (s.gval g + BitVec.ofNat 64 (128 * o.toNat)).toNat

/-- The lanes of a contiguous access. Their addresses ea + 4i do not wrap modulo 2^64 as ea does: such a lane lies in no space.
DESIGN CHOICE (log 87). -/
def contiguous (s : State) (g : BitVec 4) (m : BitVec 3) (o : BitVec 8) : List (Nat × Nat) :=
  laneAddrs (s.mask m) (fun i => lineBase s g o + 4 * i)

/-- VLD (R195). -/
def execVld (v : BitVec 5) (g : BitVec 4) (m : BitVec 3) (c : BitVec 4) (o : BitVec 8) (s : State) : Out :=
  let ea := lineBase s g o
  concludeIn s (andThen (check s (trapIf (decide (ea % 128 ≠ 0)) 5 (BitVec.ofNat 64 ea))) fun s _ =>
    laneLoad v c (contiguous s g m o) (fun l => l.2 / lineBytes) s)

/-- VST (R195): each line is written with the bytes of its active lanes. -/
def execVst (v : BitVec 5) (g : BitVec 4) (m : BitVec 3) (c : BitVec 4) (o : BitVec 8) (s : State) : Out :=
  let ea := lineBase s g o
  concludeIn s (andThen (check s (trapIf (decide (ea % 128 ≠ 0)) 5 (BitVec.ofNat 64 ea))) fun s _ =>
    laneStore v c (contiguous s g m o) (fun l => l.2 / lineBytes) s)

/-- Lane addresses are multiples of 4: the lowest that is not traps (R196). -/
def lanesAligned (ls : List (Nat × Nat)) : Except Stop Unit :=
  match (ls.filter (fun l => l.2 % 4 ≠ 0)).foldl (fun a l => match a with
    | none => some l.2
    | some x => some (min x l.2)) none with
  | some a => .error (.trap 5 (BitVec.ofNat 64 a))
  | none => .ok ()

/-- The lanes of a strided access. -/
def strided (s : State) (g : BitVec 4) (m : BitVec 3) (t : BitVec 4) : List (Nat × Nat) :=
  laneAddrs (s.mask m) (fun i => (s.gval g + BitVec.ofNat 64 i * s.gval t).toNat)

/-- The lanes of an indexed access; the index vector does not rotate. -/
def indexed (s : State) (g : BitVec 4) (m : BitVec 3) (x : BitVec 4) : List (Nat × Nat) :=
  let ix := s.me.v x.toNat
  laneAddrs (s.mask m) (fun i => (s.gval g + (ix.lane i).setWidth 64).toNat)

/-- VLDS (R196). -/
def execVlds (v : BitVec 5) (g : BitVec 4) (m : BitVec 3) (c t : BitVec 4) (s : State) : Out :=
  concludeIn s (andThen (check s (lanesAligned (strided s g m t))) fun s _ =>
    laneLoad v c (strided s g m t) (fun l => l.1) s)

/-- VSTS (R196): lanes are written in ascending order, each by itself. -/
def execVsts (v : BitVec 5) (g : BitVec 4) (m : BitVec 3) (c t : BitVec 4) (s : State) : Out :=
  concludeIn s (andThen (check s (lanesAligned (strided s g m t))) fun s _ =>
    laneStore v c (strided s g m t) (fun l => l.1) s)

/-- VGTH (R196). -/
def execVgth (v : BitVec 5) (g : BitVec 4) (m : BitVec 3) (c x : BitVec 4) (s : State) : Out :=
  concludeIn s (andThen (check s (lanesAligned (indexed s g m x))) fun s _ =>
    laneLoad v c (indexed s g m x) (fun l => l.1) s)

/-- VSCT (R196). -/
def execVsct (v : BitVec 5) (g : BitVec 4) (m : BitVec 3) (c x : BitVec 4) (s : State) : Out :=
  concludeIn s (andThen (check s (lanesAligned (indexed s g m x))) fun s _ =>
    laneStore v c (indexed s g m x) (fun l => l.1) s)

end Sys2Proof.Machine
end

