-- ==== Sys2Proof/Machine/Dispatch.lean ====
section
/-! DEFINITION. What each instruction does: one arm per constructor, each a call of its meaning. -/

namespace Sys2Proof.Machine

def exec (i : Instr) (s : State) : Host.Outcome State Fault Refusal :=
  match i with
  | .add a b c => Sys2Proof.Machine.execAdd a b c s
  | .sub a b c => Sys2Proof.Machine.execSub a b c s
  | .mul a b c => Sys2Proof.Machine.execMul a b c s
  | .mulh a b c => Sys2Proof.Machine.execMulh a b c s
  | .mulhn a b c => Sys2Proof.Machine.execMulhn a b c s
  | .div a b c => Sys2Proof.Machine.execDiv a b c s
  | .divn a b c => Sys2Proof.Machine.execDivn a b c s
  | .rem a b c => Sys2Proof.Machine.execRem a b c s
  | .remn a b c => Sys2Proof.Machine.execRemn a b c s
  | .and a b c => Sys2Proof.Machine.execAnd a b c s
  | .or a b c => Sys2Proof.Machine.execOr a b c s
  | .xor a b c => Sys2Proof.Machine.execXor a b c s
  | .andn a b c => Sys2Proof.Machine.execAndn a b c s
  | .shl a b c => Sys2Proof.Machine.execShl a b c s
  | .shr a b c => Sys2Proof.Machine.execShr a b c s
  | .sra a b c => Sys2Proof.Machine.execSra a b c s
  | .rol a b c => Sys2Proof.Machine.execRol a b c s
  | .min a b c => Sys2Proof.Machine.execMin a b c s
  | .max a b c => Sys2Proof.Machine.execMax a b c s
  | .minn a b c => Sys2Proof.Machine.execMinn a b c s
  | .maxn a b c => Sys2Proof.Machine.execMaxn a b c s
  | .slt a b c => Sys2Proof.Machine.execSlt a b c s
  | .sltn a b c => Sys2Proof.Machine.execSltn a b c s
  | .seq a b c => Sys2Proof.Machine.execSeq a b c s
  | .clz a b => Sys2Proof.Machine.execClz a b s
  | .ctz a b => Sys2Proof.Machine.execCtz a b s
  | .popc a b => Sys2Proof.Machine.execPopc a b s
  | .addi a b c => Sys2Proof.Machine.execAddi a b c s
  | .andi a b c => Sys2Proof.Machine.execAndi a b c s
  | .ori a b c => Sys2Proof.Machine.execOri a b c s
  | .xori a b c => Sys2Proof.Machine.execXori a b c s
  | .slti a b c => Sys2Proof.Machine.execSlti a b c s
  | .shli a b c => Sys2Proof.Machine.execShli a b c s
  | .shri a b c => Sys2Proof.Machine.execShri a b c s
  | .srai a b c => Sys2Proof.Machine.execSrai a b c s
  | .sext a b c => Sys2Proof.Machine.execSext a b c s
  | .zext a b c => Sys2Proof.Machine.execZext a b c s
  | .lup a b => Sys2Proof.Machine.execLup a b s
  | .beq a b c => Sys2Proof.Machine.execBeq a b c s
  | .bne a b c => Sys2Proof.Machine.execBne a b c s
  | .blt a b c => Sys2Proof.Machine.execBlt a b c s
  | .bge a b c => Sys2Proof.Machine.execBge a b c s
  | .bltn a b c => Sys2Proof.Machine.execBltn a b c s
  | .bgen a b c => Sys2Proof.Machine.execBgen a b c s
  | .jmp a => Sys2Proof.Machine.execJmp a s
  | .call a => Sys2Proof.Machine.execCall a s
  | .jr a => Sys2Proof.Machine.execJr a s
  | .callr a => Sys2Proof.Machine.execCallr a s
  | .loop a b => Sys2Proof.Machine.execLoop a b s
  | .ld a b c d e f => Sys2Proof.Machine.execLd a b c d e f s
  | .st a b c d e => Sys2Proof.Machine.execSt a b c d e s
  | .fadd a b c => Sys2Proof.Machine.execFadd a b c s
  | .fsub a b c => Sys2Proof.Machine.execFsub a b c s
  | .fmul a b c => Sys2Proof.Machine.execFmul a b c s
  | .fdiv a b c => Sys2Proof.Machine.execFdiv a b c s
  | .fmin a b c => Sys2Proof.Machine.execFmin a b c s
  | .fmax a b c => Sys2Proof.Machine.execFmax a b c s
  | .flt a b c => Sys2Proof.Machine.execFlt a b c s
  | .fle a b c => Sys2Proof.Machine.execFle a b c s
  | .feq a b c => Sys2Proof.Machine.execFeq a b c s
  | .fcvtf a b => Sys2Proof.Machine.execFcvtf a b s
  | .fcvti a b => Sys2Proof.Machine.execFcvti a b s
  | .fsqrt a b => Sys2Proof.Machine.execFsqrt a b s
  | .post a => Sys2Proof.Machine.execPost a s
  | .postv a b => Sys2Proof.Machine.execPostv a b s
  | .await a => Sys2Proof.Machine.execAwait a s
  | .awaitv a b => Sys2Proof.Machine.execAwaitv a b s
  | .tawait a b => Sys2Proof.Machine.execTawait a b s
  | .ctake a b c => Sys2Proof.Machine.execCtake a b c s
  | .ctadd a b => Sys2Proof.Machine.execCtadd a b s
  | .ctwait a b c => Sys2Proof.Machine.execCtwait a b c s
  | .ctset a b => Sys2Proof.Machine.execCtset a b s
  | .ctrd a b => Sys2Proof.Machine.execCtrd a b s
  | .barw a b c => Sys2Proof.Machine.execBarw a b c s
  | .cfence a b c => Sys2Proof.Machine.execCfence a b c s
  | .spawn a b c => Sys2Proof.Machine.execSpawn a b c s
  | .lread a b => Sys2Proof.Machine.execLread a b s
  | .idx a b => Sys2Proof.Machine.execIdx a b s
  | .ssopen a b => Sys2Proof.Machine.execSsopen a b s
  | .ssclose a b => Sys2Proof.Machine.execSsclose a b s
  | .sseed a b c => Sys2Proof.Machine.execSseed a b c s
  | .sfbeg a b c => Sys2Proof.Machine.execSfbeg a b c s
  | .sfend a b c => Sys2Proof.Machine.execSfend a b c s
  | .sjump a b => Sys2Proof.Machine.execSjump a b s
  | .spfx a b => Sys2Proof.Machine.execSpfx a b s
  | .swaitp a b c => Sys2Proof.Machine.execSwaitp a b c s
  | .srecyc a b => Sys2Proof.Machine.execSrecyc a b s
  | .saccept a b c => Sys2Proof.Machine.execSaccept a b c s
  | .sresid a b c => Sys2Proof.Machine.execSresid a b c s
  | .scancel a b => Sys2Proof.Machine.execScancel a b s
  | .sflt a b c => Sys2Proof.Machine.execSflt a b c s
  | .swaitf a b => Sys2Proof.Machine.execSwaitf a b s
  | .srd a b => Sys2Proof.Machine.execSrd a b s
  | .swr a b => Sys2Proof.Machine.execSwr a b s
  | .tlbiVa a b => Sys2Proof.Machine.execTlbiVa a b s
  | .tlbiCtx a => Sys2Proof.Machine.execTlbiCtx a s
  | .tlbiAll => Sys2Proof.Machine.execTlbiAll s
  | .trap a => Sys2Proof.Machine.execTrap a s
  | .rte => Sys2Proof.Machine.execRte s
  | .wfi => Sys2Proof.Machine.execWfi s
  | .brk a => Sys2Proof.Machine.execBrk a s
  | .tlbsync => Sys2Proof.Machine.execTlbsync s
  | .awaitf a b => Sys2Proof.Machine.execAwaitf a b s
  | .rels a => Sys2Proof.Machine.execRels a s
  | .rclaim a b => Sys2Proof.Machine.execRclaim a b s
  | .rstat a b => Sys2Proof.Machine.execRstat a b s
  | .rinit a b => Sys2Proof.Machine.execRinit a b s
  | .limm a => Sys2Proof.Machine.execLimm a s
  | .nopc => Sys2Proof.Machine.execNopc s
  | .safept a => Sys2Proof.Machine.execSafept a s
  | .loopk a => Sys2Proof.Machine.execLoopk a s
  | .lexit a => Sys2Proof.Machine.execLexit a s
  | .endt => Sys2Proof.Machine.execEndt s
  | .rfence a b c => Sys2Proof.Machine.execRfence a b c s
  | .pushi a b => Sys2Proof.Machine.execPushi a b s
  | .pushg a b c => Sys2Proof.Machine.execPushg a b c s
  | .gaddi a b c d => Sys2Proof.Machine.execGaddi a b c d s
  | .gadd a b c d => Sys2Proof.Machine.execGadd a b c d s
  | .gshli a b c d => Sys2Proof.Machine.execGshli a b c d s
  | .gmuli a b c d => Sys2Proof.Machine.execGmuli a b c d s
  | .popg a b => Sys2Proof.Machine.execPopg a b s
  | .dupp a => Sys2Proof.Machine.execDupp a s
  | .dropp a => Sys2Proof.Machine.execDropp a s
  | .swapp a => Sys2Proof.Machine.execSwapp a s
  | .gmovi a b c => Sys2Proof.Machine.execGmovi a b c s
  | .gld a b c d e => Sys2Proof.Machine.execGld a b c d e s
  | .gst a b c d e => Sys2Proof.Machine.execGst a b c d e s
  | .epost a b => Sys2Proof.Machine.execEpost a b s
  | .epostv a b c => Sys2Proof.Machine.execEpostv a b c s
  | .ewait a b => Sys2Proof.Machine.execEwait a b s
  | .ewaitv a b c => Sys2Proof.Machine.execEwaitv a b c s
  | .ejmp a b => Sys2Proof.Machine.execEjmp a b s
  | .edbnz a b c => Sys2Proof.Machine.execEdbnz a b c s
  | .ebz a b c => Sys2Proof.Machine.execEbz a b c s
  | .ebnz a b c => Sys2Proof.Machine.execEbnz a b c s
  | .awaitfEngine a b c => Sys2Proof.Machine.execAwaitfEngine a b c s
  | .relsEngine a b => Sys2Proof.Machine.execRelsEngine a b s
  | .rclaimEngine a b c => Sys2Proof.Machine.execRclaimEngine a b c s
  | .rstatEngine a b c => Sys2Proof.Machine.execRstatEngine a b c s
  | .elimm a b => Sys2Proof.Machine.execElimm a b s
  | .vadd a b c d => Sys2Proof.Machine.execVadd a b c d s
  | .vsub a b c d => Sys2Proof.Machine.execVsub a b c d s
  | .vmul a b c d => Sys2Proof.Machine.execVmul a b c d s
  | .vdiv a b c d => Sys2Proof.Machine.execVdiv a b c d s
  | .vmin a b c d => Sys2Proof.Machine.execVmin a b c d s
  | .vmax a b c d => Sys2Proof.Machine.execVmax a b c d s
  | .vabs a b c => Sys2Proof.Machine.execVabs a b c s
  | .vneg a b c => Sys2Proof.Machine.execVneg a b c s
  | .vsqrt a b c => Sys2Proof.Machine.execVsqrt a b c s
  | .vrsqrt a b c => Sys2Proof.Machine.execVrsqrt a b c s
  | .vrcp a b c => Sys2Proof.Machine.execVrcp a b c s
  | .vexp2 a b c => Sys2Proof.Machine.execVexp2 a b c s
  | .vlog2 a b c => Sys2Proof.Machine.execVlog2 a b c s
  | .viadd a b c d => Sys2Proof.Machine.execViadd a b c d s
  | .visub a b c d => Sys2Proof.Machine.execVisub a b c d s
  | .vimul a b c d => Sys2Proof.Machine.execVimul a b c d s
  | .vimulh a b c d => Sys2Proof.Machine.execVimulh a b c d s
  | .vimulhn a b c d => Sys2Proof.Machine.execVimulhn a b c d s
  | .viand a b c d => Sys2Proof.Machine.execViand a b c d s
  | .vior a b c d => Sys2Proof.Machine.execVior a b c d s
  | .vixor a b c d => Sys2Proof.Machine.execVixor a b c d s
  | .vishl a b c d => Sys2Proof.Machine.execVishl a b c d s
  | .vishr a b c d => Sys2Proof.Machine.execVishr a b c d s
  | .visra a b c d => Sys2Proof.Machine.execVisra a b c d s
  | .vimin a b c d => Sys2Proof.Machine.execVimin a b c d s
  | .vimax a b c d => Sys2Proof.Machine.execVimax a b c d s
  | .viminn a b c d => Sys2Proof.Machine.execViminn a b c d s
  | .vimaxn a b c d => Sys2Proof.Machine.execVimaxn a b c d s
  | .vfma a b c d e => Sys2Proof.Machine.execVfma a b c d e s
  | .vfnma a b c d e => Sys2Proof.Machine.execVfnma a b c d e s
  | .vcmp a b c d e f g => Sys2Proof.Machine.execVcmp a b c d e f g s
  | .mand a b c => Sys2Proof.Machine.execMand a b c s
  | .mor a b c => Sys2Proof.Machine.execMor a b c s
  | .mxor a b c => Sys2Proof.Machine.execMxor a b c s
  | .mnot a b => Sys2Proof.Machine.execMnot a b s
  | .mpop a b => Sys2Proof.Machine.execMpop a b s
  | .mset a b => Sys2Proof.Machine.execMset a b s
  | .vsel a b c d => Sys2Proof.Machine.execVsel a b c d s
  | .vcvt a b c d e f => Sys2Proof.Machine.execVcvt a b c d e f s
  | .vqmx a b c => Sys2Proof.Machine.execVqmx a b c s
  | .vdqmx a b c => Sys2Proof.Machine.execVdqmx a b c s
  | .vrsum a b c => Sys2Proof.Machine.execVrsum a b c s
  | .vrmax a b c => Sys2Proof.Machine.execVrmax a b c s
  | .vrmin a b c => Sys2Proof.Machine.execVrmin a b c s
  | .vargmax a b c => Sys2Proof.Machine.execVargmax a b c s
  | .vargmin a b c => Sys2Proof.Machine.execVargmin a b c s
  | .vrisum a b c => Sys2Proof.Machine.execVrisum a b c s
  | .vscan a b c d => Sys2Proof.Machine.execVscan a b c d s
  | .vperm a b c d => Sys2Proof.Machine.execVperm a b c d s
  | .vslup a b c d => Sys2Proof.Machine.execVslup a b c d s
  | .vsldn a b c d => Sys2Proof.Machine.execVsldn a b c d s
  | .vbcast a b c d => Sys2Proof.Machine.execVbcast a b c d s
  | .viota a b => Sys2Proof.Machine.execViota a b s
  | .vsortd a b c d => Sys2Proof.Machine.execVsortd a b c d s
  | .vrng a b c d e => Sys2Proof.Machine.execVrng a b c d e s
  | .vld a b c d e => Sys2Proof.Machine.execVld a b c d e s
  | .vst a b c d e => Sys2Proof.Machine.execVst a b c d e s
  | .vlds a b c d e => Sys2Proof.Machine.execVlds a b c d e s
  | .vsts a b c d e => Sys2Proof.Machine.execVsts a b c d e s
  | .vgth a b c d e => Sys2Proof.Machine.execVgth a b c d e s
  | .vsct a b c d e => Sys2Proof.Machine.execVsct a b c d e s
  | .vsplf a b => Sys2Proof.Machine.execVsplf a b s
  | .vspli a b => Sys2Proof.Machine.execVspli a b s
  | .vmov a b c => Sys2Proof.Machine.execVmov a b c s
  | .vins a b c => Sys2Proof.Machine.execVins a b c s
  | .vext a b c => Sys2Proof.Machine.execVext a b c s
  | .mld a => Sys2Proof.Machine.execMld a s
  | .mldAcc a => Sys2Proof.Machine.execMldAcc a s
  | .mst a => Sys2Proof.Machine.execMst a s
  | .mzero a => Sys2Proof.Machine.execMzero a s
  | .mmov a b => Sys2Proof.Machine.execMmov a b s
  | .mma a b c d => Sys2Proof.Machine.execMma a b c d s
  | .moutl a b c d => Sys2Proof.Machine.execMoutl a b c d s
  | .mhad a b => Sys2Proof.Machine.execMhad a b s
  | .mdrain a b c => Sys2Proof.Machine.execMdrain a b c s
  | .maddt a b c => Sys2Proof.Machine.execMaddt a b c s
  | .maddtI a b c => Sys2Proof.Machine.execMaddtI a b c s
  | .mscl a b => Sys2Proof.Machine.execMscl a b s
  | .msclCol a b => Sys2Proof.Machine.execMsclCol a b s
  | .msclRow a b => Sys2Proof.Machine.execMsclRow a b s
  | .mfmt => Sys2Proof.Machine.execMfmt s
  | .bmv => Sys2Proof.Machine.execBmv s
  | .msave a => Sys2Proof.Machine.execMsave a s
  | .mrest a => Sys2Proof.Machine.execMrest a s
  | .copy => Sys2Proof.Machine.execCopy s
  | .copyl => Sys2Proof.Machine.execCopyl s
  | .copyi => Sys2Proof.Machine.execCopyi s
  | .cfill => Sys2Proof.Machine.execCfill s
  | .ccomb a => Sys2Proof.Machine.execCcomb a s
  | .scacc => Sys2Proof.Machine.execScacc s
  | .sfacc => Sys2Proof.Machine.execSfacc s
  | .fsend => Sys2Proof.Machine.execFsend s
  | .fsacc a => Sys2Proof.Machine.execFsacc a s
  | .fqsend a => Sys2Proof.Machine.execFqsend a s
  | .wmapw a => Sys2Proof.Machine.execWmapw a s
  | .wmapr a => Sys2Proof.Machine.execWmapr a s
  | .rxww a => Sys2Proof.Machine.execRxww a s
  | .fslotw => Sys2Proof.Machine.execFslotw s
  | .fslotgo => Sys2Proof.Machine.execFslotgo s
  | .fslotst a => Sys2Proof.Machine.execFslotst a s
  | .fgrp a => Sys2Proof.Machine.execFgrp a s
  | .fpath a => Sys2Proof.Machine.execFpath a s
  | .fqst a => Sys2Proof.Machine.execFqst a s
  | .reservedTag => Sys2Proof.Machine.execReservedTag s
  | .zeroWord => Sys2Proof.Machine.execZeroWord s
  | .trapEntry a => Sys2Proof.Machine.execTrapEntry a s
  | .handlerTimeout a => Sys2Proof.Machine.execHandlerTimeout a s
  | .watchdog a b => Sys2Proof.Machine.execWatchdog a b s
  | .safePointDistance a => Sys2Proof.Machine.execSafePointDistance a s
  | .tawaitTimeout a => Sys2Proof.Machine.execTawaitTimeout a s
  | .commonWordPass a b => Sys2Proof.Machine.execCommonWordPass a b s
  | .slipRelease a b => Sys2Proof.Machine.execSlipRelease a b s
  | .eventWaitWake a b => Sys2Proof.Machine.execEventWaitWake a b s
  | .ringWaitWake a b => Sys2Proof.Machine.execRingWaitWake a b s
  | .counterWaitWake a b => Sys2Proof.Machine.execCounterWaitWake a b s
  | .barrierRelease a => Sys2Proof.Machine.execBarrierRelease a s
  | .sliceWaitWake a b => Sys2Proof.Machine.execSliceWaitWake a b s
  | .wfiWake => Sys2Proof.Machine.execWfiWake s
  | .quoinEntryRetire a => Sys2Proof.Machine.execQuoinEntryRetire a s
  | .rfenceComplete a => Sys2Proof.Machine.execRfenceComplete a s
  | .tableWalk a b c => Sys2Proof.Machine.execTableWalk a b c s
  | .replayRetry a b => Sys2Proof.Machine.execReplayRetry a b s
  | .replayFail a b => Sys2Proof.Machine.execReplayFail a b s
  | .patrolScrub a => Sys2Proof.Machine.execPatrolScrub a s
  | .copyLineWrite a b => Sys2Proof.Machine.execCopyLineWrite a b s
  | .bmvRowWrite a b c => Sys2Proof.Machine.execBmvRowWrite a b c s
  | .ccombReport a b => Sys2Proof.Machine.execCcombReport a b s
  | .abandonment a => Sys2Proof.Machine.execAbandonment a s
  | .lineArrival a => Sys2Proof.Machine.execLineArrival a s
  | .reductionPartialArrival a => Sys2Proof.Machine.execReductionPartialArrival a s
  | .reductionResultArrival a => Sys2Proof.Machine.execReductionResultArrival a s
  | .acknowledgementArrival a b => Sys2Proof.Machine.execAcknowledgementArrival a b s
  | .reservedPacket a => Sys2Proof.Machine.execReservedPacket a s
  | .packetCrcFailure a => Sys2Proof.Machine.execPacketCrcFailure a s
  | .packetResend a => Sys2Proof.Machine.execPacketResend a s
  | .packetLaunch a => Sys2Proof.Machine.execPacketLaunch a s
  | .rotationStart => Sys2Proof.Machine.execRotationStart s
  | .slotStart => Sys2Proof.Machine.execSlotStart s
  | .guardIntervalStart => Sys2Proof.Machine.execGuardIntervalStart s
  | .quiesceSet => Sys2Proof.Machine.execQuiesceSet s
  | .quiesceClear => Sys2Proof.Machine.execQuiesceClear s
  | .linkRetrainComplete a => Sys2Proof.Machine.execLinkRetrainComplete a s
  | .heatWrite a b c => Sys2Proof.Machine.execHeatWrite a b c s
  | .assignWrite a b c d => Sys2Proof.Machine.execAssignWrite a b c d s
  | .fibreResume a => Sys2Proof.Machine.execFibreResume a s
  | .fibrePauseTimeout a => Sys2Proof.Machine.execFibrePauseTimeout a s
  | .monUpdate a b c => Sys2Proof.Machine.execMonUpdate a b c s
  | .optTempUpdate a => Sys2Proof.Machine.execOptTempUpdate a s
  | .keySlotValid a b => Sys2Proof.Machine.execKeySlotValid a b s
  | .contextValidSet a => Sys2Proof.Machine.execContextValidSet a s
  | .contextValidClear a => Sys2Proof.Machine.execContextValidClear a s
  | .notify a b c d e => Sys2Proof.Machine.execNotify a b c d e s
  | .sequenceRecheck a b => Sys2Proof.Machine.execSequenceRecheck a b s
  | .queueHalt a b => Sys2Proof.Machine.execQueueHalt a b s
  | .qstatHaltedClear a b => Sys2Proof.Machine.execQstatHaltedClear a b s
  | .launchAccept => Sys2Proof.Machine.execLaunchAccept s
  | .instancePlace a => Sys2Proof.Machine.execInstancePlace a s
  | .textStaging a => Sys2Proof.Machine.execTextStaging a s
  | .instanceEnd a => Sys2Proof.Machine.execInstanceEnd a s
  | .launchComplete a => Sys2Proof.Machine.execLaunchComplete a s
  | .drainBudgetExpiry a => Sys2Proof.Machine.execDrainBudgetExpiry a s
  | .checkpointComplete a => Sys2Proof.Machine.execCheckpointComplete a s
  | .forcedCut a => Sys2Proof.Machine.execForcedCut a s
  | .instanceResume a => Sys2Proof.Machine.execInstanceResume a s
  | .dieFence a => Sys2Proof.Machine.execDieFence a s
  | .masterElection => Sys2Proof.Machine.execMasterElection s
  | .overflowMove a b => Sys2Proof.Machine.execOverflowMove a b s
  | .coreCmdResume a => Sys2Proof.Machine.execCoreCmdResume a s
  | .coreCmdTerminate a => Sys2Proof.Machine.execCoreCmdTerminate a s
  | .tileSaveGo a => Sys2Proof.Machine.execTileSaveGo a s
  | .tileRestoreGo a => Sys2Proof.Machine.execTileRestoreGo a s
  | .tileTransferComplete a => Sys2Proof.Machine.execTileTransferComplete a s
  | .ltsCommit => Sys2Proof.Machine.execLtsCommit s
  | .ltsCommitComplete => Sys2Proof.Machine.execLtsCommitComplete s
  | .measurementExtend a b c => Sys2Proof.Machine.execMeasurementExtend a b c s
  | .attestationRequest a b => Sys2Proof.Machine.execAttestationRequest a b s
  | .powerGood a => Sys2Proof.Machine.execPowerGood a s
  | .powerSample a b => Sys2Proof.Machine.execPowerSample a b s
  | .throttleAdjust => Sys2Proof.Machine.execThrottleAdjust s
  | .hostBar2Write a b c => Sys2Proof.Machine.execHostBar2Write a b c s
  | .hostBar2Read a b c => Sys2Proof.Machine.execHostBar2Read a b c s
  | .slipwWrite a b => Sys2Proof.Machine.execSlipwWrite a b s
  | .detmodeWrite a b => Sys2Proof.Machine.execDetmodeWrite a b s
  | .registerWrite a b c => Sys2Proof.Machine.execRegisterWrite a b c s
  | .accessPerformed a => Sys2Proof.Machine.execAccessPerformed a s
  | .tlbInvalidationComplete a => Sys2Proof.Machine.execTlbInvalidationComplete a s
  | .foreignWordsPassed => Sys2Proof.Machine.execForeignWordsPassed s

end Sys2Proof.Machine
end

