-- ==== Sys2Proof/Machine/Issue.lean ====
section
/-!
DEFINITION. Issue: one turn of a sequencer, which examines its words and runs the first that is its own (R17-R20, R28,
R29).
-/

namespace Sys2Proof.Machine

/-- A target that a prefix may widen (R28, R29), or another prefix. DEDUCED (log 13). -/
def takesPrefix : Instr → Bool
  | .addi _ _ _ => true
  | .andi _ _ _ => true
  | .ori _ _ _ => true
  | .xori _ _ _ => true
  | .slti _ _ _ => true
  | .lup _ _ => true
  | .limm _ => true
  | .pushi _ _ => true
  | .pushg _ _ _ => true
  | .gaddi _ _ _ _ => true
  | .gmuli _ _ _ _ => true
  | .gmovi _ _ _ => true
  | .elimm _ _ => true
  | _ => false

/-- Every sequencer of the executing core that has not executed ENDT stands at word address pc. DEDUCED (log 34). -/
def allAt (s : State) (pc : Nat) : Bool :=
  (team s.curCore).all (fun p => (s.me.seqs.get {} p.tag).ended || decide ((s.me.seqs.get {} p.tag).pc = pc))

/-- A word that is no instruction (R18, R19): an illegal common word is taken by S alone, and the others stop at it. The cut
finds every sequencer there: S traps once they have come. In a handler it is a handler trap at once, of either sequencer that runs
there (R331, R339, R341). DEDUCED (log 34). -/
def illegalWord (s : State) : Out :=
  let t := (fld s.word 29 3).toNat
  if t = 7 ∧ s.me.mode = .run ∧ s.me.fwHandler = false ∧ (s.curEng ≠ .s ∨ !allAt s s.q.pc) then .next (stallIn .other s)
  else .next (raise s s.curCore s.curEng 1 s.wordVal (decide (t = 7)))

/-- The word is reserved on the executing core: tag 5 or 6, and 1, 2 or 4 on the service core (R15, R18). -/
def reservedHere (s : State) : Bool :=
  let t := (fld s.word 29 3).toNat
  decide (t = 5) || decide (t = 6) ||
  (decide (s.curCore = Config.serviceCore) && (decide (t = 1) || decide (t = 2) || decide (t = 4)))

/-- M stands at an RTE in handler memory, its stop point (R331, R342). -/
def rteStop (s : State) : Bool :=
  decide (s.curEng = .m) && decide (s.me.mode = .handler) && decide (s.word = rteWord)

/-- In handler mode S stands at a word of an engine that the handler holds (R331). -/
def heldTag (s : State) : Bool :=
  let t := (fld s.word 29 3).toNat
  decide (s.me.mode = .handler) && (decide (t = 1) || decide (t = 3) || decide (t = 4))

/-- The executing sequencer issues the word it stands at. DEDUCED (log 13). -/
def issueWord (s : State) : Out :=
  if rteStop s then .next (stallIn .rte s)
  else if heldTag s then conclude s (do notInHandler s; .ok s)
  else
    match (if reservedHere s then .error .reservedTag else decode s.word) with
    | .error r =>
      if s.q.pfx ≠ [] then .next (trapHere 1 (prefixWord s) s)
      else match r with
        | .reservedTag => exec .reservedTag s
        | .zeroWord => exec .zeroWord s
        | .illegal => illegalWord s
    | .ok i =>
      if s.q.pfx ≠ [] ∧ takesPrefix i = false then .next (trapHere 1 (prefixWord s) s)
      else if interlocked s s.curCore s.curEng s.word then .next (stallIn .other s)
      else exec i s

/-- Word addresses that a COPYI still writes on the executing core hold the examination that reaches them (R249). -/
def textBusy (s : State) (lo hi : Nat) : Bool :=
  s.me.copies.any (fun o => match o.text with
    | some (a, n) => decide (a < hi) && decide (lo < a + n)
    | none => false)

/-- Sequencer e of core n may still take its turn in this cycle: the sequencers of a core go in tag order, one word each (R17,
R82). -/
def inTurn (s : State) (n : Nat) (e : Eng) : Bool := decide ((s.core n).turn ≤ e.tag)

/-- The sequencer has taken its turn. -/
def Core.turned (c : Core) (e : Eng) : Core := { c with turn := e.tag + 1 }

/-- One turn of sequencer e of core n; `defer` leaves its accesses to be performed later. A sequencer that may not issue, or
whose turn in this cycle is over, does nothing. -/
def turnOf (n : Nat) (e : Eng) (defer : Bool) (s0 : State) : Out :=
  let s := ({ s0 with curCore := n, curEng := e, defer := defer }.setCore n ((s0.core n).turned e))
  if canIssue s0 n e = false ∨ inTurn s0 n e = false then .next { s0 with curCore := n, curEng := e, defer := defer }
  else
    match deliverDue s with
    | some t => .next t
    | none =>
      let s := s.notePc s.q.pc
      match examine s with
      | .found pc w =>
        if textBusy s s.q.pc (pc + 1) then .next s
        else issueWord { (s.notePc pc) with word := w }
      | .beyond a =>
        if textBusy s s.q.pc a then .next s else exec .foreignWordsPassed s
      | .foreign =>
        if textBusy s s.q.pc (s.q.pc + 8) then .next s else exec .foreignWordsPassed s

end Sys2Proof.Machine
end

