-- ==== Sys2Proof/Machine/Schedule.lean ====
section
/-!
DEFINITION. Which agent acts next (log 1): the turns that the state's schedule names, and after them a fixed round: every
sequencer that may issue, then the events that are due, then the cycle.
-/

namespace Sys2Proof.Machine

/-- An event row of the table: an instruction that no word stands for and no word's issue raises. -/
def isEvent (i : Instr) : Bool :=
  match i with
  | .reservedTag => false
  | .zeroWord => false
  | .foreignWordsPassed => false
  | _ => (encode i).isNone

/-- The sequencers that may issue, in the order of a round. -/
def ready (s : State) : List (Nat × Eng) :=
  (s.cores.keys).flatMap (fun n => ((team n).filter (canIssue s n)).map (fun e => (n, e)))

/-- p comes after (m, x) in a round, or is it. -/
def notBefore (m : Nat) (x : Eng) (p : Nat × Eng) : Bool :=
  decide (m < p.1) || (decide (m = p.1) && decide (x.tag ≤ p.2.tag))

/-- The first sequencer of the round from (m, x) on that may issue, or else the events' turn. -/
def phaseFrom (s : State) (m : Nat) (x : Eng) : Phase :=
  match (ready s).find? (notBefore m x) with
  | some p => .seq p.1 p.2
  | none => .events

/-- The phase after the turn of (n, e). -/
def phaseAfter (s : State) (n : Nat) (e : Eng) : Phase :=
  if e = .f then phaseFrom s (n + 1) .s else phaseFrom s n (Eng.ofTag (e.tag + 1))

/-- The event is due: it would change something. -/
def due (s : State) (f : State → Out) : Bool := match f s with
  | .next t => decide (t ≠ s)
  | _ => false

/-- What must happen on core n before the cycle ends, each in the cycle that the spec gives it: the end of a TAWAIT (R84), of
a wait (R336), of a handler (R341), of the safe-point distance (R78), of a checkpoint's patience (R131) and of a drain's
budget (R129), and the retries that older accesses have held (R161). -/
def coreDeadlines (n : Nat) : List (State → Out) :=
  [execTawaitLast n, execTawaitTimeout n] ++ (team n).map (fun e => execWatchdog n e) ++
  [execHandlerTimeout n, execSafePointDistance n, execDrainBudgetExpiry n, execForcedCut n,
   fun s => .next (runRetries n 32 s)]

/-- What must happen before the cycle ends: the deadlines of the cores, of the rotation (R262, R290), of paused fibres, which resume or fail (R294),
and of the queues (R350). -/
def deadlines (s : State) : List (State → Out) :=
  s.cores.keys.flatMap coreDeadlines ++ [execRotationStart, execSlotStart, execGuardIntervalStart] ++
  s.fabric.fibres.keys.flatMap (fun b => [execFibreResume b, execFibrePauseTimeout b]) ++
  s.plinth.queues.keys.map (fun k => execQueueHalt (k / 16) (k % 16)) ++ [execThrottleAdjust]

/-- The cycle passes, once nothing is due in it. -/
def passCycle (s : State) : Out := match (deadlines s).find? (due s) with
  | some f => f s
  | none => .next (tick s)

/-- A turn that the schedule names. An event that does not exist on this machine is a fault. DESIGN CHOICE (log 27). -/
def runTurn (t : Turn) (s : State) : Out :=
  match t with
  | .seq n e d => if n ≤ 128 then turnOf n e d s else .fault .illFormed
  | .event i d => if isEvent i ∧ i.wf then exec i { s with defer := d } else .fault .illFormed
  | .tick => passCycle s

/-- The events of core n that a round tries, each by its meaning. Wakes are not among them: the stalled sequencer's own turn
tries its word again. -/
def coreEvents (s : State) (n : Nat) : List (State → Out) :=
  let c := s.core n
  c.copies.map (fun o => execCopyLineWrite n o.id) ++ c.copies.map (fun o => execCcombReport n o.id) ++
  c.bmvs.flatMap (fun b => b.rows.map (fun r => execBmvRowWrite n b.id r)) ++
  [execAbandonment n, execTrapEntry n] ++ (team n).map (fun e => execCommonWordPass n e) ++ [execRfenceComplete n, execQuoinEntryRetire n] ++
  [execCheckpointComplete n, execForcedCut n, execDrainBudgetExpiry n, execInstanceEnd n, execTileTransferComplete n,
   execTextStaging n, execInstanceResume n]

/-- The events of the fabric that a round tries. -/
def fabricEvents (s : State) : List (State → Out) :=
  let f := s.fabric
  f.bulks.flatMap (fun b => [execAccessPerformed b.id, execPacketLaunch b.id]) ++ f.sends.map (fun d => execPacketLaunch d.id) ++
  f.fibres.keys.map (fun b => execFibreResume b)

/-- The events of distribution and the plinth that a round tries. -/
def taskEvents (s : State) : List (State → Out) :=
  [execMasterElection, execLaunchAccept] ++ s.tasks.live.map (fun d => execInstancePlace d) ++
  s.tasks.launches.map (fun l => execLaunchComplete l.num) ++
  s.tasks.live.flatMap (fun d => s.tasks.ovf.keys.map (fun x => execOverflowMove d x)) ++
  s.tasks.barriers.keys.map (fun b => execBarrierRelease b) ++ s.tlbis.map (fun t => execTlbInvalidationComplete t.id) ++
  s.plinth.queues.keys.map (fun k => execSequenceRecheck (k / 16) (k % 16)) ++ [execLtsCommitComplete]

/-- The events that a round tries, in its order. What comes from outside the device is not among them. -/
def candidates (s : State) : List (State → Out) :=
  s.accs.map (fun a => execAccessPerformed a.id) ++ s.cores.keys.flatMap (coreEvents s) ++ fabricEvents s ++ taskEvents s

/-- The round's next turn. DESIGN CHOICE (log 1). -/
def defaultStep (s : State) : Out :=
  match s.phase with
  | .seq n e => turnOf n e false { s with phase := phaseAfter s n e }
  | .events =>
    let s := { s with defer := false }
    match (candidates s ++ deadlines s).find? (due s) with
    | some f => f s
    | none => let t := tick s; .next { t with phase := phaseFrom t 0 .s }

end Sys2Proof.Machine
end

