-- ==== Sys2Proof/Machine/Step.lean ====
section
/-!
DEFINITION. One step of the machine: one turn of one agent (log 1).
-/

namespace Sys2Proof.Machine

/-- The state as a step finds it: the step counter, which gives free values their argument, has moved on. -/
def begun (s : State) : State := { s with nonce := s.nonce + 1 }

/-- One step: the schedule's next turn, or the round's. DESIGN CHOICE (log 1). -/
def step (s : State) : Host.Outcome State Fault Refusal :=
  match s.sched with
  | t :: rest => runTurn t { begun s with sched := rest }
  | [] => defaultStep (begun s)

/-- The instance with which a word is run as the first one after reset: of launch 1, with a partition of 63 units.
DESIGN CHOICE (log 9). -/
def firstInst : Inst :=
  { launch := 1, ctx := 0, cls := 1, lrec := { trips := 1, textLen := 65536, part := 63, slipw := 4 }, tab := { grain := 1 },
    units := 63, placed := 1 }

/-- The sequencer that takes a word of core 0: the one its tag names, and S for common, reserved and zero words. -/
def wordEng (w : Word) : Eng :=
  match (fld w 29 3).toNat with
  | 1 => .v
  | 2 => .m
  | 3 => .c
  | 4 => .f
  | _ => .s

/-- An instruction placed where the next step fetches: at the pc of the sequencer of core 0 that its tag names, with an
instance running there and that sequencer's turn next. It stands for the launch and the text staging that load a program
(log 9). -/
def State.withFetchWord (s : State) (_nbits w : Nat) : State :=
  let e := wordEng (BitVec.ofNat 32 w)
  let c := s.core 0
  let c1 : Core := { (if c.active then c else { c with active := true, inst := some firstInst }) with turn := 0 }
  { s.setCore 0 c1 with
    imem := s.imem.set 0 (c1.seq e).pc (BitVec.ofNat 32 w)
    sched := []
    phase := .seq 0 e }

end Sys2Proof.Machine
end

