-- ==== Sys2Proof/Laws/Fields.lean ====
section
/-!
SUPPORT. Reading a field of a word that was put together from fields.
-/

namespace Sys2Proof

/-- A field of the lower part. -/
theorem fld_low {n m : Nat} (a : BitVec n) (b : BitVec m) (lo k : Nat) (h : lo + k ≤ m) :
    (a ++ b).extractLsb' lo k = b.extractLsb' lo k := by
  ext i hi; simp [BitVec.getLsbD_append]; omega

/-- A field of the upper part. -/
theorem fld_high {n m : Nat} (a : BitVec n) (b : BitVec m) (lo k : Nat) (h : m ≤ lo) :
    (a ++ b).extractLsb' lo k = a.extractLsb' (lo - m) k := by
  ext i hi; simp [BitVec.getElem_extractLsb', BitVec.getLsbD_append]
  rw [if_neg (by omega)]; congr 1; omega

/-- The whole of a field. -/
theorem fld_all {n : Nat} (a : BitVec n) : a.extractLsb' 0 n = a := by
  ext i hi; simp [BitVec.getElem_extractLsb']

/-- A field of a word of any width up to 32. -/
theorem fld_word {n : Nat} (a : BitVec n) (lo k : Nat) (h : lo + k ≤ 32) :
    (a.setWidth 32).extractLsb' lo k = a.extractLsb' lo k := by
  ext i hi; simp [BitVec.getElem_extractLsb']; omega

end Sys2Proof
end

