-- ==== Sys2Proof/Laws/PerInstr.lean ====
section
/-!
SUPPORT. The family RoundTrip: what each constructor's own encoding decodes to.
-/

namespace Sys2Proof.Laws.RoundTrip

set_option Elab.async false
set_option linter.unusedSimpArgs false

/-- A well-formed instruction that has a word is read back from it, but for the zero word, which R18 gives to no
instruction. -/
def Statement (i : Instr) : Prop := i.wf = true → ∀ w, encode i = some w → w ≠ 0#32 → decode w = .ok i

/-- From the form to the decoder's answer. -/
theorem of_form {w : Word} {i : Instr} {t : BitVec 3} (h : fld w 29 3 = t) (h5 : t ≠ 5#3) (h6 : t ≠ 6#3) (hz : w ≠ 0#32)
    (hw : i.wf = true) (hf : decodeForm w = some i) : decode w = .ok i := by
  have h5' : ¬(fld w 29 3).toNat = 5 := fun e => h5 (by rw [← h]; exact BitVec.eq_of_toNat_eq e)
  have h6' : ¬(fld w 29 3).toNat = 6 := fun e => h6 (by rw [← h]; exact BitVec.eq_of_toNat_eq e)
  rw [decode, if_neg (fun e => e.elim h5' h6'), if_neg hz, hf]
  exact if_pos hw

theorem add (d a b : BitVec 5) : Statement (.add d a b) := by
  intro hw word he hz
  have ⟨f0, f1, f2, f3, f4, f5⟩ : fld word 29 3 = 0#3 ∧ fld word 24 5 = 0#5 ∧ fld word 0 9 = 0#9 ∧ fld word 19 5 = d ∧ fld word 14 5 = a ∧ fld word 9 5 = b := by
    cases he; simp (disch := decide) only [fld, fld_word, fld_low, fld_high, fld_all, Nat.reduceSub, BitVec.reduceExtractLsb', Eng.tag, BitVec.ofNat_eq_ofNat, and_self]
  refine of_form f0 (by decide) (by decide) hz hw ?_
  rw [decodeForm, f0]
  show decodeS word = _
  rw [decodeS, f1, f2, f3, f4, f5]; rfl
theorem sub (d a b : BitVec 5) : Statement (.sub d a b) := by
  intro hw word he hz
  have ⟨f0, f1, f2, f3, f4, f5⟩ : fld word 29 3 = 0#3 ∧ fld word 24 5 = 0#5 ∧ fld word 0 9 = 1#9 ∧ fld word 19 5 = d ∧ fld word 14 5 = a ∧ fld word 9 5 = b := by
    cases he; simp (disch := decide) only [fld, fld_word, fld_low, fld_high, fld_all, Nat.reduceSub, BitVec.reduceExtractLsb', Eng.tag, BitVec.ofNat_eq_ofNat, and_self]
  refine of_form f0 (by decide) (by decide) hz hw ?_
  rw [decodeForm, f0]
  show decodeS word = _
  rw [decodeS, f1, f2, f3, f4, f5]; rfl
theorem mul (d a b : BitVec 5) : Statement (.mul d a b) := by
  intro hw word he hz
  have ⟨f0, f1, f2, f3, f4, f5⟩ : fld word 29 3 = 0#3 ∧ fld word 24 5 = 0#5 ∧ fld word 0 9 = 2#9 ∧ fld word 19 5 = d ∧ fld word 14 5 = a ∧ fld word 9 5 = b := by
    cases he; simp (disch := decide) only [fld, fld_word, fld_low, fld_high, fld_all, Nat.reduceSub, BitVec.reduceExtractLsb', Eng.tag, BitVec.ofNat_eq_ofNat, and_self]
  refine of_form f0 (by decide) (by decide) hz hw ?_
  rw [decodeForm, f0]
  show decodeS word = _
  rw [decodeS, f1, f2, f3, f4, f5]; rfl
theorem mulh (d a b : BitVec 5) : Statement (.mulh d a b) := by
  intro hw word he hz
  have ⟨f0, f1, f2, f3, f4, f5⟩ : fld word 29 3 = 0#3 ∧ fld word 24 5 = 0#5 ∧ fld word 0 9 = 3#9 ∧ fld word 19 5 = d ∧ fld word 14 5 = a ∧ fld word 9 5 = b := by
    cases he; simp (disch := decide) only [fld, fld_word, fld_low, fld_high, fld_all, Nat.reduceSub, BitVec.reduceExtractLsb', Eng.tag, BitVec.ofNat_eq_ofNat, and_self]
  refine of_form f0 (by decide) (by decide) hz hw ?_
  rw [decodeForm, f0]
  show decodeS word = _
  rw [decodeS, f1, f2, f3, f4, f5]; rfl
theorem mulhn (d a b : BitVec 5) : Statement (.mulhn d a b) := by
  intro hw word he hz
  have ⟨f0, f1, f2, f3, f4, f5⟩ : fld word 29 3 = 0#3 ∧ fld word 24 5 = 0#5 ∧ fld word 0 9 = 4#9 ∧ fld word 19 5 = d ∧ fld word 14 5 = a ∧ fld word 9 5 = b := by
    cases he; simp (disch := decide) only [fld, fld_word, fld_low, fld_high, fld_all, Nat.reduceSub, BitVec.reduceExtractLsb', Eng.tag, BitVec.ofNat_eq_ofNat, and_self]
  refine of_form f0 (by decide) (by decide) hz hw ?_
  rw [decodeForm, f0]
  show decodeS word = _
  rw [decodeS, f1, f2, f3, f4, f5]; rfl
theorem div (d a b : BitVec 5) : Statement (.div d a b) := by
  intro hw word he hz
  have ⟨f0, f1, f2, f3, f4, f5⟩ : fld word 29 3 = 0#3 ∧ fld word 24 5 = 0#5 ∧ fld word 0 9 = 5#9 ∧ fld word 19 5 = d ∧ fld word 14 5 = a ∧ fld word 9 5 = b := by
    cases he; simp (disch := decide) only [fld, fld_word, fld_low, fld_high, fld_all, Nat.reduceSub, BitVec.reduceExtractLsb', Eng.tag, BitVec.ofNat_eq_ofNat, and_self]
  refine of_form f0 (by decide) (by decide) hz hw ?_
  rw [decodeForm, f0]
  show decodeS word = _
  rw [decodeS, f1, f2, f3, f4, f5]; rfl
theorem divn (d a b : BitVec 5) : Statement (.divn d a b) := by
  intro hw word he hz
  have ⟨f0, f1, f2, f3, f4, f5⟩ : fld word 29 3 = 0#3 ∧ fld word 24 5 = 0#5 ∧ fld word 0 9 = 6#9 ∧ fld word 19 5 = d ∧ fld word 14 5 = a ∧ fld word 9 5 = b := by
    cases he; simp (disch := decide) only [fld, fld_word, fld_low, fld_high, fld_all, Nat.reduceSub, BitVec.reduceExtractLsb', Eng.tag, BitVec.ofNat_eq_ofNat, and_self]
  refine of_form f0 (by decide) (by decide) hz hw ?_
  rw [decodeForm, f0]
  show decodeS word = _
  rw [decodeS, f1, f2, f3, f4, f5]; rfl
theorem rem (d a b : BitVec 5) : Statement (.rem d a b) := by
  intro hw word he hz
  have ⟨f0, f1, f2, f3, f4, f5⟩ : fld word 29 3 = 0#3 ∧ fld word 24 5 = 0#5 ∧ fld word 0 9 = 7#9 ∧ fld word 19 5 = d ∧ fld word 14 5 = a ∧ fld word 9 5 = b := by
    cases he; simp (disch := decide) only [fld, fld_word, fld_low, fld_high, fld_all, Nat.reduceSub, BitVec.reduceExtractLsb', Eng.tag, BitVec.ofNat_eq_ofNat, and_self]
  refine of_form f0 (by decide) (by decide) hz hw ?_
  rw [decodeForm, f0]
  show decodeS word = _
  rw [decodeS, f1, f2, f3, f4, f5]; rfl
theorem remn (d a b : BitVec 5) : Statement (.remn d a b) := by
  intro hw word he hz
  have ⟨f0, f1, f2, f3, f4, f5⟩ : fld word 29 3 = 0#3 ∧ fld word 24 5 = 0#5 ∧ fld word 0 9 = 8#9 ∧ fld word 19 5 = d ∧ fld word 14 5 = a ∧ fld word 9 5 = b := by
    cases he; simp (disch := decide) only [fld, fld_word, fld_low, fld_high, fld_all, Nat.reduceSub, BitVec.reduceExtractLsb', Eng.tag, BitVec.ofNat_eq_ofNat, and_self]
  refine of_form f0 (by decide) (by decide) hz hw ?_
  rw [decodeForm, f0]
  show decodeS word = _
  rw [decodeS, f1, f2, f3, f4, f5]; rfl
theorem and (d a b : BitVec 5) : Statement (.and d a b) := by
  intro hw word he hz
  have ⟨f0, f1, f2, f3, f4, f5⟩ : fld word 29 3 = 0#3 ∧ fld word 24 5 = 0#5 ∧ fld word 0 9 = 9#9 ∧ fld word 19 5 = d ∧ fld word 14 5 = a ∧ fld word 9 5 = b := by
    cases he; simp (disch := decide) only [fld, fld_word, fld_low, fld_high, fld_all, Nat.reduceSub, BitVec.reduceExtractLsb', Eng.tag, BitVec.ofNat_eq_ofNat, and_self]
  refine of_form f0 (by decide) (by decide) hz hw ?_
  rw [decodeForm, f0]
  show decodeS word = _
  rw [decodeS, f1, f2, f3, f4, f5]; rfl
theorem or (d a b : BitVec 5) : Statement (.or d a b) := by
  intro hw word he hz
  have ⟨f0, f1, f2, f3, f4, f5⟩ : fld word 29 3 = 0#3 ∧ fld word 24 5 = 0#5 ∧ fld word 0 9 = 10#9 ∧ fld word 19 5 = d ∧ fld word 14 5 = a ∧ fld word 9 5 = b := by
    cases he; simp (disch := decide) only [fld, fld_word, fld_low, fld_high, fld_all, Nat.reduceSub, BitVec.reduceExtractLsb', Eng.tag, BitVec.ofNat_eq_ofNat, and_self]
  refine of_form f0 (by decide) (by decide) hz hw ?_
  rw [decodeForm, f0]
  show decodeS word = _
  rw [decodeS, f1, f2, f3, f4, f5]; rfl
theorem xor (d a b : BitVec 5) : Statement (.xor d a b) := by
  intro hw word he hz
  have ⟨f0, f1, f2, f3, f4, f5⟩ : fld word 29 3 = 0#3 ∧ fld word 24 5 = 0#5 ∧ fld word 0 9 = 11#9 ∧ fld word 19 5 = d ∧ fld word 14 5 = a ∧ fld word 9 5 = b := by
    cases he; simp (disch := decide) only [fld, fld_word, fld_low, fld_high, fld_all, Nat.reduceSub, BitVec.reduceExtractLsb', Eng.tag, BitVec.ofNat_eq_ofNat, and_self]
  refine of_form f0 (by decide) (by decide) hz hw ?_
  rw [decodeForm, f0]
  show decodeS word = _
  rw [decodeS, f1, f2, f3, f4, f5]; rfl
theorem andn (d a b : BitVec 5) : Statement (.andn d a b) := by
  intro hw word he hz
  have ⟨f0, f1, f2, f3, f4, f5⟩ : fld word 29 3 = 0#3 ∧ fld word 24 5 = 0#5 ∧ fld word 0 9 = 12#9 ∧ fld word 19 5 = d ∧ fld word 14 5 = a ∧ fld word 9 5 = b := by
    cases he; simp (disch := decide) only [fld, fld_word, fld_low, fld_high, fld_all, Nat.reduceSub, BitVec.reduceExtractLsb', Eng.tag, BitVec.ofNat_eq_ofNat, and_self]
  refine of_form f0 (by decide) (by decide) hz hw ?_
  rw [decodeForm, f0]
  show decodeS word = _
  rw [decodeS, f1, f2, f3, f4, f5]; rfl
theorem shl (d a b : BitVec 5) : Statement (.shl d a b) := by
  intro hw word he hz
  have ⟨f0, f1, f2, f3, f4, f5⟩ : fld word 29 3 = 0#3 ∧ fld word 24 5 = 0#5 ∧ fld word 0 9 = 13#9 ∧ fld word 19 5 = d ∧ fld word 14 5 = a ∧ fld word 9 5 = b := by
    cases he; simp (disch := decide) only [fld, fld_word, fld_low, fld_high, fld_all, Nat.reduceSub, BitVec.reduceExtractLsb', Eng.tag, BitVec.ofNat_eq_ofNat, and_self]
  refine of_form f0 (by decide) (by decide) hz hw ?_
  rw [decodeForm, f0]
  show decodeS word = _
  rw [decodeS, f1, f2, f3, f4, f5]; rfl
theorem shr (d a b : BitVec 5) : Statement (.shr d a b) := by
  intro hw word he hz
  have ⟨f0, f1, f2, f3, f4, f5⟩ : fld word 29 3 = 0#3 ∧ fld word 24 5 = 0#5 ∧ fld word 0 9 = 14#9 ∧ fld word 19 5 = d ∧ fld word 14 5 = a ∧ fld word 9 5 = b := by
    cases he; simp (disch := decide) only [fld, fld_word, fld_low, fld_high, fld_all, Nat.reduceSub, BitVec.reduceExtractLsb', Eng.tag, BitVec.ofNat_eq_ofNat, and_self]
  refine of_form f0 (by decide) (by decide) hz hw ?_
  rw [decodeForm, f0]
  show decodeS word = _
  rw [decodeS, f1, f2, f3, f4, f5]; rfl
theorem sra (d a b : BitVec 5) : Statement (.sra d a b) := by
  intro hw word he hz
  have ⟨f0, f1, f2, f3, f4, f5⟩ : fld word 29 3 = 0#3 ∧ fld word 24 5 = 0#5 ∧ fld word 0 9 = 15#9 ∧ fld word 19 5 = d ∧ fld word 14 5 = a ∧ fld word 9 5 = b := by
    cases he; simp (disch := decide) only [fld, fld_word, fld_low, fld_high, fld_all, Nat.reduceSub, BitVec.reduceExtractLsb', Eng.tag, BitVec.ofNat_eq_ofNat, and_self]
  refine of_form f0 (by decide) (by decide) hz hw ?_
  rw [decodeForm, f0]
  show decodeS word = _
  rw [decodeS, f1, f2, f3, f4, f5]; rfl
theorem rol (d a b : BitVec 5) : Statement (.rol d a b) := by
  intro hw word he hz
  have ⟨f0, f1, f2, f3, f4, f5⟩ : fld word 29 3 = 0#3 ∧ fld word 24 5 = 0#5 ∧ fld word 0 9 = 16#9 ∧ fld word 19 5 = d ∧ fld word 14 5 = a ∧ fld word 9 5 = b := by
    cases he; simp (disch := decide) only [fld, fld_word, fld_low, fld_high, fld_all, Nat.reduceSub, BitVec.reduceExtractLsb', Eng.tag, BitVec.ofNat_eq_ofNat, and_self]
  refine of_form f0 (by decide) (by decide) hz hw ?_
  rw [decodeForm, f0]
  show decodeS word = _
  rw [decodeS, f1, f2, f3, f4, f5]; rfl
theorem min (d a b : BitVec 5) : Statement (.min d a b) := by
  intro hw word he hz
  have ⟨f0, f1, f2, f3, f4, f5⟩ : fld word 29 3 = 0#3 ∧ fld word 24 5 = 0#5 ∧ fld word 0 9 = 17#9 ∧ fld word 19 5 = d ∧ fld word 14 5 = a ∧ fld word 9 5 = b := by
    cases he; simp (disch := decide) only [fld, fld_word, fld_low, fld_high, fld_all, Nat.reduceSub, BitVec.reduceExtractLsb', Eng.tag, BitVec.ofNat_eq_ofNat, and_self]
  refine of_form f0 (by decide) (by decide) hz hw ?_
  rw [decodeForm, f0]
  show decodeS word = _
  rw [decodeS, f1, f2, f3, f4, f5]; rfl
theorem max (d a b : BitVec 5) : Statement (.max d a b) := by
  intro hw word he hz
  have ⟨f0, f1, f2, f3, f4, f5⟩ : fld word 29 3 = 0#3 ∧ fld word 24 5 = 0#5 ∧ fld word 0 9 = 18#9 ∧ fld word 19 5 = d ∧ fld word 14 5 = a ∧ fld word 9 5 = b := by
    cases he; simp (disch := decide) only [fld, fld_word, fld_low, fld_high, fld_all, Nat.reduceSub, BitVec.reduceExtractLsb', Eng.tag, BitVec.ofNat_eq_ofNat, and_self]
  refine of_form f0 (by decide) (by decide) hz hw ?_
  rw [decodeForm, f0]
  show decodeS word = _
  rw [decodeS, f1, f2, f3, f4, f5]; rfl
theorem minn (d a b : BitVec 5) : Statement (.minn d a b) := by
  intro hw word he hz
  have ⟨f0, f1, f2, f3, f4, f5⟩ : fld word 29 3 = 0#3 ∧ fld word 24 5 = 0#5 ∧ fld word 0 9 = 19#9 ∧ fld word 19 5 = d ∧ fld word 14 5 = a ∧ fld word 9 5 = b := by
    cases he; simp (disch := decide) only [fld, fld_word, fld_low, fld_high, fld_all, Nat.reduceSub, BitVec.reduceExtractLsb', Eng.tag, BitVec.ofNat_eq_ofNat, and_self]
  refine of_form f0 (by decide) (by decide) hz hw ?_
  rw [decodeForm, f0]
  show decodeS word = _
  rw [decodeS, f1, f2, f3, f4, f5]; rfl
theorem maxn (d a b : BitVec 5) : Statement (.maxn d a b) := by
  intro hw word he hz
  have ⟨f0, f1, f2, f3, f4, f5⟩ : fld word 29 3 = 0#3 ∧ fld word 24 5 = 0#5 ∧ fld word 0 9 = 20#9 ∧ fld word 19 5 = d ∧ fld word 14 5 = a ∧ fld word 9 5 = b := by
    cases he; simp (disch := decide) only [fld, fld_word, fld_low, fld_high, fld_all, Nat.reduceSub, BitVec.reduceExtractLsb', Eng.tag, BitVec.ofNat_eq_ofNat, and_self]
  refine of_form f0 (by decide) (by decide) hz hw ?_
  rw [decodeForm, f0]
  show decodeS word = _
  rw [decodeS, f1, f2, f3, f4, f5]; rfl
theorem slt (d a b : BitVec 5) : Statement (.slt d a b) := by
  intro hw word he hz
  have ⟨f0, f1, f2, f3, f4, f5⟩ : fld word 29 3 = 0#3 ∧ fld word 24 5 = 0#5 ∧ fld word 0 9 = 21#9 ∧ fld word 19 5 = d ∧ fld word 14 5 = a ∧ fld word 9 5 = b := by
    cases he; simp (disch := decide) only [fld, fld_word, fld_low, fld_high, fld_all, Nat.reduceSub, BitVec.reduceExtractLsb', Eng.tag, BitVec.ofNat_eq_ofNat, and_self]
  refine of_form f0 (by decide) (by decide) hz hw ?_
  rw [decodeForm, f0]
  show decodeS word = _
  rw [decodeS, f1, f2, f3, f4, f5]; rfl
theorem sltn (d a b : BitVec 5) : Statement (.sltn d a b) := by
  intro hw word he hz
  have ⟨f0, f1, f2, f3, f4, f5⟩ : fld word 29 3 = 0#3 ∧ fld word 24 5 = 0#5 ∧ fld word 0 9 = 22#9 ∧ fld word 19 5 = d ∧ fld word 14 5 = a ∧ fld word 9 5 = b := by
    cases he; simp (disch := decide) only [fld, fld_word, fld_low, fld_high, fld_all, Nat.reduceSub, BitVec.reduceExtractLsb', Eng.tag, BitVec.ofNat_eq_ofNat, and_self]
  refine of_form f0 (by decide) (by decide) hz hw ?_
  rw [decodeForm, f0]
  show decodeS word = _
  rw [decodeS, f1, f2, f3, f4, f5]; rfl
theorem seq (d a b : BitVec 5) : Statement (.seq d a b) := by
  intro hw word he hz
  have ⟨f0, f1, f2, f3, f4, f5⟩ : fld word 29 3 = 0#3 ∧ fld word 24 5 = 0#5 ∧ fld word 0 9 = 23#9 ∧ fld word 19 5 = d ∧ fld word 14 5 = a ∧ fld word 9 5 = b := by
    cases he; simp (disch := decide) only [fld, fld_word, fld_low, fld_high, fld_all, Nat.reduceSub, BitVec.reduceExtractLsb', Eng.tag, BitVec.ofNat_eq_ofNat, and_self]
  refine of_form f0 (by decide) (by decide) hz hw ?_
  rw [decodeForm, f0]
  show decodeS word = _
  rw [decodeS, f1, f2, f3, f4, f5]; rfl
theorem clz (d a : BitVec 5) : Statement (.clz d a) := by
  intro hw word he hz
  have ⟨f0, f1, f2, f3, f4, f5⟩ : fld word 29 3 = 0#3 ∧ fld word 24 5 = 0#5 ∧ fld word 0 9 = 24#9 ∧ fld word 9 5 = 0#5 ∧ fld word 19 5 = d ∧ fld word 14 5 = a := by
    cases he; simp (disch := decide) only [fld, fld_word, fld_low, fld_high, fld_all, Nat.reduceSub, BitVec.reduceExtractLsb', Eng.tag, BitVec.ofNat_eq_ofNat, and_self]
  refine of_form f0 (by decide) (by decide) hz hw ?_
  rw [decodeForm, f0]
  show decodeS word = _
  rw [decodeS, f1, f2, f3, f4, f5]; rfl
theorem ctz (d a : BitVec 5) : Statement (.ctz d a) := by
  intro hw word he hz
  have ⟨f0, f1, f2, f3, f4, f5⟩ : fld word 29 3 = 0#3 ∧ fld word 24 5 = 0#5 ∧ fld word 0 9 = 25#9 ∧ fld word 9 5 = 0#5 ∧ fld word 19 5 = d ∧ fld word 14 5 = a := by
    cases he; simp (disch := decide) only [fld, fld_word, fld_low, fld_high, fld_all, Nat.reduceSub, BitVec.reduceExtractLsb', Eng.tag, BitVec.ofNat_eq_ofNat, and_self]
  refine of_form f0 (by decide) (by decide) hz hw ?_
  rw [decodeForm, f0]
  show decodeS word = _
  rw [decodeS, f1, f2, f3, f4, f5]; rfl
theorem popc (d a : BitVec 5) : Statement (.popc d a) := by
  intro hw word he hz
  have ⟨f0, f1, f2, f3, f4, f5⟩ : fld word 29 3 = 0#3 ∧ fld word 24 5 = 0#5 ∧ fld word 0 9 = 26#9 ∧ fld word 9 5 = 0#5 ∧ fld word 19 5 = d ∧ fld word 14 5 = a := by
    cases he; simp (disch := decide) only [fld, fld_word, fld_low, fld_high, fld_all, Nat.reduceSub, BitVec.reduceExtractLsb', Eng.tag, BitVec.ofNat_eq_ofNat, and_self]
  refine of_form f0 (by decide) (by decide) hz hw ?_
  rw [decodeForm, f0]
  show decodeS word = _
  rw [decodeS, f1, f2, f3, f4, f5]; rfl
theorem addi (d a : BitVec 5) (i : BitVec 14) : Statement (.addi d a i) := by
  intro hw word he hz
  have ⟨f0, f1, f2, f3, f4⟩ : fld word 29 3 = 0#3 ∧ fld word 24 5 = 1#5 ∧ fld word 19 5 = d ∧ fld word 14 5 = a ∧ fld word 0 14 = i := by
    cases he; simp (disch := decide) only [fld, fld_word, fld_low, fld_high, fld_all, Nat.reduceSub, BitVec.reduceExtractLsb', Eng.tag, BitVec.ofNat_eq_ofNat, and_self]
  refine of_form f0 (by decide) (by decide) hz hw ?_
  rw [decodeForm, f0]
  show decodeS word = _
  rw [decodeS, f1, f2, f3, f4]; rfl
theorem andi (d a : BitVec 5) (i : BitVec 14) : Statement (.andi d a i) := by
  intro hw word he hz
  have ⟨f0, f1, f2, f3, f4⟩ : fld word 29 3 = 0#3 ∧ fld word 24 5 = 2#5 ∧ fld word 19 5 = d ∧ fld word 14 5 = a ∧ fld word 0 14 = i := by
    cases he; simp (disch := decide) only [fld, fld_word, fld_low, fld_high, fld_all, Nat.reduceSub, BitVec.reduceExtractLsb', Eng.tag, BitVec.ofNat_eq_ofNat, and_self]
  refine of_form f0 (by decide) (by decide) hz hw ?_
  rw [decodeForm, f0]
  show decodeS word = _
  rw [decodeS, f1, f2, f3, f4]; rfl
theorem ori (d a : BitVec 5) (i : BitVec 14) : Statement (.ori d a i) := by
  intro hw word he hz
  have ⟨f0, f1, f2, f3, f4⟩ : fld word 29 3 = 0#3 ∧ fld word 24 5 = 3#5 ∧ fld word 19 5 = d ∧ fld word 14 5 = a ∧ fld word 0 14 = i := by
    cases he; simp (disch := decide) only [fld, fld_word, fld_low, fld_high, fld_all, Nat.reduceSub, BitVec.reduceExtractLsb', Eng.tag, BitVec.ofNat_eq_ofNat, and_self]
  refine of_form f0 (by decide) (by decide) hz hw ?_
  rw [decodeForm, f0]
  show decodeS word = _
  rw [decodeS, f1, f2, f3, f4]; rfl
theorem xori (d a : BitVec 5) (i : BitVec 14) : Statement (.xori d a i) := by
  intro hw word he hz
  have ⟨f0, f1, f2, f3, f4⟩ : fld word 29 3 = 0#3 ∧ fld word 24 5 = 4#5 ∧ fld word 19 5 = d ∧ fld word 14 5 = a ∧ fld word 0 14 = i := by
    cases he; simp (disch := decide) only [fld, fld_word, fld_low, fld_high, fld_all, Nat.reduceSub, BitVec.reduceExtractLsb', Eng.tag, BitVec.ofNat_eq_ofNat, and_self]
  refine of_form f0 (by decide) (by decide) hz hw ?_
  rw [decodeForm, f0]
  show decodeS word = _
  rw [decodeS, f1, f2, f3, f4]; rfl
theorem slti (d a : BitVec 5) (i : BitVec 14) : Statement (.slti d a i) := by
  intro hw word he hz
  have ⟨f0, f1, f2, f3, f4⟩ : fld word 29 3 = 0#3 ∧ fld word 24 5 = 5#5 ∧ fld word 19 5 = d ∧ fld word 14 5 = a ∧ fld word 0 14 = i := by
    cases he; simp (disch := decide) only [fld, fld_word, fld_low, fld_high, fld_all, Nat.reduceSub, BitVec.reduceExtractLsb', Eng.tag, BitVec.ofNat_eq_ofNat, and_self]
  refine of_form f0 (by decide) (by decide) hz hw ?_
  rw [decodeForm, f0]
  show decodeS word = _
  rw [decodeS, f1, f2, f3, f4]; rfl
theorem shli (d a : BitVec 5) (n : BitVec 6) : Statement (.shli d a n) := by
  intro hw word he hz
  have ⟨f0, f1, f2, f3, f4, f5, f6⟩ : fld word 29 3 = 0#3 ∧ fld word 24 5 = 6#5 ∧ fld word 12 2 = 0#2 ∧ fld word 6 6 = 0#6 ∧ fld word 19 5 = d ∧ fld word 14 5 = a ∧ fld word 0 6 = n := by
    cases he; simp (disch := decide) only [fld, fld_word, fld_low, fld_high, fld_all, Nat.reduceSub, BitVec.reduceExtractLsb', Eng.tag, BitVec.ofNat_eq_ofNat, and_self]
  refine of_form f0 (by decide) (by decide) hz hw ?_
  rw [decodeForm, f0]
  show decodeS word = _
  rw [decodeS, f1, f2, f3, f4, f5, f6]; rfl
theorem shri (d a : BitVec 5) (n : BitVec 6) : Statement (.shri d a n) := by
  intro hw word he hz
  have ⟨f0, f1, f2, f3, f4, f5, f6⟩ : fld word 29 3 = 0#3 ∧ fld word 24 5 = 6#5 ∧ fld word 12 2 = 1#2 ∧ fld word 6 6 = 0#6 ∧ fld word 19 5 = d ∧ fld word 14 5 = a ∧ fld word 0 6 = n := by
    cases he; simp (disch := decide) only [fld, fld_word, fld_low, fld_high, fld_all, Nat.reduceSub, BitVec.reduceExtractLsb', Eng.tag, BitVec.ofNat_eq_ofNat, and_self]
  refine of_form f0 (by decide) (by decide) hz hw ?_
  rw [decodeForm, f0]
  show decodeS word = _
  rw [decodeS, f1, f2, f3, f4, f5, f6]; rfl
theorem srai (d a : BitVec 5) (n : BitVec 6) : Statement (.srai d a n) := by
  intro hw word he hz
  have ⟨f0, f1, f2, f3, f4, f5, f6⟩ : fld word 29 3 = 0#3 ∧ fld word 24 5 = 6#5 ∧ fld word 12 2 = 2#2 ∧ fld word 6 6 = 0#6 ∧ fld word 19 5 = d ∧ fld word 14 5 = a ∧ fld word 0 6 = n := by
    cases he; simp (disch := decide) only [fld, fld_word, fld_low, fld_high, fld_all, Nat.reduceSub, BitVec.reduceExtractLsb', Eng.tag, BitVec.ofNat_eq_ofNat, and_self]
  refine of_form f0 (by decide) (by decide) hz hw ?_
  rw [decodeForm, f0]
  show decodeS word = _
  rw [decodeS, f1, f2, f3, f4, f5, f6]; rfl
theorem sext (d a : BitVec 5) (w : BitVec 6) : Statement (.sext d a w) := by
  intro hw word he hz
  have ⟨f0, f1, f2, f3, f4, f5, f6⟩ : fld word 29 3 = 0#3 ∧ fld word 24 5 = 6#5 ∧ fld word 12 2 = 3#2 ∧ fld word 6 6 = 1#6 ∧ fld word 19 5 = d ∧ fld word 14 5 = a ∧ fld word 0 6 = w := by
    cases he; simp (disch := decide) only [fld, fld_word, fld_low, fld_high, fld_all, Nat.reduceSub, BitVec.reduceExtractLsb', Eng.tag, BitVec.ofNat_eq_ofNat, and_self]
  refine of_form f0 (by decide) (by decide) hz hw ?_
  rw [decodeForm, f0]
  show decodeS word = _
  rw [decodeS, f1, f2, f3, f4, f5, f6]; rfl
theorem zext (d a : BitVec 5) (w : BitVec 6) : Statement (.zext d a w) := by
  intro hw word he hz
  have ⟨f0, f1, f2, f3, f4, f5, f6⟩ : fld word 29 3 = 0#3 ∧ fld word 24 5 = 6#5 ∧ fld word 12 2 = 3#2 ∧ fld word 6 6 = 0#6 ∧ fld word 19 5 = d ∧ fld word 14 5 = a ∧ fld word 0 6 = w := by
    cases he; simp (disch := decide) only [fld, fld_word, fld_low, fld_high, fld_all, Nat.reduceSub, BitVec.reduceExtractLsb', Eng.tag, BitVec.ofNat_eq_ofNat, and_self]
  refine of_form f0 (by decide) (by decide) hz hw ?_
  rw [decodeForm, f0]
  show decodeS word = _
  rw [decodeS, f1, f2, f3, f4, f5, f6]; rfl
theorem lup (d : BitVec 5) (i : BitVec 19) : Statement (.lup d i) := by
  intro hw word he hz
  have ⟨f0, f1, f2, f3⟩ : fld word 29 3 = 0#3 ∧ fld word 24 5 = 7#5 ∧ fld word 19 5 = d ∧ fld word 0 19 = i := by
    cases he; simp (disch := decide) only [fld, fld_word, fld_low, fld_high, fld_all, Nat.reduceSub, BitVec.reduceExtractLsb', Eng.tag, BitVec.ofNat_eq_ofNat, and_self]
  refine of_form f0 (by decide) (by decide) hz hw ?_
  rw [decodeForm, f0]
  show decodeS word = _
  rw [decodeS, f1, f2, f3]; rfl
theorem beq (a b : BitVec 5) (o : BitVec 14) : Statement (.beq a b o) := by
  intro hw word he hz
  have ⟨f0, f1, f2, f3, f4⟩ : fld word 29 3 = 0#3 ∧ fld word 24 5 = 8#5 ∧ fld word 19 5 = a ∧ fld word 14 5 = b ∧ fld word 0 14 = o := by
    cases he; simp (disch := decide) only [fld, fld_word, fld_low, fld_high, fld_all, Nat.reduceSub, BitVec.reduceExtractLsb', Eng.tag, BitVec.ofNat_eq_ofNat, and_self]
  refine of_form f0 (by decide) (by decide) hz hw ?_
  rw [decodeForm, f0]
  show decodeS word = _
  rw [decodeS, f1, f2, f3, f4]; rfl
theorem bne (a b : BitVec 5) (o : BitVec 14) : Statement (.bne a b o) := by
  intro hw word he hz
  have ⟨f0, f1, f2, f3, f4⟩ : fld word 29 3 = 0#3 ∧ fld word 24 5 = 9#5 ∧ fld word 19 5 = a ∧ fld word 14 5 = b ∧ fld word 0 14 = o := by
    cases he; simp (disch := decide) only [fld, fld_word, fld_low, fld_high, fld_all, Nat.reduceSub, BitVec.reduceExtractLsb', Eng.tag, BitVec.ofNat_eq_ofNat, and_self]
  refine of_form f0 (by decide) (by decide) hz hw ?_
  rw [decodeForm, f0]
  show decodeS word = _
  rw [decodeS, f1, f2, f3, f4]; rfl
theorem blt (a b : BitVec 5) (o : BitVec 14) : Statement (.blt a b o) := by
  intro hw word he hz
  have ⟨f0, f1, f2, f3, f4⟩ : fld word 29 3 = 0#3 ∧ fld word 24 5 = 10#5 ∧ fld word 19 5 = a ∧ fld word 14 5 = b ∧ fld word 0 14 = o := by
    cases he; simp (disch := decide) only [fld, fld_word, fld_low, fld_high, fld_all, Nat.reduceSub, BitVec.reduceExtractLsb', Eng.tag, BitVec.ofNat_eq_ofNat, and_self]
  refine of_form f0 (by decide) (by decide) hz hw ?_
  rw [decodeForm, f0]
  show decodeS word = _
  rw [decodeS, f1, f2, f3, f4]; rfl
theorem bge (a b : BitVec 5) (o : BitVec 14) : Statement (.bge a b o) := by
  intro hw word he hz
  have ⟨f0, f1, f2, f3, f4⟩ : fld word 29 3 = 0#3 ∧ fld word 24 5 = 11#5 ∧ fld word 19 5 = a ∧ fld word 14 5 = b ∧ fld word 0 14 = o := by
    cases he; simp (disch := decide) only [fld, fld_word, fld_low, fld_high, fld_all, Nat.reduceSub, BitVec.reduceExtractLsb', Eng.tag, BitVec.ofNat_eq_ofNat, and_self]
  refine of_form f0 (by decide) (by decide) hz hw ?_
  rw [decodeForm, f0]
  show decodeS word = _
  rw [decodeS, f1, f2, f3, f4]; rfl
theorem bltn (a b : BitVec 5) (o : BitVec 14) : Statement (.bltn a b o) := by
  intro hw word he hz
  have ⟨f0, f1, f2, f3, f4⟩ : fld word 29 3 = 0#3 ∧ fld word 24 5 = 12#5 ∧ fld word 19 5 = a ∧ fld word 14 5 = b ∧ fld word 0 14 = o := by
    cases he; simp (disch := decide) only [fld, fld_word, fld_low, fld_high, fld_all, Nat.reduceSub, BitVec.reduceExtractLsb', Eng.tag, BitVec.ofNat_eq_ofNat, and_self]
  refine of_form f0 (by decide) (by decide) hz hw ?_
  rw [decodeForm, f0]
  show decodeS word = _
  rw [decodeS, f1, f2, f3, f4]; rfl
theorem bgen (a b : BitVec 5) (o : BitVec 14) : Statement (.bgen a b o) := by
  intro hw word he hz
  have ⟨f0, f1, f2, f3, f4⟩ : fld word 29 3 = 0#3 ∧ fld word 24 5 = 13#5 ∧ fld word 19 5 = a ∧ fld word 14 5 = b ∧ fld word 0 14 = o := by
    cases he; simp (disch := decide) only [fld, fld_word, fld_low, fld_high, fld_all, Nat.reduceSub, BitVec.reduceExtractLsb', Eng.tag, BitVec.ofNat_eq_ofNat, and_self]
  refine of_form f0 (by decide) (by decide) hz hw ?_
  rw [decodeForm, f0]
  show decodeS word = _
  rw [decodeS, f1, f2, f3, f4]; rfl
theorem jmp (o : BitVec 24) : Statement (.jmp o) := by
  intro hw word he hz
  have ⟨f0, f1, f2⟩ : fld word 29 3 = 0#3 ∧ fld word 24 5 = 14#5 ∧ fld word 0 24 = o := by
    cases he; simp (disch := decide) only [fld, fld_word, fld_low, fld_high, fld_all, Nat.reduceSub, BitVec.reduceExtractLsb', Eng.tag, BitVec.ofNat_eq_ofNat, and_self]
  refine of_form f0 (by decide) (by decide) hz hw ?_
  rw [decodeForm, f0]
  show decodeS word = _
  rw [decodeS, f1, f2]; rfl
theorem call (o : BitVec 24) : Statement (.call o) := by
  intro hw word he hz
  have ⟨f0, f1, f2⟩ : fld word 29 3 = 0#3 ∧ fld word 24 5 = 15#5 ∧ fld word 0 24 = o := by
    cases he; simp (disch := decide) only [fld, fld_word, fld_low, fld_high, fld_all, Nat.reduceSub, BitVec.reduceExtractLsb', Eng.tag, BitVec.ofNat_eq_ofNat, and_self]
  refine of_form f0 (by decide) (by decide) hz hw ?_
  rw [decodeForm, f0]
  show decodeS word = _
  rw [decodeS, f1, f2]; rfl
theorem jr (a : BitVec 5) : Statement (.jr a) := by
  intro hw word he hz
  have ⟨f0, f1, f2, f3, f4, f5⟩ : fld word 29 3 = 0#3 ∧ fld word 24 5 = 16#5 ∧ fld word 0 9 = 0#9 ∧ fld word 9 5 = 0#5 ∧ fld word 19 5 = 0#5 ∧ fld word 14 5 = a := by
    cases he; simp (disch := decide) only [fld, fld_word, fld_low, fld_high, fld_all, Nat.reduceSub, BitVec.reduceExtractLsb', Eng.tag, BitVec.ofNat_eq_ofNat, and_self]
  refine of_form f0 (by decide) (by decide) hz hw ?_
  rw [decodeForm, f0]
  show decodeS word = _
  rw [decodeS, f1, f2, f3, f4, f5]; rfl
theorem callr (a : BitVec 5) : Statement (.callr a) := by
  intro hw word he hz
  have ⟨f0, f1, f2, f3, f4, f5⟩ : fld word 29 3 = 0#3 ∧ fld word 24 5 = 16#5 ∧ fld word 0 9 = 1#9 ∧ fld word 9 5 = 0#5 ∧ fld word 19 5 = 0#5 ∧ fld word 14 5 = a := by
    cases he; simp (disch := decide) only [fld, fld_word, fld_low, fld_high, fld_all, Nat.reduceSub, BitVec.reduceExtractLsb', Eng.tag, BitVec.ofNat_eq_ofNat, and_self]
  refine of_form f0 (by decide) (by decide) hz hw ?_
  rw [decodeForm, f0]
  show decodeS word = _
  rw [decodeS, f1, f2, f3, f4, f5]; rfl
theorem loop (d : BitVec 5) (o : BitVec 14) : Statement (.loop d o) := by
  intro hw word he hz
  have ⟨f0, f1, f2, f3, f4⟩ : fld word 29 3 = 0#3 ∧ fld word 24 5 = 17#5 ∧ fld word 14 5 = 0#5 ∧ fld word 19 5 = d ∧ fld word 0 14 = o := by
    cases he; simp (disch := decide) only [fld, fld_word, fld_low, fld_high, fld_all, Nat.reduceSub, BitVec.reduceExtractLsb', Eng.tag, BitVec.ofNat_eq_ofNat, and_self]
  refine of_form f0 (by decide) (by decide) hz hw ?_
  rw [decodeForm, f0]
  show decodeS word = _
  rw [decodeS, f1, f2, f3, f4]; rfl
theorem ld (s a : BitVec 5) (c : BitVec 4) (z : BitVec 2) (g : BitVec 1) (o : BitVec 7) : Statement (.ld s a c z g o) := by
  intro hw word he hz
  have ⟨f0, f1, f2, f3, f4, f5, f6, f7⟩ : fld word 29 3 = 0#3 ∧ fld word 24 5 = 18#5 ∧ fld word 19 5 = s ∧ fld word 14 5 = a ∧ fld word 10 4 = c ∧ fld word 8 2 = z ∧ fld word 7 1 = g ∧ fld word 0 7 = o := by
    cases he; simp (disch := decide) only [fld, fld_word, fld_low, fld_high, fld_all, Nat.reduceSub, BitVec.reduceExtractLsb', Eng.tag, BitVec.ofNat_eq_ofNat, and_self]
  refine of_form f0 (by decide) (by decide) hz hw ?_
  rw [decodeForm, f0]
  show decodeS word = _
  rw [decodeS, f1, f2, f3, f4, f5, f6, f7]; rfl
theorem st (s a : BitVec 5) (c : BitVec 4) (z : BitVec 2) (o : BitVec 7) : Statement (.st s a c z o) := by
  intro hw word he hz
  have ⟨f0, f1, f2, f3, f4, f5, f6, f7⟩ : fld word 29 3 = 0#3 ∧ fld word 24 5 = 19#5 ∧ fld word 7 1 = 0#1 ∧ fld word 19 5 = s ∧ fld word 14 5 = a ∧ fld word 10 4 = c ∧ fld word 8 2 = z ∧ fld word 0 7 = o := by
    cases he; simp (disch := decide) only [fld, fld_word, fld_low, fld_high, fld_all, Nat.reduceSub, BitVec.reduceExtractLsb', Eng.tag, BitVec.ofNat_eq_ofNat, and_self]
  refine of_form f0 (by decide) (by decide) hz hw ?_
  rw [decodeForm, f0]
  show decodeS word = _
  rw [decodeS, f1, f2, f3, f4, f5, f6, f7]; rfl
theorem fadd (d a b : BitVec 5) : Statement (.fadd d a b) := by
  intro hw word he hz
  have ⟨f0, f1, f2, f3, f4, f5⟩ : fld word 29 3 = 0#3 ∧ fld word 24 5 = 20#5 ∧ fld word 0 9 = 0#9 ∧ fld word 19 5 = d ∧ fld word 14 5 = a ∧ fld word 9 5 = b := by
    cases he; simp (disch := decide) only [fld, fld_word, fld_low, fld_high, fld_all, Nat.reduceSub, BitVec.reduceExtractLsb', Eng.tag, BitVec.ofNat_eq_ofNat, and_self]
  refine of_form f0 (by decide) (by decide) hz hw ?_
  rw [decodeForm, f0]
  show decodeS word = _
  rw [decodeS, f1, f2, f3, f4, f5]; rfl
theorem fsub (d a b : BitVec 5) : Statement (.fsub d a b) := by
  intro hw word he hz
  have ⟨f0, f1, f2, f3, f4, f5⟩ : fld word 29 3 = 0#3 ∧ fld word 24 5 = 20#5 ∧ fld word 0 9 = 1#9 ∧ fld word 19 5 = d ∧ fld word 14 5 = a ∧ fld word 9 5 = b := by
    cases he; simp (disch := decide) only [fld, fld_word, fld_low, fld_high, fld_all, Nat.reduceSub, BitVec.reduceExtractLsb', Eng.tag, BitVec.ofNat_eq_ofNat, and_self]
  refine of_form f0 (by decide) (by decide) hz hw ?_
  rw [decodeForm, f0]
  show decodeS word = _
  rw [decodeS, f1, f2, f3, f4, f5]; rfl
theorem fmul (d a b : BitVec 5) : Statement (.fmul d a b) := by
  intro hw word he hz
  have ⟨f0, f1, f2, f3, f4, f5⟩ : fld word 29 3 = 0#3 ∧ fld word 24 5 = 20#5 ∧ fld word 0 9 = 2#9 ∧ fld word 19 5 = d ∧ fld word 14 5 = a ∧ fld word 9 5 = b := by
    cases he; simp (disch := decide) only [fld, fld_word, fld_low, fld_high, fld_all, Nat.reduceSub, BitVec.reduceExtractLsb', Eng.tag, BitVec.ofNat_eq_ofNat, and_self]
  refine of_form f0 (by decide) (by decide) hz hw ?_
  rw [decodeForm, f0]
  show decodeS word = _
  rw [decodeS, f1, f2, f3, f4, f5]; rfl
theorem fdiv (d a b : BitVec 5) : Statement (.fdiv d a b) := by
  intro hw word he hz
  have ⟨f0, f1, f2, f3, f4, f5⟩ : fld word 29 3 = 0#3 ∧ fld word 24 5 = 20#5 ∧ fld word 0 9 = 3#9 ∧ fld word 19 5 = d ∧ fld word 14 5 = a ∧ fld word 9 5 = b := by
    cases he; simp (disch := decide) only [fld, fld_word, fld_low, fld_high, fld_all, Nat.reduceSub, BitVec.reduceExtractLsb', Eng.tag, BitVec.ofNat_eq_ofNat, and_self]
  refine of_form f0 (by decide) (by decide) hz hw ?_
  rw [decodeForm, f0]
  show decodeS word = _
  rw [decodeS, f1, f2, f3, f4, f5]; rfl
theorem fmin (d a b : BitVec 5) : Statement (.fmin d a b) := by
  intro hw word he hz
  have ⟨f0, f1, f2, f3, f4, f5⟩ : fld word 29 3 = 0#3 ∧ fld word 24 5 = 20#5 ∧ fld word 0 9 = 4#9 ∧ fld word 19 5 = d ∧ fld word 14 5 = a ∧ fld word 9 5 = b := by
    cases he; simp (disch := decide) only [fld, fld_word, fld_low, fld_high, fld_all, Nat.reduceSub, BitVec.reduceExtractLsb', Eng.tag, BitVec.ofNat_eq_ofNat, and_self]
  refine of_form f0 (by decide) (by decide) hz hw ?_
  rw [decodeForm, f0]
  show decodeS word = _
  rw [decodeS, f1, f2, f3, f4, f5]; rfl
theorem fmax (d a b : BitVec 5) : Statement (.fmax d a b) := by
  intro hw word he hz
  have ⟨f0, f1, f2, f3, f4, f5⟩ : fld word 29 3 = 0#3 ∧ fld word 24 5 = 20#5 ∧ fld word 0 9 = 5#9 ∧ fld word 19 5 = d ∧ fld word 14 5 = a ∧ fld word 9 5 = b := by
    cases he; simp (disch := decide) only [fld, fld_word, fld_low, fld_high, fld_all, Nat.reduceSub, BitVec.reduceExtractLsb', Eng.tag, BitVec.ofNat_eq_ofNat, and_self]
  refine of_form f0 (by decide) (by decide) hz hw ?_
  rw [decodeForm, f0]
  show decodeS word = _
  rw [decodeS, f1, f2, f3, f4, f5]; rfl
theorem flt (d a b : BitVec 5) : Statement (.flt d a b) := by
  intro hw word he hz
  have ⟨f0, f1, f2, f3, f4, f5⟩ : fld word 29 3 = 0#3 ∧ fld word 24 5 = 20#5 ∧ fld word 0 9 = 6#9 ∧ fld word 19 5 = d ∧ fld word 14 5 = a ∧ fld word 9 5 = b := by
    cases he; simp (disch := decide) only [fld, fld_word, fld_low, fld_high, fld_all, Nat.reduceSub, BitVec.reduceExtractLsb', Eng.tag, BitVec.ofNat_eq_ofNat, and_self]
  refine of_form f0 (by decide) (by decide) hz hw ?_
  rw [decodeForm, f0]
  show decodeS word = _
  rw [decodeS, f1, f2, f3, f4, f5]; rfl
theorem fle (d a b : BitVec 5) : Statement (.fle d a b) := by
  intro hw word he hz
  have ⟨f0, f1, f2, f3, f4, f5⟩ : fld word 29 3 = 0#3 ∧ fld word 24 5 = 20#5 ∧ fld word 0 9 = 7#9 ∧ fld word 19 5 = d ∧ fld word 14 5 = a ∧ fld word 9 5 = b := by
    cases he; simp (disch := decide) only [fld, fld_word, fld_low, fld_high, fld_all, Nat.reduceSub, BitVec.reduceExtractLsb', Eng.tag, BitVec.ofNat_eq_ofNat, and_self]
  refine of_form f0 (by decide) (by decide) hz hw ?_
  rw [decodeForm, f0]
  show decodeS word = _
  rw [decodeS, f1, f2, f3, f4, f5]; rfl
theorem feq (d a b : BitVec 5) : Statement (.feq d a b) := by
  intro hw word he hz
  have ⟨f0, f1, f2, f3, f4, f5⟩ : fld word 29 3 = 0#3 ∧ fld word 24 5 = 20#5 ∧ fld word 0 9 = 8#9 ∧ fld word 19 5 = d ∧ fld word 14 5 = a ∧ fld word 9 5 = b := by
    cases he; simp (disch := decide) only [fld, fld_word, fld_low, fld_high, fld_all, Nat.reduceSub, BitVec.reduceExtractLsb', Eng.tag, BitVec.ofNat_eq_ofNat, and_self]
  refine of_form f0 (by decide) (by decide) hz hw ?_
  rw [decodeForm, f0]
  show decodeS word = _
  rw [decodeS, f1, f2, f3, f4, f5]; rfl
theorem fcvtf (d a : BitVec 5) : Statement (.fcvtf d a) := by
  intro hw word he hz
  have ⟨f0, f1, f2, f3, f4, f5⟩ : fld word 29 3 = 0#3 ∧ fld word 24 5 = 20#5 ∧ fld word 0 9 = 9#9 ∧ fld word 9 5 = 0#5 ∧ fld word 19 5 = d ∧ fld word 14 5 = a := by
    cases he; simp (disch := decide) only [fld, fld_word, fld_low, fld_high, fld_all, Nat.reduceSub, BitVec.reduceExtractLsb', Eng.tag, BitVec.ofNat_eq_ofNat, and_self]
  refine of_form f0 (by decide) (by decide) hz hw ?_
  rw [decodeForm, f0]
  show decodeS word = _
  rw [decodeS, f1, f2, f3, f4, f5]; rfl
theorem fcvti (d a : BitVec 5) : Statement (.fcvti d a) := by
  intro hw word he hz
  have ⟨f0, f1, f2, f3, f4, f5⟩ : fld word 29 3 = 0#3 ∧ fld word 24 5 = 20#5 ∧ fld word 0 9 = 10#9 ∧ fld word 9 5 = 0#5 ∧ fld word 19 5 = d ∧ fld word 14 5 = a := by
    cases he; simp (disch := decide) only [fld, fld_word, fld_low, fld_high, fld_all, Nat.reduceSub, BitVec.reduceExtractLsb', Eng.tag, BitVec.ofNat_eq_ofNat, and_self]
  refine of_form f0 (by decide) (by decide) hz hw ?_
  rw [decodeForm, f0]
  show decodeS word = _
  rw [decodeS, f1, f2, f3, f4, f5]; rfl
theorem fsqrt (d a : BitVec 5) : Statement (.fsqrt d a) := by
  intro hw word he hz
  have ⟨f0, f1, f2, f3, f4, f5⟩ : fld word 29 3 = 0#3 ∧ fld word 24 5 = 20#5 ∧ fld word 0 9 = 11#9 ∧ fld word 9 5 = 0#5 ∧ fld word 19 5 = d ∧ fld word 14 5 = a := by
    cases he; simp (disch := decide) only [fld, fld_word, fld_low, fld_high, fld_all, Nat.reduceSub, BitVec.reduceExtractLsb', Eng.tag, BitVec.ofNat_eq_ofNat, and_self]
  refine of_form f0 (by decide) (by decide) hz hw ?_
  rw [decodeForm, f0]
  show decodeS word = _
  rw [decodeS, f1, f2, f3, f4, f5]; rfl
theorem post (e : BitVec 6) : Statement (.post e) := by
  intro hw word he hz
  have ⟨f0, f1, f2, f3, f4, f5⟩ : fld word 29 3 = 0#3 ∧ fld word 24 5 = 21#5 ∧ fld word 10 3 = 0#3 ∧ fld word 0 10 = 0#10 ∧ fld word 19 5 = 0#5 ∧ fld word 13 6 = e := by
    cases he; simp (disch := decide) only [fld, fld_word, fld_low, fld_high, fld_all, Nat.reduceSub, BitVec.reduceExtractLsb', Eng.tag, BitVec.ofNat_eq_ofNat, and_self]
  refine of_form f0 (by decide) (by decide) hz hw ?_
  rw [decodeForm, f0]
  show decodeS word = _
  rw [decodeS, f1, f2, f3, f4, f5]; rfl
theorem postv (s : BitVec 5) (e : BitVec 6) : Statement (.postv s e) := by
  intro hw word he hz
  have ⟨f0, f1, f2, f3, f4, f5⟩ : fld word 29 3 = 0#3 ∧ fld word 24 5 = 21#5 ∧ fld word 10 3 = 1#3 ∧ fld word 0 10 = 0#10 ∧ fld word 19 5 = s ∧ fld word 13 6 = e := by
    cases he; simp (disch := decide) only [fld, fld_word, fld_low, fld_high, fld_all, Nat.reduceSub, BitVec.reduceExtractLsb', Eng.tag, BitVec.ofNat_eq_ofNat, and_self]
  refine of_form f0 (by decide) (by decide) hz hw ?_
  rw [decodeForm, f0]
  show decodeS word = _
  rw [decodeS, f1, f2, f3, f4, f5]; rfl
theorem await (e : BitVec 6) : Statement (.await e) := by
  intro hw word he hz
  have ⟨f0, f1, f2, f3, f4, f5⟩ : fld word 29 3 = 0#3 ∧ fld word 24 5 = 21#5 ∧ fld word 10 3 = 2#3 ∧ fld word 0 10 = 0#10 ∧ fld word 19 5 = 0#5 ∧ fld word 13 6 = e := by
    cases he; simp (disch := decide) only [fld, fld_word, fld_low, fld_high, fld_all, Nat.reduceSub, BitVec.reduceExtractLsb', Eng.tag, BitVec.ofNat_eq_ofNat, and_self]
  refine of_form f0 (by decide) (by decide) hz hw ?_
  rw [decodeForm, f0]
  show decodeS word = _
  rw [decodeS, f1, f2, f3, f4, f5]; rfl
theorem awaitv (s : BitVec 5) (e : BitVec 6) : Statement (.awaitv s e) := by
  intro hw word he hz
  have ⟨f0, f1, f2, f3, f4, f5⟩ : fld word 29 3 = 0#3 ∧ fld word 24 5 = 21#5 ∧ fld word 10 3 = 3#3 ∧ fld word 0 10 = 0#10 ∧ fld word 19 5 = s ∧ fld word 13 6 = e := by
    cases he; simp (disch := decide) only [fld, fld_word, fld_low, fld_high, fld_all, Nat.reduceSub, BitVec.reduceExtractLsb', Eng.tag, BitVec.ofNat_eq_ofNat, and_self]
  refine of_form f0 (by decide) (by decide) hz hw ?_
  rw [decodeForm, f0]
  show decodeS word = _
  rw [decodeS, f1, f2, f3, f4, f5]; rfl
theorem tawait (s : BitVec 5) (e : BitVec 6) : Statement (.tawait s e) := by
  intro hw word he hz
  have ⟨f0, f1, f2, f3, f4, f5⟩ : fld word 29 3 = 0#3 ∧ fld word 24 5 = 21#5 ∧ fld word 10 3 = 4#3 ∧ fld word 0 10 = 0#10 ∧ fld word 19 5 = s ∧ fld word 13 6 = e := by
    cases he; simp (disch := decide) only [fld, fld_word, fld_low, fld_high, fld_all, Nat.reduceSub, BitVec.reduceExtractLsb', Eng.tag, BitVec.ofNat_eq_ofNat, and_self]
  refine of_form f0 (by decide) (by decide) hz hw ?_
  rw [decodeForm, f0]
  show decodeS word = _
  rw [decodeS, f1, f2, f3, f4, f5]; rfl
theorem ctake (d a b : BitVec 5) : Statement (.ctake d a b) := by
  intro hw word he hz
  have ⟨f0, f1, f2, f3, f4, f5⟩ : fld word 29 3 = 0#3 ∧ fld word 24 5 = 22#5 ∧ fld word 0 9 = 0#9 ∧ fld word 19 5 = d ∧ fld word 14 5 = a ∧ fld word 9 5 = b := by
    cases he; simp (disch := decide) only [fld, fld_word, fld_low, fld_high, fld_all, Nat.reduceSub, BitVec.reduceExtractLsb', Eng.tag, BitVec.ofNat_eq_ofNat, and_self]
  refine of_form f0 (by decide) (by decide) hz hw ?_
  rw [decodeForm, f0]
  show decodeS word = _
  rw [decodeS, f1, f2, f3, f4, f5]; rfl
theorem ctadd (a b : BitVec 5) : Statement (.ctadd a b) := by
  intro hw word he hz
  have ⟨f0, f1, f2, f3, f4, f5⟩ : fld word 29 3 = 0#3 ∧ fld word 24 5 = 22#5 ∧ fld word 0 9 = 1#9 ∧ fld word 19 5 = 0#5 ∧ fld word 14 5 = a ∧ fld word 9 5 = b := by
    cases he; simp (disch := decide) only [fld, fld_word, fld_low, fld_high, fld_all, Nat.reduceSub, BitVec.reduceExtractLsb', Eng.tag, BitVec.ofNat_eq_ofNat, and_self]
  refine of_form f0 (by decide) (by decide) hz hw ?_
  rw [decodeForm, f0]
  show decodeS word = _
  rw [decodeS, f1, f2, f3, f4, f5]; rfl
theorem ctwait (d a b : BitVec 5) : Statement (.ctwait d a b) := by
  intro hw word he hz
  have ⟨f0, f1, f2, f3, f4, f5⟩ : fld word 29 3 = 0#3 ∧ fld word 24 5 = 22#5 ∧ fld word 0 9 = 2#9 ∧ fld word 19 5 = d ∧ fld word 14 5 = a ∧ fld word 9 5 = b := by
    cases he; simp (disch := decide) only [fld, fld_word, fld_low, fld_high, fld_all, Nat.reduceSub, BitVec.reduceExtractLsb', Eng.tag, BitVec.ofNat_eq_ofNat, and_self]
  refine of_form f0 (by decide) (by decide) hz hw ?_
  rw [decodeForm, f0]
  show decodeS word = _
  rw [decodeS, f1, f2, f3, f4, f5]; rfl
theorem ctset (a b : BitVec 5) : Statement (.ctset a b) := by
  intro hw word he hz
  have ⟨f0, f1, f2, f3, f4, f5⟩ : fld word 29 3 = 0#3 ∧ fld word 24 5 = 22#5 ∧ fld word 0 9 = 3#9 ∧ fld word 19 5 = 0#5 ∧ fld word 14 5 = a ∧ fld word 9 5 = b := by
    cases he; simp (disch := decide) only [fld, fld_word, fld_low, fld_high, fld_all, Nat.reduceSub, BitVec.reduceExtractLsb', Eng.tag, BitVec.ofNat_eq_ofNat, and_self]
  refine of_form f0 (by decide) (by decide) hz hw ?_
  rw [decodeForm, f0]
  show decodeS word = _
  rw [decodeS, f1, f2, f3, f4, f5]; rfl
theorem ctrd (d a : BitVec 5) : Statement (.ctrd d a) := by
  intro hw word he hz
  have ⟨f0, f1, f2, f3, f4, f5⟩ : fld word 29 3 = 0#3 ∧ fld word 24 5 = 22#5 ∧ fld word 0 9 = 4#9 ∧ fld word 9 5 = 0#5 ∧ fld word 19 5 = d ∧ fld word 14 5 = a := by
    cases he; simp (disch := decide) only [fld, fld_word, fld_low, fld_high, fld_all, Nat.reduceSub, BitVec.reduceExtractLsb', Eng.tag, BitVec.ofNat_eq_ofNat, and_self]
  refine of_form f0 (by decide) (by decide) hz hw ?_
  rw [decodeForm, f0]
  show decodeS word = _
  rw [decodeS, f1, f2, f3, f4, f5]; rfl
theorem barw (d a b : BitVec 5) : Statement (.barw d a b) := by
  intro hw word he hz
  have ⟨f0, f1, f2, f3, f4, f5⟩ : fld word 29 3 = 0#3 ∧ fld word 24 5 = 22#5 ∧ fld word 0 9 = 5#9 ∧ fld word 19 5 = d ∧ fld word 14 5 = a ∧ fld word 9 5 = b := by
    cases he; simp (disch := decide) only [fld, fld_word, fld_low, fld_high, fld_all, Nat.reduceSub, BitVec.reduceExtractLsb', Eng.tag, BitVec.ofNat_eq_ofNat, and_self]
  refine of_form f0 (by decide) (by decide) hz hw ?_
  rw [decodeForm, f0]
  show decodeS word = _
  rw [decodeS, f1, f2, f3, f4, f5]; rfl
theorem cfence (m : BitVec 16) (s : BitVec 3) (k : BitVec 2) : Statement (.cfence m s k) := by
  intro hw word he hz
  have ⟨f0, f1, f2, f3, f4, f5⟩ : fld word 29 3 = 0#3 ∧ fld word 24 5 = 23#5 ∧ fld word 0 3 = 0#3 ∧ fld word 8 16 = m ∧ fld word 5 3 = s ∧ fld word 3 2 = k := by
    cases he; simp (disch := decide) only [fld, fld_word, fld_low, fld_high, fld_all, Nat.reduceSub, BitVec.reduceExtractLsb', Eng.tag, BitVec.ofNat_eq_ofNat, and_self]
  refine of_form f0 (by decide) (by decide) hz hw ?_
  rw [decodeForm, f0]
  show decodeS word = _
  rw [decodeS, f1, f2, f3, f4, f5]; rfl
theorem spawn (d a b : BitVec 5) : Statement (.spawn d a b) := by
  intro hw word he hz
  have ⟨f0, f1, f2, f3, f4, f5⟩ : fld word 29 3 = 0#3 ∧ fld word 24 5 = 24#5 ∧ fld word 0 9 = 0#9 ∧ fld word 19 5 = d ∧ fld word 14 5 = a ∧ fld word 9 5 = b := by
    cases he; simp (disch := decide) only [fld, fld_word, fld_low, fld_high, fld_all, Nat.reduceSub, BitVec.reduceExtractLsb', Eng.tag, BitVec.ofNat_eq_ofNat, and_self]
  refine of_form f0 (by decide) (by decide) hz hw ?_
  rw [decodeForm, f0]
  show decodeS word = _
  rw [decodeS, f1, f2, f3, f4, f5]; rfl
theorem lread (d n : BitVec 5) : Statement (.lread d n) := by
  intro hw word he hz
  have ⟨f0, f1, f2, f3, f4, f5⟩ : fld word 29 3 = 0#3 ∧ fld word 24 5 = 24#5 ∧ fld word 0 9 = 1#9 ∧ fld word 14 5 = 0#5 ∧ fld word 19 5 = d ∧ fld word 9 5 = n := by
    cases he; simp (disch := decide) only [fld, fld_word, fld_low, fld_high, fld_all, Nat.reduceSub, BitVec.reduceExtractLsb', Eng.tag, BitVec.ofNat_eq_ofNat, and_self]
  refine of_form f0 (by decide) (by decide) hz hw ?_
  rw [decodeForm, f0]
  show decodeS word = _
  rw [decodeS, f1, f2, f3, f4, f5]; rfl
theorem idx (d l : BitVec 5) : Statement (.idx d l) := by
  intro hw word he hz
  have ⟨f0, f1, f2, f3, f4, f5⟩ : fld word 29 3 = 0#3 ∧ fld word 24 5 = 24#5 ∧ fld word 0 9 = 2#9 ∧ fld word 14 5 = 0#5 ∧ fld word 19 5 = d ∧ fld word 9 5 = l := by
    cases he; simp (disch := decide) only [fld, fld_word, fld_low, fld_high, fld_all, Nat.reduceSub, BitVec.reduceExtractLsb', Eng.tag, BitVec.ofNat_eq_ofNat, and_self]
  refine of_form f0 (by decide) (by decide) hz hw ?_
  rw [decodeForm, f0]
  show decodeS word = _
  rw [decodeS, f1, f2, f3, f4, f5]; rfl
theorem ssopen (d a : BitVec 5) : Statement (.ssopen d a) := by
  intro hw word he hz
  have ⟨f0, f1, f2, f3, f4, f5⟩ : fld word 29 3 = 0#3 ∧ fld word 24 5 = 25#5 ∧ fld word 0 9 = 0#9 ∧ fld word 9 5 = 0#5 ∧ fld word 19 5 = d ∧ fld word 14 5 = a := by
    cases he; simp (disch := decide) only [fld, fld_word, fld_low, fld_high, fld_all, Nat.reduceSub, BitVec.reduceExtractLsb', Eng.tag, BitVec.ofNat_eq_ofNat, and_self]
  refine of_form f0 (by decide) (by decide) hz hw ?_
  rw [decodeForm, f0]
  show decodeS word = _
  rw [decodeS, f1, f2, f3, f4, f5]; rfl
theorem ssclose (d a : BitVec 5) : Statement (.ssclose d a) := by
  intro hw word he hz
  have ⟨f0, f1, f2, f3, f4, f5⟩ : fld word 29 3 = 0#3 ∧ fld word 24 5 = 25#5 ∧ fld word 0 9 = 1#9 ∧ fld word 9 5 = 0#5 ∧ fld word 19 5 = d ∧ fld word 14 5 = a := by
    cases he; simp (disch := decide) only [fld, fld_word, fld_low, fld_high, fld_all, Nat.reduceSub, BitVec.reduceExtractLsb', Eng.tag, BitVec.ofNat_eq_ofNat, and_self]
  refine of_form f0 (by decide) (by decide) hz hw ?_
  rw [decodeForm, f0]
  show decodeS word = _
  rw [decodeS, f1, f2, f3, f4, f5]; rfl
theorem sseed (d a b : BitVec 5) : Statement (.sseed d a b) := by
  intro hw word he hz
  have ⟨f0, f1, f2, f3, f4, f5⟩ : fld word 29 3 = 0#3 ∧ fld word 24 5 = 25#5 ∧ fld word 0 9 = 2#9 ∧ fld word 19 5 = d ∧ fld word 14 5 = a ∧ fld word 9 5 = b := by
    cases he; simp (disch := decide) only [fld, fld_word, fld_low, fld_high, fld_all, Nat.reduceSub, BitVec.reduceExtractLsb', Eng.tag, BitVec.ofNat_eq_ofNat, and_self]
  refine of_form f0 (by decide) (by decide) hz hw ?_
  rw [decodeForm, f0]
  show decodeS word = _
  rw [decodeS, f1, f2, f3, f4, f5]; rfl
theorem sfbeg (d a b : BitVec 5) : Statement (.sfbeg d a b) := by
  intro hw word he hz
  have ⟨f0, f1, f2, f3, f4, f5⟩ : fld word 29 3 = 0#3 ∧ fld word 24 5 = 25#5 ∧ fld word 0 9 = 3#9 ∧ fld word 19 5 = d ∧ fld word 14 5 = a ∧ fld word 9 5 = b := by
    cases he; simp (disch := decide) only [fld, fld_word, fld_low, fld_high, fld_all, Nat.reduceSub, BitVec.reduceExtractLsb', Eng.tag, BitVec.ofNat_eq_ofNat, and_self]
  refine of_form f0 (by decide) (by decide) hz hw ?_
  rw [decodeForm, f0]
  show decodeS word = _
  rw [decodeS, f1, f2, f3, f4, f5]; rfl
theorem sfend (d a b : BitVec 5) : Statement (.sfend d a b) := by
  intro hw word he hz
  have ⟨f0, f1, f2, f3, f4, f5⟩ : fld word 29 3 = 0#3 ∧ fld word 24 5 = 25#5 ∧ fld word 0 9 = 4#9 ∧ fld word 19 5 = d ∧ fld word 14 5 = a ∧ fld word 9 5 = b := by
    cases he; simp (disch := decide) only [fld, fld_word, fld_low, fld_high, fld_all, Nat.reduceSub, BitVec.reduceExtractLsb', Eng.tag, BitVec.ofNat_eq_ofNat, and_self]
  refine of_form f0 (by decide) (by decide) hz hw ?_
  rw [decodeForm, f0]
  show decodeS word = _
  rw [decodeS, f1, f2, f3, f4, f5]; rfl
theorem sjump (d a : BitVec 5) : Statement (.sjump d a) := by
  intro hw word he hz
  have ⟨f0, f1, f2, f3, f4, f5⟩ : fld word 29 3 = 0#3 ∧ fld word 24 5 = 25#5 ∧ fld word 0 9 = 5#9 ∧ fld word 9 5 = 0#5 ∧ fld word 19 5 = d ∧ fld word 14 5 = a := by
    cases he; simp (disch := decide) only [fld, fld_word, fld_low, fld_high, fld_all, Nat.reduceSub, BitVec.reduceExtractLsb', Eng.tag, BitVec.ofNat_eq_ofNat, and_self]
  refine of_form f0 (by decide) (by decide) hz hw ?_
  rw [decodeForm, f0]
  show decodeS word = _
  rw [decodeS, f1, f2, f3, f4, f5]; rfl
theorem spfx (d a : BitVec 5) : Statement (.spfx d a) := by
  intro hw word he hz
  have ⟨f0, f1, f2, f3, f4, f5⟩ : fld word 29 3 = 0#3 ∧ fld word 24 5 = 25#5 ∧ fld word 0 9 = 6#9 ∧ fld word 9 5 = 0#5 ∧ fld word 19 5 = d ∧ fld word 14 5 = a := by
    cases he; simp (disch := decide) only [fld, fld_word, fld_low, fld_high, fld_all, Nat.reduceSub, BitVec.reduceExtractLsb', Eng.tag, BitVec.ofNat_eq_ofNat, and_self]
  refine of_form f0 (by decide) (by decide) hz hw ?_
  rw [decodeForm, f0]
  show decodeS word = _
  rw [decodeS, f1, f2, f3, f4, f5]; rfl
theorem swaitp (d a b : BitVec 5) : Statement (.swaitp d a b) := by
  intro hw word he hz
  have ⟨f0, f1, f2, f3, f4, f5⟩ : fld word 29 3 = 0#3 ∧ fld word 24 5 = 25#5 ∧ fld word 0 9 = 7#9 ∧ fld word 19 5 = d ∧ fld word 14 5 = a ∧ fld word 9 5 = b := by
    cases he; simp (disch := decide) only [fld, fld_word, fld_low, fld_high, fld_all, Nat.reduceSub, BitVec.reduceExtractLsb', Eng.tag, BitVec.ofNat_eq_ofNat, and_self]
  refine of_form f0 (by decide) (by decide) hz hw ?_
  rw [decodeForm, f0]
  show decodeS word = _
  rw [decodeS, f1, f2, f3, f4, f5]; rfl
theorem srecyc (d a : BitVec 5) : Statement (.srecyc d a) := by
  intro hw word he hz
  have ⟨f0, f1, f2, f3, f4, f5⟩ : fld word 29 3 = 0#3 ∧ fld word 24 5 = 25#5 ∧ fld word 0 9 = 8#9 ∧ fld word 9 5 = 0#5 ∧ fld word 19 5 = d ∧ fld word 14 5 = a := by
    cases he; simp (disch := decide) only [fld, fld_word, fld_low, fld_high, fld_all, Nat.reduceSub, BitVec.reduceExtractLsb', Eng.tag, BitVec.ofNat_eq_ofNat, and_self]
  refine of_form f0 (by decide) (by decide) hz hw ?_
  rw [decodeForm, f0]
  show decodeS word = _
  rw [decodeS, f1, f2, f3, f4, f5]; rfl
theorem saccept (d a b : BitVec 5) : Statement (.saccept d a b) := by
  intro hw word he hz
  have ⟨f0, f1, f2, f3, f4, f5⟩ : fld word 29 3 = 0#3 ∧ fld word 24 5 = 25#5 ∧ fld word 0 9 = 9#9 ∧ fld word 19 5 = d ∧ fld word 14 5 = a ∧ fld word 9 5 = b := by
    cases he; simp (disch := decide) only [fld, fld_word, fld_low, fld_high, fld_all, Nat.reduceSub, BitVec.reduceExtractLsb', Eng.tag, BitVec.ofNat_eq_ofNat, and_self]
  refine of_form f0 (by decide) (by decide) hz hw ?_
  rw [decodeForm, f0]
  show decodeS word = _
  rw [decodeS, f1, f2, f3, f4, f5]; rfl
theorem sresid (d a b : BitVec 5) : Statement (.sresid d a b) := by
  intro hw word he hz
  have ⟨f0, f1, f2, f3, f4, f5⟩ : fld word 29 3 = 0#3 ∧ fld word 24 5 = 25#5 ∧ fld word 0 9 = 10#9 ∧ fld word 19 5 = d ∧ fld word 14 5 = a ∧ fld word 9 5 = b := by
    cases he; simp (disch := decide) only [fld, fld_word, fld_low, fld_high, fld_all, Nat.reduceSub, BitVec.reduceExtractLsb', Eng.tag, BitVec.ofNat_eq_ofNat, and_self]
  refine of_form f0 (by decide) (by decide) hz hw ?_
  rw [decodeForm, f0]
  show decodeS word = _
  rw [decodeS, f1, f2, f3, f4, f5]; rfl
theorem scancel (d a : BitVec 5) : Statement (.scancel d a) := by
  intro hw word he hz
  have ⟨f0, f1, f2, f3, f4, f5⟩ : fld word 29 3 = 0#3 ∧ fld word 24 5 = 25#5 ∧ fld word 0 9 = 11#9 ∧ fld word 9 5 = 0#5 ∧ fld word 19 5 = d ∧ fld word 14 5 = a := by
    cases he; simp (disch := decide) only [fld, fld_word, fld_low, fld_high, fld_all, Nat.reduceSub, BitVec.reduceExtractLsb', Eng.tag, BitVec.ofNat_eq_ofNat, and_self]
  refine of_form f0 (by decide) (by decide) hz hw ?_
  rw [decodeForm, f0]
  show decodeS word = _
  rw [decodeS, f1, f2, f3, f4, f5]; rfl
theorem sflt (d a b : BitVec 5) : Statement (.sflt d a b) := by
  intro hw word he hz
  have ⟨f0, f1, f2, f3, f4, f5⟩ : fld word 29 3 = 0#3 ∧ fld word 24 5 = 25#5 ∧ fld word 0 9 = 12#9 ∧ fld word 19 5 = d ∧ fld word 14 5 = a ∧ fld word 9 5 = b := by
    cases he; simp (disch := decide) only [fld, fld_word, fld_low, fld_high, fld_all, Nat.reduceSub, BitVec.reduceExtractLsb', Eng.tag, BitVec.ofNat_eq_ofNat, and_self]
  refine of_form f0 (by decide) (by decide) hz hw ?_
  rw [decodeForm, f0]
  show decodeS word = _
  rw [decodeS, f1, f2, f3, f4, f5]; rfl
theorem swaitf (d a : BitVec 5) : Statement (.swaitf d a) := by
  intro hw word he hz
  have ⟨f0, f1, f2, f3, f4, f5⟩ : fld word 29 3 = 0#3 ∧ fld word 24 5 = 25#5 ∧ fld word 0 9 = 13#9 ∧ fld word 9 5 = 0#5 ∧ fld word 19 5 = d ∧ fld word 14 5 = a := by
    cases he; simp (disch := decide) only [fld, fld_word, fld_low, fld_high, fld_all, Nat.reduceSub, BitVec.reduceExtractLsb', Eng.tag, BitVec.ofNat_eq_ofNat, and_self]
  refine of_form f0 (by decide) (by decide) hz hw ?_
  rw [decodeForm, f0]
  show decodeS word = _
  rw [decodeS, f1, f2, f3, f4, f5]; rfl
theorem srd (s : BitVec 5) (r : BitVec 12) : Statement (.srd s r) := by
  intro hw word he hz
  have ⟨f0, f1, f2, f3, f4, f5⟩ : fld word 29 3 = 0#3 ∧ fld word 24 5 = 26#5 ∧ fld word 12 2 = 0#2 ∧ fld word 14 5 = 0#5 ∧ fld word 19 5 = s ∧ fld word 0 12 = r := by
    cases he; simp (disch := decide) only [fld, fld_word, fld_low, fld_high, fld_all, Nat.reduceSub, BitVec.reduceExtractLsb', Eng.tag, BitVec.ofNat_eq_ofNat, and_self]
  refine of_form f0 (by decide) (by decide) hz hw ?_
  rw [decodeForm, f0]
  show decodeS word = _
  rw [decodeS, f1, f2, f3, f4, f5]; rfl
theorem swr (s : BitVec 5) (r : BitVec 12) : Statement (.swr s r) := by
  intro hw word he hz
  have ⟨f0, f1, f2, f3, f4, f5⟩ : fld word 29 3 = 0#3 ∧ fld word 24 5 = 26#5 ∧ fld word 12 2 = 1#2 ∧ fld word 14 5 = 0#5 ∧ fld word 19 5 = s ∧ fld word 0 12 = r := by
    cases he; simp (disch := decide) only [fld, fld_word, fld_low, fld_high, fld_all, Nat.reduceSub, BitVec.reduceExtractLsb', Eng.tag, BitVec.ofNat_eq_ofNat, and_self]
  refine of_form f0 (by decide) (by decide) hz hw ?_
  rw [decodeForm, f0]
  show decodeS word = _
  rw [decodeS, f1, f2, f3, f4, f5]; rfl
theorem tlbiVa (s a : BitVec 5) : Statement (.tlbiVa s a) := by
  intro hw word he hz
  have ⟨f0, f1, f2, f3, f4, f5⟩ : fld word 29 3 = 0#3 ∧ fld word 24 5 = 26#5 ∧ fld word 12 2 = 2#2 ∧ fld word 0 12 = 0#12 ∧ fld word 19 5 = s ∧ fld word 14 5 = a := by
    cases he; simp (disch := decide) only [fld, fld_word, fld_low, fld_high, fld_all, Nat.reduceSub, BitVec.reduceExtractLsb', Eng.tag, BitVec.ofNat_eq_ofNat, and_self]
  refine of_form f0 (by decide) (by decide) hz hw ?_
  rw [decodeForm, f0]
  show decodeS word = _
  rw [decodeS, f1, f2, f3, f4, f5]; rfl
theorem tlbiCtx (s : BitVec 5) : Statement (.tlbiCtx s) := by
  intro hw word he hz
  have ⟨f0, f1, f2, f3, f4, f5⟩ : fld word 29 3 = 0#3 ∧ fld word 24 5 = 26#5 ∧ fld word 12 2 = 2#2 ∧ fld word 0 12 = 1#12 ∧ fld word 14 5 = 0#5 ∧ fld word 19 5 = s := by
    cases he; simp (disch := decide) only [fld, fld_word, fld_low, fld_high, fld_all, Nat.reduceSub, BitVec.reduceExtractLsb', Eng.tag, BitVec.ofNat_eq_ofNat, and_self]
  refine of_form f0 (by decide) (by decide) hz hw ?_
  rw [decodeForm, f0]
  show decodeS word = _
  rw [decodeS, f1, f2, f3, f4, f5]; rfl
theorem tlbiAll : Statement (.tlbiAll) := by
  intro hw word he hz
  have ⟨f0, f1, f2, f3, f4⟩ : fld word 29 3 = 0#3 ∧ fld word 24 5 = 26#5 ∧ fld word 12 2 = 2#2 ∧ fld word 0 12 = 2#12 ∧ fld word 14 10 = 0#10 := by
    cases he; simp (disch := decide) only [fld, fld_word, fld_low, fld_high, fld_all, Nat.reduceSub, BitVec.reduceExtractLsb', Eng.tag, BitVec.ofNat_eq_ofNat, and_self]
  refine of_form f0 (by decide) (by decide) hz hw ?_
  rw [decodeForm, f0]
  show decodeS word = _
  rw [decodeS, f1, f2, f3, f4]; rfl
theorem trap (a : BitVec 5) : Statement (.trap a) := by
  intro hw word he hz
  have ⟨f0, f1, f2, f3, f4, f5⟩ : fld word 29 3 = 0#3 ∧ fld word 24 5 = 26#5 ∧ fld word 12 2 = 3#2 ∧ fld word 0 12 = 0#12 ∧ fld word 19 5 = 0#5 ∧ fld word 14 5 = a := by
    cases he; simp (disch := decide) only [fld, fld_word, fld_low, fld_high, fld_all, Nat.reduceSub, BitVec.reduceExtractLsb', Eng.tag, BitVec.ofNat_eq_ofNat, and_self]
  refine of_form f0 (by decide) (by decide) hz hw ?_
  rw [decodeForm, f0]
  show decodeS word = _
  rw [decodeS, f1, f2, f3, f4, f5]; rfl
theorem rte : Statement (.rte) := by
  intro hw word he hz
  have ⟨f0, f1, f2, f3, f4⟩ : fld word 29 3 = 0#3 ∧ fld word 24 5 = 26#5 ∧ fld word 12 2 = 3#2 ∧ fld word 0 12 = 1#12 ∧ fld word 14 10 = 0#10 := by
    cases he; simp (disch := decide) only [fld, fld_word, fld_low, fld_high, fld_all, Nat.reduceSub, BitVec.reduceExtractLsb', Eng.tag, BitVec.ofNat_eq_ofNat, and_self]
  refine of_form f0 (by decide) (by decide) hz hw ?_
  rw [decodeForm, f0]
  show decodeS word = _
  rw [decodeS, f1, f2, f3, f4]; rfl
theorem wfi : Statement (.wfi) := by
  intro hw word he hz
  have ⟨f0, f1, f2, f3, f4⟩ : fld word 29 3 = 0#3 ∧ fld word 24 5 = 26#5 ∧ fld word 12 2 = 3#2 ∧ fld word 0 12 = 2#12 ∧ fld word 14 10 = 0#10 := by
    cases he; simp (disch := decide) only [fld, fld_word, fld_low, fld_high, fld_all, Nat.reduceSub, BitVec.reduceExtractLsb', Eng.tag, BitVec.ofNat_eq_ofNat, and_self]
  refine of_form f0 (by decide) (by decide) hz hw ?_
  rw [decodeForm, f0]
  show decodeS word = _
  rw [decodeS, f1, f2, f3, f4]; rfl
theorem brk (n : BitVec 5) : Statement (.brk n) := by
  intro hw word he hz
  have ⟨f0, f1, f2, f3, f4, f5⟩ : fld word 29 3 = 0#3 ∧ fld word 24 5 = 26#5 ∧ fld word 12 2 = 3#2 ∧ fld word 0 12 = 3#12 ∧ fld word 14 5 = 0#5 ∧ fld word 19 5 = n := by
    cases he; simp (disch := decide) only [fld, fld_word, fld_low, fld_high, fld_all, Nat.reduceSub, BitVec.reduceExtractLsb', Eng.tag, BitVec.ofNat_eq_ofNat, and_self]
  refine of_form f0 (by decide) (by decide) hz hw ?_
  rw [decodeForm, f0]
  show decodeS word = _
  rw [decodeS, f1, f2, f3, f4, f5]; rfl
theorem tlbsync : Statement (.tlbsync) := by
  intro hw word he hz
  have ⟨f0, f1, f2, f3, f4⟩ : fld word 29 3 = 0#3 ∧ fld word 24 5 = 26#5 ∧ fld word 12 2 = 3#2 ∧ fld word 0 12 = 4#12 ∧ fld word 14 10 = 0#10 := by
    cases he; simp (disch := decide) only [fld, fld_word, fld_low, fld_high, fld_all, Nat.reduceSub, BitVec.reduceExtractLsb', Eng.tag, BitVec.ofNat_eq_ofNat, and_self]
  refine of_form f0 (by decide) (by decide) hz hw ?_
  rw [decodeForm, f0]
  show decodeS word = _
  rw [decodeS, f1, f2, f3, f4]; rfl
theorem awaitf (s : BitVec 5) (r : BitVec 8) : Statement (.awaitf s r) := by
  intro hw word he hz
  have ⟨f0, f1, f2, f3, f4, f5⟩ : fld word 29 3 = 0#3 ∧ fld word 24 5 = 27#5 ∧ fld word 8 3 = 0#3 ∧ fld word 0 8 = 0#8 ∧ fld word 19 5 = s ∧ fld word 11 8 = r := by
    cases he; simp (disch := decide) only [fld, fld_word, fld_low, fld_high, fld_all, Nat.reduceSub, BitVec.reduceExtractLsb', Eng.tag, BitVec.ofNat_eq_ofNat, and_self]
  refine of_form f0 (by decide) (by decide) hz hw ?_
  rw [decodeForm, f0]
  show decodeS word = _
  rw [decodeS, f1, f2, f3, f4, f5]; rfl
theorem rels (r : BitVec 8) : Statement (.rels r) := by
  intro hw word he hz
  have ⟨f0, f1, f2, f3, f4, f5⟩ : fld word 29 3 = 0#3 ∧ fld word 24 5 = 27#5 ∧ fld word 8 3 = 1#3 ∧ fld word 0 8 = 0#8 ∧ fld word 19 5 = 0#5 ∧ fld word 11 8 = r := by
    cases he; simp (disch := decide) only [fld, fld_word, fld_low, fld_high, fld_all, Nat.reduceSub, BitVec.reduceExtractLsb', Eng.tag, BitVec.ofNat_eq_ofNat, and_self]
  refine of_form f0 (by decide) (by decide) hz hw ?_
  rw [decodeForm, f0]
  show decodeS word = _
  rw [decodeS, f1, f2, f3, f4, f5]; rfl
theorem rclaim (s : BitVec 5) (r : BitVec 8) : Statement (.rclaim s r) := by
  intro hw word he hz
  have ⟨f0, f1, f2, f3, f4, f5⟩ : fld word 29 3 = 0#3 ∧ fld word 24 5 = 27#5 ∧ fld word 8 3 = 2#3 ∧ fld word 0 8 = 0#8 ∧ fld word 19 5 = s ∧ fld word 11 8 = r := by
    cases he; simp (disch := decide) only [fld, fld_word, fld_low, fld_high, fld_all, Nat.reduceSub, BitVec.reduceExtractLsb', Eng.tag, BitVec.ofNat_eq_ofNat, and_self]
  refine of_form f0 (by decide) (by decide) hz hw ?_
  rw [decodeForm, f0]
  show decodeS word = _
  rw [decodeS, f1, f2, f3, f4, f5]; rfl
theorem rstat (s : BitVec 5) (r : BitVec 8) : Statement (.rstat s r) := by
  intro hw word he hz
  have ⟨f0, f1, f2, f3, f4, f5⟩ : fld word 29 3 = 0#3 ∧ fld word 24 5 = 27#5 ∧ fld word 8 3 = 3#3 ∧ fld word 0 8 = 0#8 ∧ fld word 19 5 = s ∧ fld word 11 8 = r := by
    cases he; simp (disch := decide) only [fld, fld_word, fld_low, fld_high, fld_all, Nat.reduceSub, BitVec.reduceExtractLsb', Eng.tag, BitVec.ofNat_eq_ofNat, and_self]
  refine of_form f0 (by decide) (by decide) hz hw ?_
  rw [decodeForm, f0]
  show decodeS word = _
  rw [decodeS, f1, f2, f3, f4, f5]; rfl
theorem rinit (s : BitVec 5) (r : BitVec 8) : Statement (.rinit s r) := by
  intro hw word he hz
  have ⟨f0, f1, f2, f3, f4, f5⟩ : fld word 29 3 = 0#3 ∧ fld word 24 5 = 27#5 ∧ fld word 8 3 = 4#3 ∧ fld word 0 8 = 0#8 ∧ fld word 19 5 = s ∧ fld word 11 8 = r := by
    cases he; simp (disch := decide) only [fld, fld_word, fld_low, fld_high, fld_all, Nat.reduceSub, BitVec.reduceExtractLsb', Eng.tag, BitVec.ofNat_eq_ofNat, and_self]
  refine of_form f0 (by decide) (by decide) hz hw ?_
  rw [decodeForm, f0]
  show decodeS word = _
  rw [decodeS, f1, f2, f3, f4, f5]; rfl
theorem limm (i : BitVec 24) : Statement (.limm i) := by
  intro hw word he hz
  have ⟨f0, f1, f2⟩ : fld word 29 3 = 0#3 ∧ fld word 24 5 = 31#5 ∧ fld word 0 24 = i := by
    cases he; simp (disch := decide) only [fld, fld_word, fld_low, fld_high, fld_all, Nat.reduceSub, BitVec.reduceExtractLsb', Eng.tag, BitVec.ofNat_eq_ofNat, and_self]
  refine of_form f0 (by decide) (by decide) hz hw ?_
  rw [decodeForm, f0]
  show decodeS word = _
  rw [decodeS, f1, f2]; rfl
theorem nopc : Statement (.nopc) := by
  intro hw word he hz
  have ⟨f0, f1, f2⟩ : fld word 29 3 = 7#3 ∧ fld word 24 5 = 0#5 ∧ fld word 0 24 = 0#24 := by
    cases he; simp (disch := decide) only [fld, fld_word, fld_low, fld_high, fld_all, Nat.reduceSub, BitVec.reduceExtractLsb', Eng.tag, BitVec.ofNat_eq_ofNat, and_self]
  refine of_form f0 (by decide) (by decide) hz hw ?_
  rw [decodeForm, f0]
  show decodeCommon word = _
  rw [decodeCommon, f1, f2]; rfl
theorem safept (i : BitVec 16) : Statement (.safept i) := by
  intro hw word he hz
  have ⟨f0, f1, f2, f3⟩ : fld word 29 3 = 7#3 ∧ fld word 24 5 = 1#5 ∧ fld word 16 8 = 0#8 ∧ fld word 0 16 = i := by
    cases he; simp (disch := decide) only [fld, fld_word, fld_low, fld_high, fld_all, Nat.reduceSub, BitVec.reduceExtractLsb', Eng.tag, BitVec.ofNat_eq_ofNat, and_self]
  refine of_form f0 (by decide) (by decide) hz hw ?_
  rw [decodeForm, f0]
  show decodeCommon word = _
  rw [decodeCommon, f1, f2, f3]; rfl
theorem loopk (o : BitVec 24) : Statement (.loopk o) := by
  intro hw word he hz
  have ⟨f0, f1, f2⟩ : fld word 29 3 = 7#3 ∧ fld word 24 5 = 2#5 ∧ fld word 0 24 = o := by
    cases he; simp (disch := decide) only [fld, fld_word, fld_low, fld_high, fld_all, Nat.reduceSub, BitVec.reduceExtractLsb', Eng.tag, BitVec.ofNat_eq_ofNat, and_self]
  refine of_form f0 (by decide) (by decide) hz hw ?_
  rw [decodeForm, f0]
  show decodeCommon word = _
  rw [decodeCommon, f1, f2]; rfl
theorem lexit (o : BitVec 24) : Statement (.lexit o) := by
  intro hw word he hz
  have ⟨f0, f1, f2⟩ : fld word 29 3 = 7#3 ∧ fld word 24 5 = 3#5 ∧ fld word 0 24 = o := by
    cases he; simp (disch := decide) only [fld, fld_word, fld_low, fld_high, fld_all, Nat.reduceSub, BitVec.reduceExtractLsb', Eng.tag, BitVec.ofNat_eq_ofNat, and_self]
  refine of_form f0 (by decide) (by decide) hz hw ?_
  rw [decodeForm, f0]
  show decodeCommon word = _
  rw [decodeCommon, f1, f2]; rfl
theorem endt : Statement (.endt) := by
  intro hw word he hz
  have ⟨f0, f1, f2⟩ : fld word 29 3 = 7#3 ∧ fld word 24 5 = 4#5 ∧ fld word 0 24 = 0#24 := by
    cases he; simp (disch := decide) only [fld, fld_word, fld_low, fld_high, fld_all, Nat.reduceSub, BitVec.reduceExtractLsb', Eng.tag, BitVec.ofNat_eq_ofNat, and_self]
  refine of_form f0 (by decide) (by decide) hz hw ?_
  rw [decodeForm, f0]
  show decodeCommon word = _
  rw [decodeCommon, f1, f2]; rfl
theorem rfence (s : BitVec 5) (p : BitVec 3) (m : BitVec 16) : Statement (.rfence s p m) := by
  intro hw word he hz
  have ⟨f0, f1, f2, f3, f4⟩ : fld word 29 3 = 7#3 ∧ fld word 24 5 = 5#5 ∧ fld word 19 5 = s ∧ fld word 16 3 = p ∧ fld word 0 16 = m := by
    cases he; simp (disch := decide) only [fld, fld_word, fld_low, fld_high, fld_all, Nat.reduceSub, BitVec.reduceExtractLsb', Eng.tag, BitVec.ofNat_eq_ofNat, and_self]
  refine of_form f0 (by decide) (by decide) hz hw ?_
  rw [decodeForm, f0]
  show decodeCommon word = _
  rw [decodeCommon, f1, f2, f3, f4]; rfl
theorem pushi (e : Eng) (i : BitVec 24) : Statement (.pushi e i) := by
  cases e
  · exact fun hw => absurd (show false = true from hw) (by decide)
  · intro hw word he hz
    have ⟨f0, f1, f2⟩ : fld word 29 3 = 1#3 ∧ fld word 24 5 = 24#5 ∧ fld word 0 24 = i := by
      cases he; simp (disch := decide) only [fld, fld_word, fld_low, fld_high, fld_all, Nat.reduceSub, BitVec.reduceExtractLsb', Eng.tag, BitVec.ofNat_eq_ofNat, and_self]
    refine of_form f0 (by decide) (by decide) hz hw ?_
    rw [decodeForm, f0, f1]
    show decodeEngine .v word = _
    rw [decodeEngine, f1, f2]; rfl
  · intro hw word he hz
    have ⟨f0, f1, f2⟩ : fld word 29 3 = 2#3 ∧ fld word 24 5 = 24#5 ∧ fld word 0 24 = i := by
      cases he; simp (disch := decide) only [fld, fld_word, fld_low, fld_high, fld_all, Nat.reduceSub, BitVec.reduceExtractLsb', Eng.tag, BitVec.ofNat_eq_ofNat, and_self]
    refine of_form f0 (by decide) (by decide) hz hw ?_
    rw [decodeForm, f0, f1]
    show decodeEngine .m word = _
    rw [decodeEngine, f1, f2]; rfl
  · intro hw word he hz
    have ⟨f0, f1, f2⟩ : fld word 29 3 = 3#3 ∧ fld word 24 5 = 24#5 ∧ fld word 0 24 = i := by
      cases he; simp (disch := decide) only [fld, fld_word, fld_low, fld_high, fld_all, Nat.reduceSub, BitVec.reduceExtractLsb', Eng.tag, BitVec.ofNat_eq_ofNat, and_self]
    refine of_form f0 (by decide) (by decide) hz hw ?_
    rw [decodeForm, f0, f1]
    show decodeEngine .c word = _
    rw [decodeEngine, f1, f2]; rfl
  · intro hw word he hz
    have ⟨f0, f1, f2⟩ : fld word 29 3 = 4#3 ∧ fld word 24 5 = 24#5 ∧ fld word 0 24 = i := by
      cases he; simp (disch := decide) only [fld, fld_word, fld_low, fld_high, fld_all, Nat.reduceSub, BitVec.reduceExtractLsb', Eng.tag, BitVec.ofNat_eq_ofNat, and_self]
    refine of_form f0 (by decide) (by decide) hz hw ?_
    rw [decodeForm, f0, f1]
    show decodeEngine .f word = _
    rw [decodeEngine, f1, f2]; rfl
theorem pushg (e : Eng) (g : BitVec 4) (i : BitVec 20) : Statement (.pushg e g i) := by
  cases e
  · exact fun hw => absurd (show false = true from hw) (by decide)
  · intro hw word he hz
    have ⟨f0, f1, f2, f3⟩ : fld word 29 3 = 1#3 ∧ fld word 24 5 = 25#5 ∧ fld word 20 4 = g ∧ fld word 0 20 = i := by
      cases he; simp (disch := decide) only [fld, fld_word, fld_low, fld_high, fld_all, Nat.reduceSub, BitVec.reduceExtractLsb', Eng.tag, BitVec.ofNat_eq_ofNat, and_self]
    refine of_form f0 (by decide) (by decide) hz hw ?_
    rw [decodeForm, f0, f1]
    show decodeEngine .v word = _
    rw [decodeEngine, f1, f2, f3]; rfl
  · intro hw word he hz
    have ⟨f0, f1, f2, f3⟩ : fld word 29 3 = 2#3 ∧ fld word 24 5 = 25#5 ∧ fld word 20 4 = g ∧ fld word 0 20 = i := by
      cases he; simp (disch := decide) only [fld, fld_word, fld_low, fld_high, fld_all, Nat.reduceSub, BitVec.reduceExtractLsb', Eng.tag, BitVec.ofNat_eq_ofNat, and_self]
    refine of_form f0 (by decide) (by decide) hz hw ?_
    rw [decodeForm, f0, f1]
    show decodeEngine .m word = _
    rw [decodeEngine, f1, f2, f3]; rfl
  · intro hw word he hz
    have ⟨f0, f1, f2, f3⟩ : fld word 29 3 = 3#3 ∧ fld word 24 5 = 25#5 ∧ fld word 20 4 = g ∧ fld word 0 20 = i := by
      cases he; simp (disch := decide) only [fld, fld_word, fld_low, fld_high, fld_all, Nat.reduceSub, BitVec.reduceExtractLsb', Eng.tag, BitVec.ofNat_eq_ofNat, and_self]
    refine of_form f0 (by decide) (by decide) hz hw ?_
    rw [decodeForm, f0, f1]
    show decodeEngine .c word = _
    rw [decodeEngine, f1, f2, f3]; rfl
  · intro hw word he hz
    have ⟨f0, f1, f2, f3⟩ : fld word 29 3 = 4#3 ∧ fld word 24 5 = 25#5 ∧ fld word 20 4 = g ∧ fld word 0 20 = i := by
      cases he; simp (disch := decide) only [fld, fld_word, fld_low, fld_high, fld_all, Nat.reduceSub, BitVec.reduceExtractLsb', Eng.tag, BitVec.ofNat_eq_ofNat, and_self]
    refine of_form f0 (by decide) (by decide) hz hw ?_
    rw [decodeForm, f0, f1]
    show decodeEngine .f word = _
    rw [decodeEngine, f1, f2, f3]; rfl
theorem gaddi (e : Eng) (d a : BitVec 4) (i : BitVec 12) : Statement (.gaddi e d a i) := by
  cases e
  · exact fun hw => absurd (show false = true from hw) (by decide)
  · intro hw word he hz
    have ⟨f0, f1, f2, f3, f4, f5⟩ : fld word 29 3 = 1#3 ∧ fld word 24 5 = 26#5 ∧ fld word 12 4 = 0#4 ∧ fld word 20 4 = d ∧ fld word 16 4 = a ∧ fld word 0 12 = i := by
      cases he; simp (disch := decide) only [fld, fld_word, fld_low, fld_high, fld_all, Nat.reduceSub, BitVec.reduceExtractLsb', Eng.tag, BitVec.ofNat_eq_ofNat, and_self]
    refine of_form f0 (by decide) (by decide) hz hw ?_
    rw [decodeForm, f0, f1]
    show decodeEngine .v word = _
    rw [decodeEngine, f1, f2, f3, f4, f5]; rfl
  · intro hw word he hz
    have ⟨f0, f1, f2, f3, f4, f5⟩ : fld word 29 3 = 2#3 ∧ fld word 24 5 = 26#5 ∧ fld word 12 4 = 0#4 ∧ fld word 20 4 = d ∧ fld word 16 4 = a ∧ fld word 0 12 = i := by
      cases he; simp (disch := decide) only [fld, fld_word, fld_low, fld_high, fld_all, Nat.reduceSub, BitVec.reduceExtractLsb', Eng.tag, BitVec.ofNat_eq_ofNat, and_self]
    refine of_form f0 (by decide) (by decide) hz hw ?_
    rw [decodeForm, f0, f1]
    show decodeEngine .m word = _
    rw [decodeEngine, f1, f2, f3, f4, f5]; rfl
  · intro hw word he hz
    have ⟨f0, f1, f2, f3, f4, f5⟩ : fld word 29 3 = 3#3 ∧ fld word 24 5 = 26#5 ∧ fld word 12 4 = 0#4 ∧ fld word 20 4 = d ∧ fld word 16 4 = a ∧ fld word 0 12 = i := by
      cases he; simp (disch := decide) only [fld, fld_word, fld_low, fld_high, fld_all, Nat.reduceSub, BitVec.reduceExtractLsb', Eng.tag, BitVec.ofNat_eq_ofNat, and_self]
    refine of_form f0 (by decide) (by decide) hz hw ?_
    rw [decodeForm, f0, f1]
    show decodeEngine .c word = _
    rw [decodeEngine, f1, f2, f3, f4, f5]; rfl
  · intro hw word he hz
    have ⟨f0, f1, f2, f3, f4, f5⟩ : fld word 29 3 = 4#3 ∧ fld word 24 5 = 26#5 ∧ fld word 12 4 = 0#4 ∧ fld word 20 4 = d ∧ fld word 16 4 = a ∧ fld word 0 12 = i := by
      cases he; simp (disch := decide) only [fld, fld_word, fld_low, fld_high, fld_all, Nat.reduceSub, BitVec.reduceExtractLsb', Eng.tag, BitVec.ofNat_eq_ofNat, and_self]
    refine of_form f0 (by decide) (by decide) hz hw ?_
    rw [decodeForm, f0, f1]
    show decodeEngine .f word = _
    rw [decodeEngine, f1, f2, f3, f4, f5]; rfl
theorem gadd (e : Eng) (d a b : BitVec 4) : Statement (.gadd e d a b) := by
  cases e
  · exact fun hw => absurd (show false = true from hw) (by decide)
  · intro hw word he hz
    have ⟨f0, f1, f2, f3, f4, f5, f6⟩ : fld word 29 3 = 1#3 ∧ fld word 24 5 = 26#5 ∧ fld word 12 4 = 1#4 ∧ fld word 4 8 = 0#8 ∧ fld word 20 4 = d ∧ fld word 16 4 = a ∧ fld word 0 4 = b := by
      cases he; simp (disch := decide) only [fld, fld_word, fld_low, fld_high, fld_all, Nat.reduceSub, BitVec.reduceExtractLsb', Eng.tag, BitVec.ofNat_eq_ofNat, and_self]
    refine of_form f0 (by decide) (by decide) hz hw ?_
    rw [decodeForm, f0, f1]
    show decodeEngine .v word = _
    rw [decodeEngine, f1, f2, f3, f4, f5, f6]; rfl
  · intro hw word he hz
    have ⟨f0, f1, f2, f3, f4, f5, f6⟩ : fld word 29 3 = 2#3 ∧ fld word 24 5 = 26#5 ∧ fld word 12 4 = 1#4 ∧ fld word 4 8 = 0#8 ∧ fld word 20 4 = d ∧ fld word 16 4 = a ∧ fld word 0 4 = b := by
      cases he; simp (disch := decide) only [fld, fld_word, fld_low, fld_high, fld_all, Nat.reduceSub, BitVec.reduceExtractLsb', Eng.tag, BitVec.ofNat_eq_ofNat, and_self]
    refine of_form f0 (by decide) (by decide) hz hw ?_
    rw [decodeForm, f0, f1]
    show decodeEngine .m word = _
    rw [decodeEngine, f1, f2, f3, f4, f5, f6]; rfl
  · intro hw word he hz
    have ⟨f0, f1, f2, f3, f4, f5, f6⟩ : fld word 29 3 = 3#3 ∧ fld word 24 5 = 26#5 ∧ fld word 12 4 = 1#4 ∧ fld word 4 8 = 0#8 ∧ fld word 20 4 = d ∧ fld word 16 4 = a ∧ fld word 0 4 = b := by
      cases he; simp (disch := decide) only [fld, fld_word, fld_low, fld_high, fld_all, Nat.reduceSub, BitVec.reduceExtractLsb', Eng.tag, BitVec.ofNat_eq_ofNat, and_self]
    refine of_form f0 (by decide) (by decide) hz hw ?_
    rw [decodeForm, f0, f1]
    show decodeEngine .c word = _
    rw [decodeEngine, f1, f2, f3, f4, f5, f6]; rfl
  · intro hw word he hz
    have ⟨f0, f1, f2, f3, f4, f5, f6⟩ : fld word 29 3 = 4#3 ∧ fld word 24 5 = 26#5 ∧ fld word 12 4 = 1#4 ∧ fld word 4 8 = 0#8 ∧ fld word 20 4 = d ∧ fld word 16 4 = a ∧ fld word 0 4 = b := by
      cases he; simp (disch := decide) only [fld, fld_word, fld_low, fld_high, fld_all, Nat.reduceSub, BitVec.reduceExtractLsb', Eng.tag, BitVec.ofNat_eq_ofNat, and_self]
    refine of_form f0 (by decide) (by decide) hz hw ?_
    rw [decodeForm, f0, f1]
    show decodeEngine .f word = _
    rw [decodeEngine, f1, f2, f3, f4, f5, f6]; rfl
theorem gshli (e : Eng) (d a : BitVec 4) (n : BitVec 6) : Statement (.gshli e d a n) := by
  cases e
  · exact fun hw => absurd (show false = true from hw) (by decide)
  · intro hw word he hz
    have ⟨f0, f1, f2, f3, f4, f5, f6⟩ : fld word 29 3 = 1#3 ∧ fld word 24 5 = 26#5 ∧ fld word 12 4 = 2#4 ∧ fld word 6 6 = 0#6 ∧ fld word 20 4 = d ∧ fld word 16 4 = a ∧ fld word 0 6 = n := by
      cases he; simp (disch := decide) only [fld, fld_word, fld_low, fld_high, fld_all, Nat.reduceSub, BitVec.reduceExtractLsb', Eng.tag, BitVec.ofNat_eq_ofNat, and_self]
    refine of_form f0 (by decide) (by decide) hz hw ?_
    rw [decodeForm, f0, f1]
    show decodeEngine .v word = _
    rw [decodeEngine, f1, f2, f3, f4, f5, f6]; rfl
  · intro hw word he hz
    have ⟨f0, f1, f2, f3, f4, f5, f6⟩ : fld word 29 3 = 2#3 ∧ fld word 24 5 = 26#5 ∧ fld word 12 4 = 2#4 ∧ fld word 6 6 = 0#6 ∧ fld word 20 4 = d ∧ fld word 16 4 = a ∧ fld word 0 6 = n := by
      cases he; simp (disch := decide) only [fld, fld_word, fld_low, fld_high, fld_all, Nat.reduceSub, BitVec.reduceExtractLsb', Eng.tag, BitVec.ofNat_eq_ofNat, and_self]
    refine of_form f0 (by decide) (by decide) hz hw ?_
    rw [decodeForm, f0, f1]
    show decodeEngine .m word = _
    rw [decodeEngine, f1, f2, f3, f4, f5, f6]; rfl
  · intro hw word he hz
    have ⟨f0, f1, f2, f3, f4, f5, f6⟩ : fld word 29 3 = 3#3 ∧ fld word 24 5 = 26#5 ∧ fld word 12 4 = 2#4 ∧ fld word 6 6 = 0#6 ∧ fld word 20 4 = d ∧ fld word 16 4 = a ∧ fld word 0 6 = n := by
      cases he; simp (disch := decide) only [fld, fld_word, fld_low, fld_high, fld_all, Nat.reduceSub, BitVec.reduceExtractLsb', Eng.tag, BitVec.ofNat_eq_ofNat, and_self]
    refine of_form f0 (by decide) (by decide) hz hw ?_
    rw [decodeForm, f0, f1]
    show decodeEngine .c word = _
    rw [decodeEngine, f1, f2, f3, f4, f5, f6]; rfl
  · intro hw word he hz
    have ⟨f0, f1, f2, f3, f4, f5, f6⟩ : fld word 29 3 = 4#3 ∧ fld word 24 5 = 26#5 ∧ fld word 12 4 = 2#4 ∧ fld word 6 6 = 0#6 ∧ fld word 20 4 = d ∧ fld word 16 4 = a ∧ fld word 0 6 = n := by
      cases he; simp (disch := decide) only [fld, fld_word, fld_low, fld_high, fld_all, Nat.reduceSub, BitVec.reduceExtractLsb', Eng.tag, BitVec.ofNat_eq_ofNat, and_self]
    refine of_form f0 (by decide) (by decide) hz hw ?_
    rw [decodeForm, f0, f1]
    show decodeEngine .f word = _
    rw [decodeEngine, f1, f2, f3, f4, f5, f6]; rfl
theorem gmuli (e : Eng) (d a : BitVec 4) (i : BitVec 12) : Statement (.gmuli e d a i) := by
  cases e
  · exact fun hw => absurd (show false = true from hw) (by decide)
  · intro hw word he hz
    have ⟨f0, f1, f2, f3, f4, f5⟩ : fld word 29 3 = 1#3 ∧ fld word 24 5 = 26#5 ∧ fld word 12 4 = 3#4 ∧ fld word 20 4 = d ∧ fld word 16 4 = a ∧ fld word 0 12 = i := by
      cases he; simp (disch := decide) only [fld, fld_word, fld_low, fld_high, fld_all, Nat.reduceSub, BitVec.reduceExtractLsb', Eng.tag, BitVec.ofNat_eq_ofNat, and_self]
    refine of_form f0 (by decide) (by decide) hz hw ?_
    rw [decodeForm, f0, f1]
    show decodeEngine .v word = _
    rw [decodeEngine, f1, f2, f3, f4, f5]; rfl
  · intro hw word he hz
    have ⟨f0, f1, f2, f3, f4, f5⟩ : fld word 29 3 = 2#3 ∧ fld word 24 5 = 26#5 ∧ fld word 12 4 = 3#4 ∧ fld word 20 4 = d ∧ fld word 16 4 = a ∧ fld word 0 12 = i := by
      cases he; simp (disch := decide) only [fld, fld_word, fld_low, fld_high, fld_all, Nat.reduceSub, BitVec.reduceExtractLsb', Eng.tag, BitVec.ofNat_eq_ofNat, and_self]
    refine of_form f0 (by decide) (by decide) hz hw ?_
    rw [decodeForm, f0, f1]
    show decodeEngine .m word = _
    rw [decodeEngine, f1, f2, f3, f4, f5]; rfl
  · intro hw word he hz
    have ⟨f0, f1, f2, f3, f4, f5⟩ : fld word 29 3 = 3#3 ∧ fld word 24 5 = 26#5 ∧ fld word 12 4 = 3#4 ∧ fld word 20 4 = d ∧ fld word 16 4 = a ∧ fld word 0 12 = i := by
      cases he; simp (disch := decide) only [fld, fld_word, fld_low, fld_high, fld_all, Nat.reduceSub, BitVec.reduceExtractLsb', Eng.tag, BitVec.ofNat_eq_ofNat, and_self]
    refine of_form f0 (by decide) (by decide) hz hw ?_
    rw [decodeForm, f0, f1]
    show decodeEngine .c word = _
    rw [decodeEngine, f1, f2, f3, f4, f5]; rfl
  · intro hw word he hz
    have ⟨f0, f1, f2, f3, f4, f5⟩ : fld word 29 3 = 4#3 ∧ fld word 24 5 = 26#5 ∧ fld word 12 4 = 3#4 ∧ fld word 20 4 = d ∧ fld word 16 4 = a ∧ fld word 0 12 = i := by
      cases he; simp (disch := decide) only [fld, fld_word, fld_low, fld_high, fld_all, Nat.reduceSub, BitVec.reduceExtractLsb', Eng.tag, BitVec.ofNat_eq_ofNat, and_self]
    refine of_form f0 (by decide) (by decide) hz hw ?_
    rw [decodeForm, f0, f1]
    show decodeEngine .f word = _
    rw [decodeEngine, f1, f2, f3, f4, f5]; rfl
theorem popg (e : Eng) (d : BitVec 4) : Statement (.popg e d) := by
  cases e
  · exact fun hw => absurd (show false = true from hw) (by decide)
  · intro hw word he hz
    have ⟨f0, f1, f2, f3, f4, f5⟩ : fld word 29 3 = 1#3 ∧ fld word 24 5 = 26#5 ∧ fld word 12 4 = 4#4 ∧ fld word 0 12 = 0#12 ∧ fld word 16 4 = 0#4 ∧ fld word 20 4 = d := by
      cases he; simp (disch := decide) only [fld, fld_word, fld_low, fld_high, fld_all, Nat.reduceSub, BitVec.reduceExtractLsb', Eng.tag, BitVec.ofNat_eq_ofNat, and_self]
    refine of_form f0 (by decide) (by decide) hz hw ?_
    rw [decodeForm, f0, f1]
    show decodeEngine .v word = _
    rw [decodeEngine, f1, f2, f3, f4, f5]; rfl
  · intro hw word he hz
    have ⟨f0, f1, f2, f3, f4, f5⟩ : fld word 29 3 = 2#3 ∧ fld word 24 5 = 26#5 ∧ fld word 12 4 = 4#4 ∧ fld word 0 12 = 0#12 ∧ fld word 16 4 = 0#4 ∧ fld word 20 4 = d := by
      cases he; simp (disch := decide) only [fld, fld_word, fld_low, fld_high, fld_all, Nat.reduceSub, BitVec.reduceExtractLsb', Eng.tag, BitVec.ofNat_eq_ofNat, and_self]
    refine of_form f0 (by decide) (by decide) hz hw ?_
    rw [decodeForm, f0, f1]
    show decodeEngine .m word = _
    rw [decodeEngine, f1, f2, f3, f4, f5]; rfl
  · intro hw word he hz
    have ⟨f0, f1, f2, f3, f4, f5⟩ : fld word 29 3 = 3#3 ∧ fld word 24 5 = 26#5 ∧ fld word 12 4 = 4#4 ∧ fld word 0 12 = 0#12 ∧ fld word 16 4 = 0#4 ∧ fld word 20 4 = d := by
      cases he; simp (disch := decide) only [fld, fld_word, fld_low, fld_high, fld_all, Nat.reduceSub, BitVec.reduceExtractLsb', Eng.tag, BitVec.ofNat_eq_ofNat, and_self]
    refine of_form f0 (by decide) (by decide) hz hw ?_
    rw [decodeForm, f0, f1]
    show decodeEngine .c word = _
    rw [decodeEngine, f1, f2, f3, f4, f5]; rfl
  · intro hw word he hz
    have ⟨f0, f1, f2, f3, f4, f5⟩ : fld word 29 3 = 4#3 ∧ fld word 24 5 = 26#5 ∧ fld word 12 4 = 4#4 ∧ fld word 0 12 = 0#12 ∧ fld word 16 4 = 0#4 ∧ fld word 20 4 = d := by
      cases he; simp (disch := decide) only [fld, fld_word, fld_low, fld_high, fld_all, Nat.reduceSub, BitVec.reduceExtractLsb', Eng.tag, BitVec.ofNat_eq_ofNat, and_self]
    refine of_form f0 (by decide) (by decide) hz hw ?_
    rw [decodeForm, f0, f1]
    show decodeEngine .f word = _
    rw [decodeEngine, f1, f2, f3, f4, f5]; rfl
theorem dupp (e : Eng) : Statement (.dupp e) := by
  cases e
  · exact fun hw => absurd (show false = true from hw) (by decide)
  · intro hw word he hz
    have ⟨f0, f1, f2, f3, f4⟩ : fld word 29 3 = 1#3 ∧ fld word 24 5 = 26#5 ∧ fld word 12 4 = 5#4 ∧ fld word 0 12 = 0#12 ∧ fld word 16 8 = 0#8 := by
      cases he; simp (disch := decide) only [fld, fld_word, fld_low, fld_high, fld_all, Nat.reduceSub, BitVec.reduceExtractLsb', Eng.tag, BitVec.ofNat_eq_ofNat, and_self]
    refine of_form f0 (by decide) (by decide) hz hw ?_
    rw [decodeForm, f0, f1]
    show decodeEngine .v word = _
    rw [decodeEngine, f1, f2, f3, f4]; rfl
  · intro hw word he hz
    have ⟨f0, f1, f2, f3, f4⟩ : fld word 29 3 = 2#3 ∧ fld word 24 5 = 26#5 ∧ fld word 12 4 = 5#4 ∧ fld word 0 12 = 0#12 ∧ fld word 16 8 = 0#8 := by
      cases he; simp (disch := decide) only [fld, fld_word, fld_low, fld_high, fld_all, Nat.reduceSub, BitVec.reduceExtractLsb', Eng.tag, BitVec.ofNat_eq_ofNat, and_self]
    refine of_form f0 (by decide) (by decide) hz hw ?_
    rw [decodeForm, f0, f1]
    show decodeEngine .m word = _
    rw [decodeEngine, f1, f2, f3, f4]; rfl
  · intro hw word he hz
    have ⟨f0, f1, f2, f3, f4⟩ : fld word 29 3 = 3#3 ∧ fld word 24 5 = 26#5 ∧ fld word 12 4 = 5#4 ∧ fld word 0 12 = 0#12 ∧ fld word 16 8 = 0#8 := by
      cases he; simp (disch := decide) only [fld, fld_word, fld_low, fld_high, fld_all, Nat.reduceSub, BitVec.reduceExtractLsb', Eng.tag, BitVec.ofNat_eq_ofNat, and_self]
    refine of_form f0 (by decide) (by decide) hz hw ?_
    rw [decodeForm, f0, f1]
    show decodeEngine .c word = _
    rw [decodeEngine, f1, f2, f3, f4]; rfl
  · intro hw word he hz
    have ⟨f0, f1, f2, f3, f4⟩ : fld word 29 3 = 4#3 ∧ fld word 24 5 = 26#5 ∧ fld word 12 4 = 5#4 ∧ fld word 0 12 = 0#12 ∧ fld word 16 8 = 0#8 := by
      cases he; simp (disch := decide) only [fld, fld_word, fld_low, fld_high, fld_all, Nat.reduceSub, BitVec.reduceExtractLsb', Eng.tag, BitVec.ofNat_eq_ofNat, and_self]
    refine of_form f0 (by decide) (by decide) hz hw ?_
    rw [decodeForm, f0, f1]
    show decodeEngine .f word = _
    rw [decodeEngine, f1, f2, f3, f4]; rfl
theorem dropp (e : Eng) : Statement (.dropp e) := by
  cases e
  · exact fun hw => absurd (show false = true from hw) (by decide)
  · intro hw word he hz
    have ⟨f0, f1, f2, f3, f4⟩ : fld word 29 3 = 1#3 ∧ fld word 24 5 = 26#5 ∧ fld word 12 4 = 6#4 ∧ fld word 0 12 = 0#12 ∧ fld word 16 8 = 0#8 := by
      cases he; simp (disch := decide) only [fld, fld_word, fld_low, fld_high, fld_all, Nat.reduceSub, BitVec.reduceExtractLsb', Eng.tag, BitVec.ofNat_eq_ofNat, and_self]
    refine of_form f0 (by decide) (by decide) hz hw ?_
    rw [decodeForm, f0, f1]
    show decodeEngine .v word = _
    rw [decodeEngine, f1, f2, f3, f4]; rfl
  · intro hw word he hz
    have ⟨f0, f1, f2, f3, f4⟩ : fld word 29 3 = 2#3 ∧ fld word 24 5 = 26#5 ∧ fld word 12 4 = 6#4 ∧ fld word 0 12 = 0#12 ∧ fld word 16 8 = 0#8 := by
      cases he; simp (disch := decide) only [fld, fld_word, fld_low, fld_high, fld_all, Nat.reduceSub, BitVec.reduceExtractLsb', Eng.tag, BitVec.ofNat_eq_ofNat, and_self]
    refine of_form f0 (by decide) (by decide) hz hw ?_
    rw [decodeForm, f0, f1]
    show decodeEngine .m word = _
    rw [decodeEngine, f1, f2, f3, f4]; rfl
  · intro hw word he hz
    have ⟨f0, f1, f2, f3, f4⟩ : fld word 29 3 = 3#3 ∧ fld word 24 5 = 26#5 ∧ fld word 12 4 = 6#4 ∧ fld word 0 12 = 0#12 ∧ fld word 16 8 = 0#8 := by
      cases he; simp (disch := decide) only [fld, fld_word, fld_low, fld_high, fld_all, Nat.reduceSub, BitVec.reduceExtractLsb', Eng.tag, BitVec.ofNat_eq_ofNat, and_self]
    refine of_form f0 (by decide) (by decide) hz hw ?_
    rw [decodeForm, f0, f1]
    show decodeEngine .c word = _
    rw [decodeEngine, f1, f2, f3, f4]; rfl
  · intro hw word he hz
    have ⟨f0, f1, f2, f3, f4⟩ : fld word 29 3 = 4#3 ∧ fld word 24 5 = 26#5 ∧ fld word 12 4 = 6#4 ∧ fld word 0 12 = 0#12 ∧ fld word 16 8 = 0#8 := by
      cases he; simp (disch := decide) only [fld, fld_word, fld_low, fld_high, fld_all, Nat.reduceSub, BitVec.reduceExtractLsb', Eng.tag, BitVec.ofNat_eq_ofNat, and_self]
    refine of_form f0 (by decide) (by decide) hz hw ?_
    rw [decodeForm, f0, f1]
    show decodeEngine .f word = _
    rw [decodeEngine, f1, f2, f3, f4]; rfl
theorem swapp (e : Eng) : Statement (.swapp e) := by
  cases e
  · exact fun hw => absurd (show false = true from hw) (by decide)
  · intro hw word he hz
    have ⟨f0, f1, f2, f3, f4⟩ : fld word 29 3 = 1#3 ∧ fld word 24 5 = 26#5 ∧ fld word 12 4 = 7#4 ∧ fld word 0 12 = 0#12 ∧ fld word 16 8 = 0#8 := by
      cases he; simp (disch := decide) only [fld, fld_word, fld_low, fld_high, fld_all, Nat.reduceSub, BitVec.reduceExtractLsb', Eng.tag, BitVec.ofNat_eq_ofNat, and_self]
    refine of_form f0 (by decide) (by decide) hz hw ?_
    rw [decodeForm, f0, f1]
    show decodeEngine .v word = _
    rw [decodeEngine, f1, f2, f3, f4]; rfl
  · intro hw word he hz
    have ⟨f0, f1, f2, f3, f4⟩ : fld word 29 3 = 2#3 ∧ fld word 24 5 = 26#5 ∧ fld word 12 4 = 7#4 ∧ fld word 0 12 = 0#12 ∧ fld word 16 8 = 0#8 := by
      cases he; simp (disch := decide) only [fld, fld_word, fld_low, fld_high, fld_all, Nat.reduceSub, BitVec.reduceExtractLsb', Eng.tag, BitVec.ofNat_eq_ofNat, and_self]
    refine of_form f0 (by decide) (by decide) hz hw ?_
    rw [decodeForm, f0, f1]
    show decodeEngine .m word = _
    rw [decodeEngine, f1, f2, f3, f4]; rfl
  · intro hw word he hz
    have ⟨f0, f1, f2, f3, f4⟩ : fld word 29 3 = 3#3 ∧ fld word 24 5 = 26#5 ∧ fld word 12 4 = 7#4 ∧ fld word 0 12 = 0#12 ∧ fld word 16 8 = 0#8 := by
      cases he; simp (disch := decide) only [fld, fld_word, fld_low, fld_high, fld_all, Nat.reduceSub, BitVec.reduceExtractLsb', Eng.tag, BitVec.ofNat_eq_ofNat, and_self]
    refine of_form f0 (by decide) (by decide) hz hw ?_
    rw [decodeForm, f0, f1]
    show decodeEngine .c word = _
    rw [decodeEngine, f1, f2, f3, f4]; rfl
  · intro hw word he hz
    have ⟨f0, f1, f2, f3, f4⟩ : fld word 29 3 = 4#3 ∧ fld word 24 5 = 26#5 ∧ fld word 12 4 = 7#4 ∧ fld word 0 12 = 0#12 ∧ fld word 16 8 = 0#8 := by
      cases he; simp (disch := decide) only [fld, fld_word, fld_low, fld_high, fld_all, Nat.reduceSub, BitVec.reduceExtractLsb', Eng.tag, BitVec.ofNat_eq_ofNat, and_self]
    refine of_form f0 (by decide) (by decide) hz hw ?_
    rw [decodeForm, f0, f1]
    show decodeEngine .f word = _
    rw [decodeEngine, f1, f2, f3, f4]; rfl
theorem gmovi (e : Eng) (d : BitVec 4) (i : BitVec 12) : Statement (.gmovi e d i) := by
  cases e
  · exact fun hw => absurd (show false = true from hw) (by decide)
  · intro hw word he hz
    have ⟨f0, f1, f2, f3, f4, f5⟩ : fld word 29 3 = 1#3 ∧ fld word 24 5 = 26#5 ∧ fld word 12 4 = 8#4 ∧ fld word 16 4 = 0#4 ∧ fld word 20 4 = d ∧ fld word 0 12 = i := by
      cases he; simp (disch := decide) only [fld, fld_word, fld_low, fld_high, fld_all, Nat.reduceSub, BitVec.reduceExtractLsb', Eng.tag, BitVec.ofNat_eq_ofNat, and_self]
    refine of_form f0 (by decide) (by decide) hz hw ?_
    rw [decodeForm, f0, f1]
    show decodeEngine .v word = _
    rw [decodeEngine, f1, f2, f3, f4, f5]; rfl
  · intro hw word he hz
    have ⟨f0, f1, f2, f3, f4, f5⟩ : fld word 29 3 = 2#3 ∧ fld word 24 5 = 26#5 ∧ fld word 12 4 = 8#4 ∧ fld word 16 4 = 0#4 ∧ fld word 20 4 = d ∧ fld word 0 12 = i := by
      cases he; simp (disch := decide) only [fld, fld_word, fld_low, fld_high, fld_all, Nat.reduceSub, BitVec.reduceExtractLsb', Eng.tag, BitVec.ofNat_eq_ofNat, and_self]
    refine of_form f0 (by decide) (by decide) hz hw ?_
    rw [decodeForm, f0, f1]
    show decodeEngine .m word = _
    rw [decodeEngine, f1, f2, f3, f4, f5]; rfl
  · intro hw word he hz
    have ⟨f0, f1, f2, f3, f4, f5⟩ : fld word 29 3 = 3#3 ∧ fld word 24 5 = 26#5 ∧ fld word 12 4 = 8#4 ∧ fld word 16 4 = 0#4 ∧ fld word 20 4 = d ∧ fld word 0 12 = i := by
      cases he; simp (disch := decide) only [fld, fld_word, fld_low, fld_high, fld_all, Nat.reduceSub, BitVec.reduceExtractLsb', Eng.tag, BitVec.ofNat_eq_ofNat, and_self]
    refine of_form f0 (by decide) (by decide) hz hw ?_
    rw [decodeForm, f0, f1]
    show decodeEngine .c word = _
    rw [decodeEngine, f1, f2, f3, f4, f5]; rfl
  · intro hw word he hz
    have ⟨f0, f1, f2, f3, f4, f5⟩ : fld word 29 3 = 4#3 ∧ fld word 24 5 = 26#5 ∧ fld word 12 4 = 8#4 ∧ fld word 16 4 = 0#4 ∧ fld word 20 4 = d ∧ fld word 0 12 = i := by
      cases he; simp (disch := decide) only [fld, fld_word, fld_low, fld_high, fld_all, Nat.reduceSub, BitVec.reduceExtractLsb', Eng.tag, BitVec.ofNat_eq_ofNat, and_self]
    refine of_form f0 (by decide) (by decide) hz hw ?_
    rw [decodeForm, f0, f1]
    show decodeEngine .f word = _
    rw [decodeEngine, f1, f2, f3, f4, f5]; rfl
theorem gld (e : Eng) (g b c : BitVec 4) (o : BitVec 11) : Statement (.gld e g b c o) := by
  cases e
  · exact fun hw => absurd (show false = true from hw) (by decide)
  · intro hw word he hz
    have ⟨f0, f1, f2, f3, f4, f5, f6⟩ : fld word 29 3 = 1#3 ∧ fld word 24 5 = 27#5 ∧ fld word 15 1 = 0#1 ∧ fld word 20 4 = g ∧ fld word 16 4 = b ∧ fld word 11 4 = c ∧ fld word 0 11 = o := by
      cases he; simp (disch := decide) only [fld, fld_word, fld_low, fld_high, fld_all, Nat.reduceSub, BitVec.reduceExtractLsb', Eng.tag, BitVec.ofNat_eq_ofNat, and_self]
    refine of_form f0 (by decide) (by decide) hz hw ?_
    rw [decodeForm, f0, f1]
    show decodeEngine .v word = _
    rw [decodeEngine, f1, f2, f3, f4, f5, f6]; rfl
  · intro hw word he hz
    have ⟨f0, f1, f2, f3, f4, f5, f6⟩ : fld word 29 3 = 2#3 ∧ fld word 24 5 = 27#5 ∧ fld word 15 1 = 0#1 ∧ fld word 20 4 = g ∧ fld word 16 4 = b ∧ fld word 11 4 = c ∧ fld word 0 11 = o := by
      cases he; simp (disch := decide) only [fld, fld_word, fld_low, fld_high, fld_all, Nat.reduceSub, BitVec.reduceExtractLsb', Eng.tag, BitVec.ofNat_eq_ofNat, and_self]
    refine of_form f0 (by decide) (by decide) hz hw ?_
    rw [decodeForm, f0, f1]
    show decodeEngine .m word = _
    rw [decodeEngine, f1, f2, f3, f4, f5, f6]; rfl
  · intro hw word he hz
    have ⟨f0, f1, f2, f3, f4, f5, f6⟩ : fld word 29 3 = 3#3 ∧ fld word 24 5 = 27#5 ∧ fld word 15 1 = 0#1 ∧ fld word 20 4 = g ∧ fld word 16 4 = b ∧ fld word 11 4 = c ∧ fld word 0 11 = o := by
      cases he; simp (disch := decide) only [fld, fld_word, fld_low, fld_high, fld_all, Nat.reduceSub, BitVec.reduceExtractLsb', Eng.tag, BitVec.ofNat_eq_ofNat, and_self]
    refine of_form f0 (by decide) (by decide) hz hw ?_
    rw [decodeForm, f0, f1]
    show decodeEngine .c word = _
    rw [decodeEngine, f1, f2, f3, f4, f5, f6]; rfl
  · intro hw word he hz
    have ⟨f0, f1, f2, f3, f4, f5, f6⟩ : fld word 29 3 = 4#3 ∧ fld word 24 5 = 27#5 ∧ fld word 15 1 = 0#1 ∧ fld word 20 4 = g ∧ fld word 16 4 = b ∧ fld word 11 4 = c ∧ fld word 0 11 = o := by
      cases he; simp (disch := decide) only [fld, fld_word, fld_low, fld_high, fld_all, Nat.reduceSub, BitVec.reduceExtractLsb', Eng.tag, BitVec.ofNat_eq_ofNat, and_self]
    refine of_form f0 (by decide) (by decide) hz hw ?_
    rw [decodeForm, f0, f1]
    show decodeEngine .f word = _
    rw [decodeEngine, f1, f2, f3, f4, f5, f6]; rfl
theorem gst (e : Eng) (g b c : BitVec 4) (o : BitVec 11) : Statement (.gst e g b c o) := by
  cases e
  · exact fun hw => absurd (show false = true from hw) (by decide)
  · intro hw word he hz
    have ⟨f0, f1, f2, f3, f4, f5, f6⟩ : fld word 29 3 = 1#3 ∧ fld word 24 5 = 27#5 ∧ fld word 15 1 = 1#1 ∧ fld word 20 4 = g ∧ fld word 16 4 = b ∧ fld word 11 4 = c ∧ fld word 0 11 = o := by
      cases he; simp (disch := decide) only [fld, fld_word, fld_low, fld_high, fld_all, Nat.reduceSub, BitVec.reduceExtractLsb', Eng.tag, BitVec.ofNat_eq_ofNat, and_self]
    refine of_form f0 (by decide) (by decide) hz hw ?_
    rw [decodeForm, f0, f1]
    show decodeEngine .v word = _
    rw [decodeEngine, f1, f2, f3, f4, f5, f6]; rfl
  · intro hw word he hz
    have ⟨f0, f1, f2, f3, f4, f5, f6⟩ : fld word 29 3 = 2#3 ∧ fld word 24 5 = 27#5 ∧ fld word 15 1 = 1#1 ∧ fld word 20 4 = g ∧ fld word 16 4 = b ∧ fld word 11 4 = c ∧ fld word 0 11 = o := by
      cases he; simp (disch := decide) only [fld, fld_word, fld_low, fld_high, fld_all, Nat.reduceSub, BitVec.reduceExtractLsb', Eng.tag, BitVec.ofNat_eq_ofNat, and_self]
    refine of_form f0 (by decide) (by decide) hz hw ?_
    rw [decodeForm, f0, f1]
    show decodeEngine .m word = _
    rw [decodeEngine, f1, f2, f3, f4, f5, f6]; rfl
  · intro hw word he hz
    have ⟨f0, f1, f2, f3, f4, f5, f6⟩ : fld word 29 3 = 3#3 ∧ fld word 24 5 = 27#5 ∧ fld word 15 1 = 1#1 ∧ fld word 20 4 = g ∧ fld word 16 4 = b ∧ fld word 11 4 = c ∧ fld word 0 11 = o := by
      cases he; simp (disch := decide) only [fld, fld_word, fld_low, fld_high, fld_all, Nat.reduceSub, BitVec.reduceExtractLsb', Eng.tag, BitVec.ofNat_eq_ofNat, and_self]
    refine of_form f0 (by decide) (by decide) hz hw ?_
    rw [decodeForm, f0, f1]
    show decodeEngine .c word = _
    rw [decodeEngine, f1, f2, f3, f4, f5, f6]; rfl
  · intro hw word he hz
    have ⟨f0, f1, f2, f3, f4, f5, f6⟩ : fld word 29 3 = 4#3 ∧ fld word 24 5 = 27#5 ∧ fld word 15 1 = 1#1 ∧ fld word 20 4 = g ∧ fld word 16 4 = b ∧ fld word 11 4 = c ∧ fld word 0 11 = o := by
      cases he; simp (disch := decide) only [fld, fld_word, fld_low, fld_high, fld_all, Nat.reduceSub, BitVec.reduceExtractLsb', Eng.tag, BitVec.ofNat_eq_ofNat, and_self]
    refine of_form f0 (by decide) (by decide) hz hw ?_
    rw [decodeForm, f0, f1]
    show decodeEngine .f word = _
    rw [decodeEngine, f1, f2, f3, f4, f5, f6]; rfl
theorem epost (e : Eng) (v : BitVec 6) : Statement (.epost e v) := by
  cases e
  · exact fun hw => absurd (show false = true from hw) (by decide)
  · intro hw word he hz
    have ⟨f0, f1, f2, f3, f4, f5⟩ : fld word 29 3 = 1#3 ∧ fld word 24 5 = 28#5 ∧ fld word 12 2 = 0#2 ∧ fld word 0 12 = 0#12 ∧ fld word 14 4 = 0#4 ∧ fld word 18 6 = v := by
      cases he; simp (disch := decide) only [fld, fld_word, fld_low, fld_high, fld_all, Nat.reduceSub, BitVec.reduceExtractLsb', Eng.tag, BitVec.ofNat_eq_ofNat, and_self]
    refine of_form f0 (by decide) (by decide) hz hw ?_
    rw [decodeForm, f0, f1]
    show decodeEngine .v word = _
    rw [decodeEngine, f1, f2, f3, f4, f5]; rfl
  · intro hw word he hz
    have ⟨f0, f1, f2, f3, f4, f5⟩ : fld word 29 3 = 2#3 ∧ fld word 24 5 = 28#5 ∧ fld word 12 2 = 0#2 ∧ fld word 0 12 = 0#12 ∧ fld word 14 4 = 0#4 ∧ fld word 18 6 = v := by
      cases he; simp (disch := decide) only [fld, fld_word, fld_low, fld_high, fld_all, Nat.reduceSub, BitVec.reduceExtractLsb', Eng.tag, BitVec.ofNat_eq_ofNat, and_self]
    refine of_form f0 (by decide) (by decide) hz hw ?_
    rw [decodeForm, f0, f1]
    show decodeEngine .m word = _
    rw [decodeEngine, f1, f2, f3, f4, f5]; rfl
  · intro hw word he hz
    have ⟨f0, f1, f2, f3, f4, f5⟩ : fld word 29 3 = 3#3 ∧ fld word 24 5 = 28#5 ∧ fld word 12 2 = 0#2 ∧ fld word 0 12 = 0#12 ∧ fld word 14 4 = 0#4 ∧ fld word 18 6 = v := by
      cases he; simp (disch := decide) only [fld, fld_word, fld_low, fld_high, fld_all, Nat.reduceSub, BitVec.reduceExtractLsb', Eng.tag, BitVec.ofNat_eq_ofNat, and_self]
    refine of_form f0 (by decide) (by decide) hz hw ?_
    rw [decodeForm, f0, f1]
    show decodeEngine .c word = _
    rw [decodeEngine, f1, f2, f3, f4, f5]; rfl
  · intro hw word he hz
    have ⟨f0, f1, f2, f3, f4, f5⟩ : fld word 29 3 = 4#3 ∧ fld word 24 5 = 28#5 ∧ fld word 12 2 = 0#2 ∧ fld word 0 12 = 0#12 ∧ fld word 14 4 = 0#4 ∧ fld word 18 6 = v := by
      cases he; simp (disch := decide) only [fld, fld_word, fld_low, fld_high, fld_all, Nat.reduceSub, BitVec.reduceExtractLsb', Eng.tag, BitVec.ofNat_eq_ofNat, and_self]
    refine of_form f0 (by decide) (by decide) hz hw ?_
    rw [decodeForm, f0, f1]
    show decodeEngine .f word = _
    rw [decodeEngine, f1, f2, f3, f4, f5]; rfl
theorem epostv (e : Eng) (v : BitVec 6) (g : BitVec 4) : Statement (.epostv e v g) := by
  cases e
  · exact fun hw => absurd (show false = true from hw) (by decide)
  · intro hw word he hz
    have ⟨f0, f1, f2, f3, f4, f5⟩ : fld word 29 3 = 1#3 ∧ fld word 24 5 = 28#5 ∧ fld word 12 2 = 1#2 ∧ fld word 0 12 = 0#12 ∧ fld word 18 6 = v ∧ fld word 14 4 = g := by
      cases he; simp (disch := decide) only [fld, fld_word, fld_low, fld_high, fld_all, Nat.reduceSub, BitVec.reduceExtractLsb', Eng.tag, BitVec.ofNat_eq_ofNat, and_self]
    refine of_form f0 (by decide) (by decide) hz hw ?_
    rw [decodeForm, f0, f1]
    show decodeEngine .v word = _
    rw [decodeEngine, f1, f2, f3, f4, f5]; rfl
  · intro hw word he hz
    have ⟨f0, f1, f2, f3, f4, f5⟩ : fld word 29 3 = 2#3 ∧ fld word 24 5 = 28#5 ∧ fld word 12 2 = 1#2 ∧ fld word 0 12 = 0#12 ∧ fld word 18 6 = v ∧ fld word 14 4 = g := by
      cases he; simp (disch := decide) only [fld, fld_word, fld_low, fld_high, fld_all, Nat.reduceSub, BitVec.reduceExtractLsb', Eng.tag, BitVec.ofNat_eq_ofNat, and_self]
    refine of_form f0 (by decide) (by decide) hz hw ?_
    rw [decodeForm, f0, f1]
    show decodeEngine .m word = _
    rw [decodeEngine, f1, f2, f3, f4, f5]; rfl
  · intro hw word he hz
    have ⟨f0, f1, f2, f3, f4, f5⟩ : fld word 29 3 = 3#3 ∧ fld word 24 5 = 28#5 ∧ fld word 12 2 = 1#2 ∧ fld word 0 12 = 0#12 ∧ fld word 18 6 = v ∧ fld word 14 4 = g := by
      cases he; simp (disch := decide) only [fld, fld_word, fld_low, fld_high, fld_all, Nat.reduceSub, BitVec.reduceExtractLsb', Eng.tag, BitVec.ofNat_eq_ofNat, and_self]
    refine of_form f0 (by decide) (by decide) hz hw ?_
    rw [decodeForm, f0, f1]
    show decodeEngine .c word = _
    rw [decodeEngine, f1, f2, f3, f4, f5]; rfl
  · intro hw word he hz
    have ⟨f0, f1, f2, f3, f4, f5⟩ : fld word 29 3 = 4#3 ∧ fld word 24 5 = 28#5 ∧ fld word 12 2 = 1#2 ∧ fld word 0 12 = 0#12 ∧ fld word 18 6 = v ∧ fld word 14 4 = g := by
      cases he; simp (disch := decide) only [fld, fld_word, fld_low, fld_high, fld_all, Nat.reduceSub, BitVec.reduceExtractLsb', Eng.tag, BitVec.ofNat_eq_ofNat, and_self]
    refine of_form f0 (by decide) (by decide) hz hw ?_
    rw [decodeForm, f0, f1]
    show decodeEngine .f word = _
    rw [decodeEngine, f1, f2, f3, f4, f5]; rfl
theorem ewait (e : Eng) (v : BitVec 6) : Statement (.ewait e v) := by
  cases e
  · exact fun hw => absurd (show false = true from hw) (by decide)
  · intro hw word he hz
    have ⟨f0, f1, f2, f3, f4, f5⟩ : fld word 29 3 = 1#3 ∧ fld word 24 5 = 28#5 ∧ fld word 12 2 = 2#2 ∧ fld word 0 12 = 0#12 ∧ fld word 14 4 = 0#4 ∧ fld word 18 6 = v := by
      cases he; simp (disch := decide) only [fld, fld_word, fld_low, fld_high, fld_all, Nat.reduceSub, BitVec.reduceExtractLsb', Eng.tag, BitVec.ofNat_eq_ofNat, and_self]
    refine of_form f0 (by decide) (by decide) hz hw ?_
    rw [decodeForm, f0, f1]
    show decodeEngine .v word = _
    rw [decodeEngine, f1, f2, f3, f4, f5]; rfl
  · intro hw word he hz
    have ⟨f0, f1, f2, f3, f4, f5⟩ : fld word 29 3 = 2#3 ∧ fld word 24 5 = 28#5 ∧ fld word 12 2 = 2#2 ∧ fld word 0 12 = 0#12 ∧ fld word 14 4 = 0#4 ∧ fld word 18 6 = v := by
      cases he; simp (disch := decide) only [fld, fld_word, fld_low, fld_high, fld_all, Nat.reduceSub, BitVec.reduceExtractLsb', Eng.tag, BitVec.ofNat_eq_ofNat, and_self]
    refine of_form f0 (by decide) (by decide) hz hw ?_
    rw [decodeForm, f0, f1]
    show decodeEngine .m word = _
    rw [decodeEngine, f1, f2, f3, f4, f5]; rfl
  · intro hw word he hz
    have ⟨f0, f1, f2, f3, f4, f5⟩ : fld word 29 3 = 3#3 ∧ fld word 24 5 = 28#5 ∧ fld word 12 2 = 2#2 ∧ fld word 0 12 = 0#12 ∧ fld word 14 4 = 0#4 ∧ fld word 18 6 = v := by
      cases he; simp (disch := decide) only [fld, fld_word, fld_low, fld_high, fld_all, Nat.reduceSub, BitVec.reduceExtractLsb', Eng.tag, BitVec.ofNat_eq_ofNat, and_self]
    refine of_form f0 (by decide) (by decide) hz hw ?_
    rw [decodeForm, f0, f1]
    show decodeEngine .c word = _
    rw [decodeEngine, f1, f2, f3, f4, f5]; rfl
  · intro hw word he hz
    have ⟨f0, f1, f2, f3, f4, f5⟩ : fld word 29 3 = 4#3 ∧ fld word 24 5 = 28#5 ∧ fld word 12 2 = 2#2 ∧ fld word 0 12 = 0#12 ∧ fld word 14 4 = 0#4 ∧ fld word 18 6 = v := by
      cases he; simp (disch := decide) only [fld, fld_word, fld_low, fld_high, fld_all, Nat.reduceSub, BitVec.reduceExtractLsb', Eng.tag, BitVec.ofNat_eq_ofNat, and_self]
    refine of_form f0 (by decide) (by decide) hz hw ?_
    rw [decodeForm, f0, f1]
    show decodeEngine .f word = _
    rw [decodeEngine, f1, f2, f3, f4, f5]; rfl
theorem ewaitv (e : Eng) (v : BitVec 6) (g : BitVec 4) : Statement (.ewaitv e v g) := by
  cases e
  · exact fun hw => absurd (show false = true from hw) (by decide)
  · intro hw word he hz
    have ⟨f0, f1, f2, f3, f4, f5⟩ : fld word 29 3 = 1#3 ∧ fld word 24 5 = 28#5 ∧ fld word 12 2 = 3#2 ∧ fld word 0 12 = 0#12 ∧ fld word 18 6 = v ∧ fld word 14 4 = g := by
      cases he; simp (disch := decide) only [fld, fld_word, fld_low, fld_high, fld_all, Nat.reduceSub, BitVec.reduceExtractLsb', Eng.tag, BitVec.ofNat_eq_ofNat, and_self]
    refine of_form f0 (by decide) (by decide) hz hw ?_
    rw [decodeForm, f0, f1]
    show decodeEngine .v word = _
    rw [decodeEngine, f1, f2, f3, f4, f5]; rfl
  · intro hw word he hz
    have ⟨f0, f1, f2, f3, f4, f5⟩ : fld word 29 3 = 2#3 ∧ fld word 24 5 = 28#5 ∧ fld word 12 2 = 3#2 ∧ fld word 0 12 = 0#12 ∧ fld word 18 6 = v ∧ fld word 14 4 = g := by
      cases he; simp (disch := decide) only [fld, fld_word, fld_low, fld_high, fld_all, Nat.reduceSub, BitVec.reduceExtractLsb', Eng.tag, BitVec.ofNat_eq_ofNat, and_self]
    refine of_form f0 (by decide) (by decide) hz hw ?_
    rw [decodeForm, f0, f1]
    show decodeEngine .m word = _
    rw [decodeEngine, f1, f2, f3, f4, f5]; rfl
  · intro hw word he hz
    have ⟨f0, f1, f2, f3, f4, f5⟩ : fld word 29 3 = 3#3 ∧ fld word 24 5 = 28#5 ∧ fld word 12 2 = 3#2 ∧ fld word 0 12 = 0#12 ∧ fld word 18 6 = v ∧ fld word 14 4 = g := by
      cases he; simp (disch := decide) only [fld, fld_word, fld_low, fld_high, fld_all, Nat.reduceSub, BitVec.reduceExtractLsb', Eng.tag, BitVec.ofNat_eq_ofNat, and_self]
    refine of_form f0 (by decide) (by decide) hz hw ?_
    rw [decodeForm, f0, f1]
    show decodeEngine .c word = _
    rw [decodeEngine, f1, f2, f3, f4, f5]; rfl
  · intro hw word he hz
    have ⟨f0, f1, f2, f3, f4, f5⟩ : fld word 29 3 = 4#3 ∧ fld word 24 5 = 28#5 ∧ fld word 12 2 = 3#2 ∧ fld word 0 12 = 0#12 ∧ fld word 18 6 = v ∧ fld word 14 4 = g := by
      cases he; simp (disch := decide) only [fld, fld_word, fld_low, fld_high, fld_all, Nat.reduceSub, BitVec.reduceExtractLsb', Eng.tag, BitVec.ofNat_eq_ofNat, and_self]
    refine of_form f0 (by decide) (by decide) hz hw ?_
    rw [decodeForm, f0, f1]
    show decodeEngine .f word = _
    rw [decodeEngine, f1, f2, f3, f4, f5]; rfl
theorem ejmp (e : Eng) (o : BitVec 18) : Statement (.ejmp e o) := by
  cases e
  · exact fun hw => absurd (show false = true from hw) (by decide)
  · intro hw word he hz
    have ⟨f0, f1, f2, f3, f4⟩ : fld word 29 3 = 1#3 ∧ fld word 24 5 = 29#5 ∧ fld word 18 2 = 0#2 ∧ fld word 20 4 = 0#4 ∧ fld word 0 18 = o := by
      cases he; simp (disch := decide) only [fld, fld_word, fld_low, fld_high, fld_all, Nat.reduceSub, BitVec.reduceExtractLsb', Eng.tag, BitVec.ofNat_eq_ofNat, and_self]
    refine of_form f0 (by decide) (by decide) hz hw ?_
    rw [decodeForm, f0, f1]
    show decodeEngine .v word = _
    rw [decodeEngine, f1, f2, f3, f4]; rfl
  · intro hw word he hz
    have ⟨f0, f1, f2, f3, f4⟩ : fld word 29 3 = 2#3 ∧ fld word 24 5 = 29#5 ∧ fld word 18 2 = 0#2 ∧ fld word 20 4 = 0#4 ∧ fld word 0 18 = o := by
      cases he; simp (disch := decide) only [fld, fld_word, fld_low, fld_high, fld_all, Nat.reduceSub, BitVec.reduceExtractLsb', Eng.tag, BitVec.ofNat_eq_ofNat, and_self]
    refine of_form f0 (by decide) (by decide) hz hw ?_
    rw [decodeForm, f0, f1]
    show decodeEngine .m word = _
    rw [decodeEngine, f1, f2, f3, f4]; rfl
  · intro hw word he hz
    have ⟨f0, f1, f2, f3, f4⟩ : fld word 29 3 = 3#3 ∧ fld word 24 5 = 29#5 ∧ fld word 18 2 = 0#2 ∧ fld word 20 4 = 0#4 ∧ fld word 0 18 = o := by
      cases he; simp (disch := decide) only [fld, fld_word, fld_low, fld_high, fld_all, Nat.reduceSub, BitVec.reduceExtractLsb', Eng.tag, BitVec.ofNat_eq_ofNat, and_self]
    refine of_form f0 (by decide) (by decide) hz hw ?_
    rw [decodeForm, f0, f1]
    show decodeEngine .c word = _
    rw [decodeEngine, f1, f2, f3, f4]; rfl
  · intro hw word he hz
    have ⟨f0, f1, f2, f3, f4⟩ : fld word 29 3 = 4#3 ∧ fld word 24 5 = 29#5 ∧ fld word 18 2 = 0#2 ∧ fld word 20 4 = 0#4 ∧ fld word 0 18 = o := by
      cases he; simp (disch := decide) only [fld, fld_word, fld_low, fld_high, fld_all, Nat.reduceSub, BitVec.reduceExtractLsb', Eng.tag, BitVec.ofNat_eq_ofNat, and_self]
    refine of_form f0 (by decide) (by decide) hz hw ?_
    rw [decodeForm, f0, f1]
    show decodeEngine .f word = _
    rw [decodeEngine, f1, f2, f3, f4]; rfl
theorem edbnz (e : Eng) (g : BitVec 4) (o : BitVec 18) : Statement (.edbnz e g o) := by
  cases e
  · exact fun hw => absurd (show false = true from hw) (by decide)
  · intro hw word he hz
    have ⟨f0, f1, f2, f3, f4⟩ : fld word 29 3 = 1#3 ∧ fld word 24 5 = 29#5 ∧ fld word 18 2 = 1#2 ∧ fld word 20 4 = g ∧ fld word 0 18 = o := by
      cases he; simp (disch := decide) only [fld, fld_word, fld_low, fld_high, fld_all, Nat.reduceSub, BitVec.reduceExtractLsb', Eng.tag, BitVec.ofNat_eq_ofNat, and_self]
    refine of_form f0 (by decide) (by decide) hz hw ?_
    rw [decodeForm, f0, f1]
    show decodeEngine .v word = _
    rw [decodeEngine, f1, f2, f3, f4]; rfl
  · intro hw word he hz
    have ⟨f0, f1, f2, f3, f4⟩ : fld word 29 3 = 2#3 ∧ fld word 24 5 = 29#5 ∧ fld word 18 2 = 1#2 ∧ fld word 20 4 = g ∧ fld word 0 18 = o := by
      cases he; simp (disch := decide) only [fld, fld_word, fld_low, fld_high, fld_all, Nat.reduceSub, BitVec.reduceExtractLsb', Eng.tag, BitVec.ofNat_eq_ofNat, and_self]
    refine of_form f0 (by decide) (by decide) hz hw ?_
    rw [decodeForm, f0, f1]
    show decodeEngine .m word = _
    rw [decodeEngine, f1, f2, f3, f4]; rfl
  · intro hw word he hz
    have ⟨f0, f1, f2, f3, f4⟩ : fld word 29 3 = 3#3 ∧ fld word 24 5 = 29#5 ∧ fld word 18 2 = 1#2 ∧ fld word 20 4 = g ∧ fld word 0 18 = o := by
      cases he; simp (disch := decide) only [fld, fld_word, fld_low, fld_high, fld_all, Nat.reduceSub, BitVec.reduceExtractLsb', Eng.tag, BitVec.ofNat_eq_ofNat, and_self]
    refine of_form f0 (by decide) (by decide) hz hw ?_
    rw [decodeForm, f0, f1]
    show decodeEngine .c word = _
    rw [decodeEngine, f1, f2, f3, f4]; rfl
  · intro hw word he hz
    have ⟨f0, f1, f2, f3, f4⟩ : fld word 29 3 = 4#3 ∧ fld word 24 5 = 29#5 ∧ fld word 18 2 = 1#2 ∧ fld word 20 4 = g ∧ fld word 0 18 = o := by
      cases he; simp (disch := decide) only [fld, fld_word, fld_low, fld_high, fld_all, Nat.reduceSub, BitVec.reduceExtractLsb', Eng.tag, BitVec.ofNat_eq_ofNat, and_self]
    refine of_form f0 (by decide) (by decide) hz hw ?_
    rw [decodeForm, f0, f1]
    show decodeEngine .f word = _
    rw [decodeEngine, f1, f2, f3, f4]; rfl
theorem ebz (e : Eng) (g : BitVec 4) (o : BitVec 18) : Statement (.ebz e g o) := by
  cases e
  · exact fun hw => absurd (show false = true from hw) (by decide)
  · intro hw word he hz
    have ⟨f0, f1, f2, f3, f4⟩ : fld word 29 3 = 1#3 ∧ fld word 24 5 = 29#5 ∧ fld word 18 2 = 2#2 ∧ fld word 20 4 = g ∧ fld word 0 18 = o := by
      cases he; simp (disch := decide) only [fld, fld_word, fld_low, fld_high, fld_all, Nat.reduceSub, BitVec.reduceExtractLsb', Eng.tag, BitVec.ofNat_eq_ofNat, and_self]
    refine of_form f0 (by decide) (by decide) hz hw ?_
    rw [decodeForm, f0, f1]
    show decodeEngine .v word = _
    rw [decodeEngine, f1, f2, f3, f4]; rfl
  · intro hw word he hz
    have ⟨f0, f1, f2, f3, f4⟩ : fld word 29 3 = 2#3 ∧ fld word 24 5 = 29#5 ∧ fld word 18 2 = 2#2 ∧ fld word 20 4 = g ∧ fld word 0 18 = o := by
      cases he; simp (disch := decide) only [fld, fld_word, fld_low, fld_high, fld_all, Nat.reduceSub, BitVec.reduceExtractLsb', Eng.tag, BitVec.ofNat_eq_ofNat, and_self]
    refine of_form f0 (by decide) (by decide) hz hw ?_
    rw [decodeForm, f0, f1]
    show decodeEngine .m word = _
    rw [decodeEngine, f1, f2, f3, f4]; rfl
  · intro hw word he hz
    have ⟨f0, f1, f2, f3, f4⟩ : fld word 29 3 = 3#3 ∧ fld word 24 5 = 29#5 ∧ fld word 18 2 = 2#2 ∧ fld word 20 4 = g ∧ fld word 0 18 = o := by
      cases he; simp (disch := decide) only [fld, fld_word, fld_low, fld_high, fld_all, Nat.reduceSub, BitVec.reduceExtractLsb', Eng.tag, BitVec.ofNat_eq_ofNat, and_self]
    refine of_form f0 (by decide) (by decide) hz hw ?_
    rw [decodeForm, f0, f1]
    show decodeEngine .c word = _
    rw [decodeEngine, f1, f2, f3, f4]; rfl
  · intro hw word he hz
    have ⟨f0, f1, f2, f3, f4⟩ : fld word 29 3 = 4#3 ∧ fld word 24 5 = 29#5 ∧ fld word 18 2 = 2#2 ∧ fld word 20 4 = g ∧ fld word 0 18 = o := by
      cases he; simp (disch := decide) only [fld, fld_word, fld_low, fld_high, fld_all, Nat.reduceSub, BitVec.reduceExtractLsb', Eng.tag, BitVec.ofNat_eq_ofNat, and_self]
    refine of_form f0 (by decide) (by decide) hz hw ?_
    rw [decodeForm, f0, f1]
    show decodeEngine .f word = _
    rw [decodeEngine, f1, f2, f3, f4]; rfl
theorem ebnz (e : Eng) (g : BitVec 4) (o : BitVec 18) : Statement (.ebnz e g o) := by
  cases e
  · exact fun hw => absurd (show false = true from hw) (by decide)
  · intro hw word he hz
    have ⟨f0, f1, f2, f3, f4⟩ : fld word 29 3 = 1#3 ∧ fld word 24 5 = 29#5 ∧ fld word 18 2 = 3#2 ∧ fld word 20 4 = g ∧ fld word 0 18 = o := by
      cases he; simp (disch := decide) only [fld, fld_word, fld_low, fld_high, fld_all, Nat.reduceSub, BitVec.reduceExtractLsb', Eng.tag, BitVec.ofNat_eq_ofNat, and_self]
    refine of_form f0 (by decide) (by decide) hz hw ?_
    rw [decodeForm, f0, f1]
    show decodeEngine .v word = _
    rw [decodeEngine, f1, f2, f3, f4]; rfl
  · intro hw word he hz
    have ⟨f0, f1, f2, f3, f4⟩ : fld word 29 3 = 2#3 ∧ fld word 24 5 = 29#5 ∧ fld word 18 2 = 3#2 ∧ fld word 20 4 = g ∧ fld word 0 18 = o := by
      cases he; simp (disch := decide) only [fld, fld_word, fld_low, fld_high, fld_all, Nat.reduceSub, BitVec.reduceExtractLsb', Eng.tag, BitVec.ofNat_eq_ofNat, and_self]
    refine of_form f0 (by decide) (by decide) hz hw ?_
    rw [decodeForm, f0, f1]
    show decodeEngine .m word = _
    rw [decodeEngine, f1, f2, f3, f4]; rfl
  · intro hw word he hz
    have ⟨f0, f1, f2, f3, f4⟩ : fld word 29 3 = 3#3 ∧ fld word 24 5 = 29#5 ∧ fld word 18 2 = 3#2 ∧ fld word 20 4 = g ∧ fld word 0 18 = o := by
      cases he; simp (disch := decide) only [fld, fld_word, fld_low, fld_high, fld_all, Nat.reduceSub, BitVec.reduceExtractLsb', Eng.tag, BitVec.ofNat_eq_ofNat, and_self]
    refine of_form f0 (by decide) (by decide) hz hw ?_
    rw [decodeForm, f0, f1]
    show decodeEngine .c word = _
    rw [decodeEngine, f1, f2, f3, f4]; rfl
  · intro hw word he hz
    have ⟨f0, f1, f2, f3, f4⟩ : fld word 29 3 = 4#3 ∧ fld word 24 5 = 29#5 ∧ fld word 18 2 = 3#2 ∧ fld word 20 4 = g ∧ fld word 0 18 = o := by
      cases he; simp (disch := decide) only [fld, fld_word, fld_low, fld_high, fld_all, Nat.reduceSub, BitVec.reduceExtractLsb', Eng.tag, BitVec.ofNat_eq_ofNat, and_self]
    refine of_form f0 (by decide) (by decide) hz hw ?_
    rw [decodeForm, f0, f1]
    show decodeEngine .f word = _
    rw [decodeEngine, f1, f2, f3, f4]; rfl
theorem awaitfEngine (e : Eng) (g : BitVec 4) (r : BitVec 8) : Statement (.awaitfEngine e g r) := by
  cases e
  · exact fun hw => absurd (show false = true from hw) (by decide)
  · intro hw word he hz
    have ⟨f0, f1, f2, f3, f4, f5⟩ : fld word 29 3 = 1#3 ∧ fld word 24 5 = 30#5 ∧ fld word 10 2 = 0#2 ∧ fld word 0 10 = 0#10 ∧ fld word 20 4 = g ∧ fld word 12 8 = r := by
      cases he; simp (disch := decide) only [fld, fld_word, fld_low, fld_high, fld_all, Nat.reduceSub, BitVec.reduceExtractLsb', Eng.tag, BitVec.ofNat_eq_ofNat, and_self]
    refine of_form f0 (by decide) (by decide) hz hw ?_
    rw [decodeForm, f0, f1]
    show decodeEngine .v word = _
    rw [decodeEngine, f1, f2, f3, f4, f5]; rfl
  · intro hw word he hz
    have ⟨f0, f1, f2, f3, f4, f5⟩ : fld word 29 3 = 2#3 ∧ fld word 24 5 = 30#5 ∧ fld word 10 2 = 0#2 ∧ fld word 0 10 = 0#10 ∧ fld word 20 4 = g ∧ fld word 12 8 = r := by
      cases he; simp (disch := decide) only [fld, fld_word, fld_low, fld_high, fld_all, Nat.reduceSub, BitVec.reduceExtractLsb', Eng.tag, BitVec.ofNat_eq_ofNat, and_self]
    refine of_form f0 (by decide) (by decide) hz hw ?_
    rw [decodeForm, f0, f1]
    show decodeEngine .m word = _
    rw [decodeEngine, f1, f2, f3, f4, f5]; rfl
  · intro hw word he hz
    have ⟨f0, f1, f2, f3, f4, f5⟩ : fld word 29 3 = 3#3 ∧ fld word 24 5 = 30#5 ∧ fld word 10 2 = 0#2 ∧ fld word 0 10 = 0#10 ∧ fld word 20 4 = g ∧ fld word 12 8 = r := by
      cases he; simp (disch := decide) only [fld, fld_word, fld_low, fld_high, fld_all, Nat.reduceSub, BitVec.reduceExtractLsb', Eng.tag, BitVec.ofNat_eq_ofNat, and_self]
    refine of_form f0 (by decide) (by decide) hz hw ?_
    rw [decodeForm, f0, f1]
    show decodeEngine .c word = _
    rw [decodeEngine, f1, f2, f3, f4, f5]; rfl
  · intro hw word he hz
    have ⟨f0, f1, f2, f3, f4, f5⟩ : fld word 29 3 = 4#3 ∧ fld word 24 5 = 30#5 ∧ fld word 10 2 = 0#2 ∧ fld word 0 10 = 0#10 ∧ fld word 20 4 = g ∧ fld word 12 8 = r := by
      cases he; simp (disch := decide) only [fld, fld_word, fld_low, fld_high, fld_all, Nat.reduceSub, BitVec.reduceExtractLsb', Eng.tag, BitVec.ofNat_eq_ofNat, and_self]
    refine of_form f0 (by decide) (by decide) hz hw ?_
    rw [decodeForm, f0, f1]
    show decodeEngine .f word = _
    rw [decodeEngine, f1, f2, f3, f4, f5]; rfl
theorem relsEngine (e : Eng) (r : BitVec 8) : Statement (.relsEngine e r) := by
  cases e
  · exact fun hw => absurd (show false = true from hw) (by decide)
  · intro hw word he hz
    have ⟨f0, f1, f2, f3, f4, f5⟩ : fld word 29 3 = 1#3 ∧ fld word 24 5 = 30#5 ∧ fld word 10 2 = 1#2 ∧ fld word 0 10 = 0#10 ∧ fld word 20 4 = 0#4 ∧ fld word 12 8 = r := by
      cases he; simp (disch := decide) only [fld, fld_word, fld_low, fld_high, fld_all, Nat.reduceSub, BitVec.reduceExtractLsb', Eng.tag, BitVec.ofNat_eq_ofNat, and_self]
    refine of_form f0 (by decide) (by decide) hz hw ?_
    rw [decodeForm, f0, f1]
    show decodeEngine .v word = _
    rw [decodeEngine, f1, f2, f3, f4, f5]; rfl
  · intro hw word he hz
    have ⟨f0, f1, f2, f3, f4, f5⟩ : fld word 29 3 = 2#3 ∧ fld word 24 5 = 30#5 ∧ fld word 10 2 = 1#2 ∧ fld word 0 10 = 0#10 ∧ fld word 20 4 = 0#4 ∧ fld word 12 8 = r := by
      cases he; simp (disch := decide) only [fld, fld_word, fld_low, fld_high, fld_all, Nat.reduceSub, BitVec.reduceExtractLsb', Eng.tag, BitVec.ofNat_eq_ofNat, and_self]
    refine of_form f0 (by decide) (by decide) hz hw ?_
    rw [decodeForm, f0, f1]
    show decodeEngine .m word = _
    rw [decodeEngine, f1, f2, f3, f4, f5]; rfl
  · intro hw word he hz
    have ⟨f0, f1, f2, f3, f4, f5⟩ : fld word 29 3 = 3#3 ∧ fld word 24 5 = 30#5 ∧ fld word 10 2 = 1#2 ∧ fld word 0 10 = 0#10 ∧ fld word 20 4 = 0#4 ∧ fld word 12 8 = r := by
      cases he; simp (disch := decide) only [fld, fld_word, fld_low, fld_high, fld_all, Nat.reduceSub, BitVec.reduceExtractLsb', Eng.tag, BitVec.ofNat_eq_ofNat, and_self]
    refine of_form f0 (by decide) (by decide) hz hw ?_
    rw [decodeForm, f0, f1]
    show decodeEngine .c word = _
    rw [decodeEngine, f1, f2, f3, f4, f5]; rfl
  · intro hw word he hz
    have ⟨f0, f1, f2, f3, f4, f5⟩ : fld word 29 3 = 4#3 ∧ fld word 24 5 = 30#5 ∧ fld word 10 2 = 1#2 ∧ fld word 0 10 = 0#10 ∧ fld word 20 4 = 0#4 ∧ fld word 12 8 = r := by
      cases he; simp (disch := decide) only [fld, fld_word, fld_low, fld_high, fld_all, Nat.reduceSub, BitVec.reduceExtractLsb', Eng.tag, BitVec.ofNat_eq_ofNat, and_self]
    refine of_form f0 (by decide) (by decide) hz hw ?_
    rw [decodeForm, f0, f1]
    show decodeEngine .f word = _
    rw [decodeEngine, f1, f2, f3, f4, f5]; rfl
theorem rclaimEngine (e : Eng) (g : BitVec 4) (r : BitVec 8) : Statement (.rclaimEngine e g r) := by
  cases e
  · exact fun hw => absurd (show false = true from hw) (by decide)
  · intro hw word he hz
    have ⟨f0, f1, f2, f3, f4, f5⟩ : fld word 29 3 = 1#3 ∧ fld word 24 5 = 30#5 ∧ fld word 10 2 = 2#2 ∧ fld word 0 10 = 0#10 ∧ fld word 20 4 = g ∧ fld word 12 8 = r := by
      cases he; simp (disch := decide) only [fld, fld_word, fld_low, fld_high, fld_all, Nat.reduceSub, BitVec.reduceExtractLsb', Eng.tag, BitVec.ofNat_eq_ofNat, and_self]
    refine of_form f0 (by decide) (by decide) hz hw ?_
    rw [decodeForm, f0, f1]
    show decodeEngine .v word = _
    rw [decodeEngine, f1, f2, f3, f4, f5]; rfl
  · intro hw word he hz
    have ⟨f0, f1, f2, f3, f4, f5⟩ : fld word 29 3 = 2#3 ∧ fld word 24 5 = 30#5 ∧ fld word 10 2 = 2#2 ∧ fld word 0 10 = 0#10 ∧ fld word 20 4 = g ∧ fld word 12 8 = r := by
      cases he; simp (disch := decide) only [fld, fld_word, fld_low, fld_high, fld_all, Nat.reduceSub, BitVec.reduceExtractLsb', Eng.tag, BitVec.ofNat_eq_ofNat, and_self]
    refine of_form f0 (by decide) (by decide) hz hw ?_
    rw [decodeForm, f0, f1]
    show decodeEngine .m word = _
    rw [decodeEngine, f1, f2, f3, f4, f5]; rfl
  · intro hw word he hz
    have ⟨f0, f1, f2, f3, f4, f5⟩ : fld word 29 3 = 3#3 ∧ fld word 24 5 = 30#5 ∧ fld word 10 2 = 2#2 ∧ fld word 0 10 = 0#10 ∧ fld word 20 4 = g ∧ fld word 12 8 = r := by
      cases he; simp (disch := decide) only [fld, fld_word, fld_low, fld_high, fld_all, Nat.reduceSub, BitVec.reduceExtractLsb', Eng.tag, BitVec.ofNat_eq_ofNat, and_self]
    refine of_form f0 (by decide) (by decide) hz hw ?_
    rw [decodeForm, f0, f1]
    show decodeEngine .c word = _
    rw [decodeEngine, f1, f2, f3, f4, f5]; rfl
  · intro hw word he hz
    have ⟨f0, f1, f2, f3, f4, f5⟩ : fld word 29 3 = 4#3 ∧ fld word 24 5 = 30#5 ∧ fld word 10 2 = 2#2 ∧ fld word 0 10 = 0#10 ∧ fld word 20 4 = g ∧ fld word 12 8 = r := by
      cases he; simp (disch := decide) only [fld, fld_word, fld_low, fld_high, fld_all, Nat.reduceSub, BitVec.reduceExtractLsb', Eng.tag, BitVec.ofNat_eq_ofNat, and_self]
    refine of_form f0 (by decide) (by decide) hz hw ?_
    rw [decodeForm, f0, f1]
    show decodeEngine .f word = _
    rw [decodeEngine, f1, f2, f3, f4, f5]; rfl
theorem rstatEngine (e : Eng) (g : BitVec 4) (r : BitVec 8) : Statement (.rstatEngine e g r) := by
  cases e
  · exact fun hw => absurd (show false = true from hw) (by decide)
  · intro hw word he hz
    have ⟨f0, f1, f2, f3, f4, f5⟩ : fld word 29 3 = 1#3 ∧ fld word 24 5 = 30#5 ∧ fld word 10 2 = 3#2 ∧ fld word 0 10 = 0#10 ∧ fld word 20 4 = g ∧ fld word 12 8 = r := by
      cases he; simp (disch := decide) only [fld, fld_word, fld_low, fld_high, fld_all, Nat.reduceSub, BitVec.reduceExtractLsb', Eng.tag, BitVec.ofNat_eq_ofNat, and_self]
    refine of_form f0 (by decide) (by decide) hz hw ?_
    rw [decodeForm, f0, f1]
    show decodeEngine .v word = _
    rw [decodeEngine, f1, f2, f3, f4, f5]; rfl
  · intro hw word he hz
    have ⟨f0, f1, f2, f3, f4, f5⟩ : fld word 29 3 = 2#3 ∧ fld word 24 5 = 30#5 ∧ fld word 10 2 = 3#2 ∧ fld word 0 10 = 0#10 ∧ fld word 20 4 = g ∧ fld word 12 8 = r := by
      cases he; simp (disch := decide) only [fld, fld_word, fld_low, fld_high, fld_all, Nat.reduceSub, BitVec.reduceExtractLsb', Eng.tag, BitVec.ofNat_eq_ofNat, and_self]
    refine of_form f0 (by decide) (by decide) hz hw ?_
    rw [decodeForm, f0, f1]
    show decodeEngine .m word = _
    rw [decodeEngine, f1, f2, f3, f4, f5]; rfl
  · intro hw word he hz
    have ⟨f0, f1, f2, f3, f4, f5⟩ : fld word 29 3 = 3#3 ∧ fld word 24 5 = 30#5 ∧ fld word 10 2 = 3#2 ∧ fld word 0 10 = 0#10 ∧ fld word 20 4 = g ∧ fld word 12 8 = r := by
      cases he; simp (disch := decide) only [fld, fld_word, fld_low, fld_high, fld_all, Nat.reduceSub, BitVec.reduceExtractLsb', Eng.tag, BitVec.ofNat_eq_ofNat, and_self]
    refine of_form f0 (by decide) (by decide) hz hw ?_
    rw [decodeForm, f0, f1]
    show decodeEngine .c word = _
    rw [decodeEngine, f1, f2, f3, f4, f5]; rfl
  · intro hw word he hz
    have ⟨f0, f1, f2, f3, f4, f5⟩ : fld word 29 3 = 4#3 ∧ fld word 24 5 = 30#5 ∧ fld word 10 2 = 3#2 ∧ fld word 0 10 = 0#10 ∧ fld word 20 4 = g ∧ fld word 12 8 = r := by
      cases he; simp (disch := decide) only [fld, fld_word, fld_low, fld_high, fld_all, Nat.reduceSub, BitVec.reduceExtractLsb', Eng.tag, BitVec.ofNat_eq_ofNat, and_self]
    refine of_form f0 (by decide) (by decide) hz hw ?_
    rw [decodeForm, f0, f1]
    show decodeEngine .f word = _
    rw [decodeEngine, f1, f2, f3, f4, f5]; rfl
theorem elimm (e : Eng) (i : BitVec 24) : Statement (.elimm e i) := by
  cases e
  · exact fun hw => absurd (show false = true from hw) (by decide)
  · intro hw word he hz
    have ⟨f0, f1, f2⟩ : fld word 29 3 = 1#3 ∧ fld word 24 5 = 31#5 ∧ fld word 0 24 = i := by
      cases he; simp (disch := decide) only [fld, fld_word, fld_low, fld_high, fld_all, Nat.reduceSub, BitVec.reduceExtractLsb', Eng.tag, BitVec.ofNat_eq_ofNat, and_self]
    refine of_form f0 (by decide) (by decide) hz hw ?_
    rw [decodeForm, f0, f1]
    show decodeEngine .v word = _
    rw [decodeEngine, f1, f2]; rfl
  · intro hw word he hz
    have ⟨f0, f1, f2⟩ : fld word 29 3 = 2#3 ∧ fld word 24 5 = 31#5 ∧ fld word 0 24 = i := by
      cases he; simp (disch := decide) only [fld, fld_word, fld_low, fld_high, fld_all, Nat.reduceSub, BitVec.reduceExtractLsb', Eng.tag, BitVec.ofNat_eq_ofNat, and_self]
    refine of_form f0 (by decide) (by decide) hz hw ?_
    rw [decodeForm, f0, f1]
    show decodeEngine .m word = _
    rw [decodeEngine, f1, f2]; rfl
  · intro hw word he hz
    have ⟨f0, f1, f2⟩ : fld word 29 3 = 3#3 ∧ fld word 24 5 = 31#5 ∧ fld word 0 24 = i := by
      cases he; simp (disch := decide) only [fld, fld_word, fld_low, fld_high, fld_all, Nat.reduceSub, BitVec.reduceExtractLsb', Eng.tag, BitVec.ofNat_eq_ofNat, and_self]
    refine of_form f0 (by decide) (by decide) hz hw ?_
    rw [decodeForm, f0, f1]
    show decodeEngine .c word = _
    rw [decodeEngine, f1, f2]; rfl
  · intro hw word he hz
    have ⟨f0, f1, f2⟩ : fld word 29 3 = 4#3 ∧ fld word 24 5 = 31#5 ∧ fld word 0 24 = i := by
      cases he; simp (disch := decide) only [fld, fld_word, fld_low, fld_high, fld_all, Nat.reduceSub, BitVec.reduceExtractLsb', Eng.tag, BitVec.ofNat_eq_ofNat, and_self]
    refine of_form f0 (by decide) (by decide) hz hw ?_
    rw [decodeForm, f0, f1]
    show decodeEngine .f word = _
    rw [decodeEngine, f1, f2]; rfl
theorem vadd (d a b : BitVec 5) (m : BitVec 3) : Statement (.vadd d a b m) := by
  intro hw word he hz
  have ⟨f0, f1, f2, f3, f4, f5, f6⟩ : fld word 29 3 = 1#3 ∧ fld word 24 5 = 0#5 ∧ fld word 0 6 = 0#6 ∧ fld word 19 5 = d ∧ fld word 14 5 = a ∧ fld word 9 5 = b ∧ fld word 6 3 = m := by
    cases he; simp (disch := decide) only [fld, fld_word, fld_low, fld_high, fld_all, Nat.reduceSub, BitVec.reduceExtractLsb', Eng.tag, BitVec.ofNat_eq_ofNat, and_self]
  refine of_form f0 (by decide) (by decide) hz hw ?_
  rw [decodeForm, f0, f1]
  show decodeV word = _
  rw [decodeV, f1, f2, f3, f4, f5, f6]; rfl
theorem vsub (d a b : BitVec 5) (m : BitVec 3) : Statement (.vsub d a b m) := by
  intro hw word he hz
  have ⟨f0, f1, f2, f3, f4, f5, f6⟩ : fld word 29 3 = 1#3 ∧ fld word 24 5 = 0#5 ∧ fld word 0 6 = 1#6 ∧ fld word 19 5 = d ∧ fld word 14 5 = a ∧ fld word 9 5 = b ∧ fld word 6 3 = m := by
    cases he; simp (disch := decide) only [fld, fld_word, fld_low, fld_high, fld_all, Nat.reduceSub, BitVec.reduceExtractLsb', Eng.tag, BitVec.ofNat_eq_ofNat, and_self]
  refine of_form f0 (by decide) (by decide) hz hw ?_
  rw [decodeForm, f0, f1]
  show decodeV word = _
  rw [decodeV, f1, f2, f3, f4, f5, f6]; rfl
theorem vmul (d a b : BitVec 5) (m : BitVec 3) : Statement (.vmul d a b m) := by
  intro hw word he hz
  have ⟨f0, f1, f2, f3, f4, f5, f6⟩ : fld word 29 3 = 1#3 ∧ fld word 24 5 = 0#5 ∧ fld word 0 6 = 2#6 ∧ fld word 19 5 = d ∧ fld word 14 5 = a ∧ fld word 9 5 = b ∧ fld word 6 3 = m := by
    cases he; simp (disch := decide) only [fld, fld_word, fld_low, fld_high, fld_all, Nat.reduceSub, BitVec.reduceExtractLsb', Eng.tag, BitVec.ofNat_eq_ofNat, and_self]
  refine of_form f0 (by decide) (by decide) hz hw ?_
  rw [decodeForm, f0, f1]
  show decodeV word = _
  rw [decodeV, f1, f2, f3, f4, f5, f6]; rfl
theorem vdiv (d a b : BitVec 5) (m : BitVec 3) : Statement (.vdiv d a b m) := by
  intro hw word he hz
  have ⟨f0, f1, f2, f3, f4, f5, f6⟩ : fld word 29 3 = 1#3 ∧ fld word 24 5 = 0#5 ∧ fld word 0 6 = 3#6 ∧ fld word 19 5 = d ∧ fld word 14 5 = a ∧ fld word 9 5 = b ∧ fld word 6 3 = m := by
    cases he; simp (disch := decide) only [fld, fld_word, fld_low, fld_high, fld_all, Nat.reduceSub, BitVec.reduceExtractLsb', Eng.tag, BitVec.ofNat_eq_ofNat, and_self]
  refine of_form f0 (by decide) (by decide) hz hw ?_
  rw [decodeForm, f0, f1]
  show decodeV word = _
  rw [decodeV, f1, f2, f3, f4, f5, f6]; rfl
theorem vmin (d a b : BitVec 5) (m : BitVec 3) : Statement (.vmin d a b m) := by
  intro hw word he hz
  have ⟨f0, f1, f2, f3, f4, f5, f6⟩ : fld word 29 3 = 1#3 ∧ fld word 24 5 = 0#5 ∧ fld word 0 6 = 4#6 ∧ fld word 19 5 = d ∧ fld word 14 5 = a ∧ fld word 9 5 = b ∧ fld word 6 3 = m := by
    cases he; simp (disch := decide) only [fld, fld_word, fld_low, fld_high, fld_all, Nat.reduceSub, BitVec.reduceExtractLsb', Eng.tag, BitVec.ofNat_eq_ofNat, and_self]
  refine of_form f0 (by decide) (by decide) hz hw ?_
  rw [decodeForm, f0, f1]
  show decodeV word = _
  rw [decodeV, f1, f2, f3, f4, f5, f6]; rfl
theorem vmax (d a b : BitVec 5) (m : BitVec 3) : Statement (.vmax d a b m) := by
  intro hw word he hz
  have ⟨f0, f1, f2, f3, f4, f5, f6⟩ : fld word 29 3 = 1#3 ∧ fld word 24 5 = 0#5 ∧ fld word 0 6 = 5#6 ∧ fld word 19 5 = d ∧ fld word 14 5 = a ∧ fld word 9 5 = b ∧ fld word 6 3 = m := by
    cases he; simp (disch := decide) only [fld, fld_word, fld_low, fld_high, fld_all, Nat.reduceSub, BitVec.reduceExtractLsb', Eng.tag, BitVec.ofNat_eq_ofNat, and_self]
  refine of_form f0 (by decide) (by decide) hz hw ?_
  rw [decodeForm, f0, f1]
  show decodeV word = _
  rw [decodeV, f1, f2, f3, f4, f5, f6]; rfl
theorem vabs (d a : BitVec 5) (m : BitVec 3) : Statement (.vabs d a m) := by
  intro hw word he hz
  have ⟨f0, f1, f2, f3, f4, f5, f6⟩ : fld word 29 3 = 1#3 ∧ fld word 24 5 = 0#5 ∧ fld word 0 6 = 6#6 ∧ fld word 9 5 = 0#5 ∧ fld word 19 5 = d ∧ fld word 14 5 = a ∧ fld word 6 3 = m := by
    cases he; simp (disch := decide) only [fld, fld_word, fld_low, fld_high, fld_all, Nat.reduceSub, BitVec.reduceExtractLsb', Eng.tag, BitVec.ofNat_eq_ofNat, and_self]
  refine of_form f0 (by decide) (by decide) hz hw ?_
  rw [decodeForm, f0, f1]
  show decodeV word = _
  rw [decodeV, f1, f2, f3, f4, f5, f6]; rfl
theorem vneg (d a : BitVec 5) (m : BitVec 3) : Statement (.vneg d a m) := by
  intro hw word he hz
  have ⟨f0, f1, f2, f3, f4, f5, f6⟩ : fld word 29 3 = 1#3 ∧ fld word 24 5 = 0#5 ∧ fld word 0 6 = 7#6 ∧ fld word 9 5 = 0#5 ∧ fld word 19 5 = d ∧ fld word 14 5 = a ∧ fld word 6 3 = m := by
    cases he; simp (disch := decide) only [fld, fld_word, fld_low, fld_high, fld_all, Nat.reduceSub, BitVec.reduceExtractLsb', Eng.tag, BitVec.ofNat_eq_ofNat, and_self]
  refine of_form f0 (by decide) (by decide) hz hw ?_
  rw [decodeForm, f0, f1]
  show decodeV word = _
  rw [decodeV, f1, f2, f3, f4, f5, f6]; rfl
theorem vsqrt (d a : BitVec 5) (m : BitVec 3) : Statement (.vsqrt d a m) := by
  intro hw word he hz
  have ⟨f0, f1, f2, f3, f4, f5, f6⟩ : fld word 29 3 = 1#3 ∧ fld word 24 5 = 0#5 ∧ fld word 0 6 = 8#6 ∧ fld word 9 5 = 0#5 ∧ fld word 19 5 = d ∧ fld word 14 5 = a ∧ fld word 6 3 = m := by
    cases he; simp (disch := decide) only [fld, fld_word, fld_low, fld_high, fld_all, Nat.reduceSub, BitVec.reduceExtractLsb', Eng.tag, BitVec.ofNat_eq_ofNat, and_self]
  refine of_form f0 (by decide) (by decide) hz hw ?_
  rw [decodeForm, f0, f1]
  show decodeV word = _
  rw [decodeV, f1, f2, f3, f4, f5, f6]; rfl
theorem vrsqrt (d a : BitVec 5) (m : BitVec 3) : Statement (.vrsqrt d a m) := by
  intro hw word he hz
  have ⟨f0, f1, f2, f3, f4, f5, f6⟩ : fld word 29 3 = 1#3 ∧ fld word 24 5 = 0#5 ∧ fld word 0 6 = 9#6 ∧ fld word 9 5 = 0#5 ∧ fld word 19 5 = d ∧ fld word 14 5 = a ∧ fld word 6 3 = m := by
    cases he; simp (disch := decide) only [fld, fld_word, fld_low, fld_high, fld_all, Nat.reduceSub, BitVec.reduceExtractLsb', Eng.tag, BitVec.ofNat_eq_ofNat, and_self]
  refine of_form f0 (by decide) (by decide) hz hw ?_
  rw [decodeForm, f0, f1]
  show decodeV word = _
  rw [decodeV, f1, f2, f3, f4, f5, f6]; rfl
theorem vrcp (d a : BitVec 5) (m : BitVec 3) : Statement (.vrcp d a m) := by
  intro hw word he hz
  have ⟨f0, f1, f2, f3, f4, f5, f6⟩ : fld word 29 3 = 1#3 ∧ fld word 24 5 = 0#5 ∧ fld word 0 6 = 10#6 ∧ fld word 9 5 = 0#5 ∧ fld word 19 5 = d ∧ fld word 14 5 = a ∧ fld word 6 3 = m := by
    cases he; simp (disch := decide) only [fld, fld_word, fld_low, fld_high, fld_all, Nat.reduceSub, BitVec.reduceExtractLsb', Eng.tag, BitVec.ofNat_eq_ofNat, and_self]
  refine of_form f0 (by decide) (by decide) hz hw ?_
  rw [decodeForm, f0, f1]
  show decodeV word = _
  rw [decodeV, f1, f2, f3, f4, f5, f6]; rfl
theorem vexp2 (d a : BitVec 5) (m : BitVec 3) : Statement (.vexp2 d a m) := by
  intro hw word he hz
  have ⟨f0, f1, f2, f3, f4, f5, f6⟩ : fld word 29 3 = 1#3 ∧ fld word 24 5 = 0#5 ∧ fld word 0 6 = 11#6 ∧ fld word 9 5 = 0#5 ∧ fld word 19 5 = d ∧ fld word 14 5 = a ∧ fld word 6 3 = m := by
    cases he; simp (disch := decide) only [fld, fld_word, fld_low, fld_high, fld_all, Nat.reduceSub, BitVec.reduceExtractLsb', Eng.tag, BitVec.ofNat_eq_ofNat, and_self]
  refine of_form f0 (by decide) (by decide) hz hw ?_
  rw [decodeForm, f0, f1]
  show decodeV word = _
  rw [decodeV, f1, f2, f3, f4, f5, f6]; rfl
theorem vlog2 (d a : BitVec 5) (m : BitVec 3) : Statement (.vlog2 d a m) := by
  intro hw word he hz
  have ⟨f0, f1, f2, f3, f4, f5, f6⟩ : fld word 29 3 = 1#3 ∧ fld word 24 5 = 0#5 ∧ fld word 0 6 = 12#6 ∧ fld word 9 5 = 0#5 ∧ fld word 19 5 = d ∧ fld word 14 5 = a ∧ fld word 6 3 = m := by
    cases he; simp (disch := decide) only [fld, fld_word, fld_low, fld_high, fld_all, Nat.reduceSub, BitVec.reduceExtractLsb', Eng.tag, BitVec.ofNat_eq_ofNat, and_self]
  refine of_form f0 (by decide) (by decide) hz hw ?_
  rw [decodeForm, f0, f1]
  show decodeV word = _
  rw [decodeV, f1, f2, f3, f4, f5, f6]; rfl
theorem viadd (d a b : BitVec 5) (m : BitVec 3) : Statement (.viadd d a b m) := by
  intro hw word he hz
  have ⟨f0, f1, f2, f3, f4, f5, f6⟩ : fld word 29 3 = 1#3 ∧ fld word 24 5 = 1#5 ∧ fld word 0 6 = 0#6 ∧ fld word 19 5 = d ∧ fld word 14 5 = a ∧ fld word 9 5 = b ∧ fld word 6 3 = m := by
    cases he; simp (disch := decide) only [fld, fld_word, fld_low, fld_high, fld_all, Nat.reduceSub, BitVec.reduceExtractLsb', Eng.tag, BitVec.ofNat_eq_ofNat, and_self]
  refine of_form f0 (by decide) (by decide) hz hw ?_
  rw [decodeForm, f0, f1]
  show decodeV word = _
  rw [decodeV, f1, f2, f3, f4, f5, f6]; rfl
theorem visub (d a b : BitVec 5) (m : BitVec 3) : Statement (.visub d a b m) := by
  intro hw word he hz
  have ⟨f0, f1, f2, f3, f4, f5, f6⟩ : fld word 29 3 = 1#3 ∧ fld word 24 5 = 1#5 ∧ fld word 0 6 = 1#6 ∧ fld word 19 5 = d ∧ fld word 14 5 = a ∧ fld word 9 5 = b ∧ fld word 6 3 = m := by
    cases he; simp (disch := decide) only [fld, fld_word, fld_low, fld_high, fld_all, Nat.reduceSub, BitVec.reduceExtractLsb', Eng.tag, BitVec.ofNat_eq_ofNat, and_self]
  refine of_form f0 (by decide) (by decide) hz hw ?_
  rw [decodeForm, f0, f1]
  show decodeV word = _
  rw [decodeV, f1, f2, f3, f4, f5, f6]; rfl
theorem vimul (d a b : BitVec 5) (m : BitVec 3) : Statement (.vimul d a b m) := by
  intro hw word he hz
  have ⟨f0, f1, f2, f3, f4, f5, f6⟩ : fld word 29 3 = 1#3 ∧ fld word 24 5 = 1#5 ∧ fld word 0 6 = 2#6 ∧ fld word 19 5 = d ∧ fld word 14 5 = a ∧ fld word 9 5 = b ∧ fld word 6 3 = m := by
    cases he; simp (disch := decide) only [fld, fld_word, fld_low, fld_high, fld_all, Nat.reduceSub, BitVec.reduceExtractLsb', Eng.tag, BitVec.ofNat_eq_ofNat, and_self]
  refine of_form f0 (by decide) (by decide) hz hw ?_
  rw [decodeForm, f0, f1]
  show decodeV word = _
  rw [decodeV, f1, f2, f3, f4, f5, f6]; rfl
theorem vimulh (d a b : BitVec 5) (m : BitVec 3) : Statement (.vimulh d a b m) := by
  intro hw word he hz
  have ⟨f0, f1, f2, f3, f4, f5, f6⟩ : fld word 29 3 = 1#3 ∧ fld word 24 5 = 1#5 ∧ fld word 0 6 = 3#6 ∧ fld word 19 5 = d ∧ fld word 14 5 = a ∧ fld word 9 5 = b ∧ fld word 6 3 = m := by
    cases he; simp (disch := decide) only [fld, fld_word, fld_low, fld_high, fld_all, Nat.reduceSub, BitVec.reduceExtractLsb', Eng.tag, BitVec.ofNat_eq_ofNat, and_self]
  refine of_form f0 (by decide) (by decide) hz hw ?_
  rw [decodeForm, f0, f1]
  show decodeV word = _
  rw [decodeV, f1, f2, f3, f4, f5, f6]; rfl
theorem vimulhn (d a b : BitVec 5) (m : BitVec 3) : Statement (.vimulhn d a b m) := by
  intro hw word he hz
  have ⟨f0, f1, f2, f3, f4, f5, f6⟩ : fld word 29 3 = 1#3 ∧ fld word 24 5 = 1#5 ∧ fld word 0 6 = 4#6 ∧ fld word 19 5 = d ∧ fld word 14 5 = a ∧ fld word 9 5 = b ∧ fld word 6 3 = m := by
    cases he; simp (disch := decide) only [fld, fld_word, fld_low, fld_high, fld_all, Nat.reduceSub, BitVec.reduceExtractLsb', Eng.tag, BitVec.ofNat_eq_ofNat, and_self]
  refine of_form f0 (by decide) (by decide) hz hw ?_
  rw [decodeForm, f0, f1]
  show decodeV word = _
  rw [decodeV, f1, f2, f3, f4, f5, f6]; rfl
theorem viand (d a b : BitVec 5) (m : BitVec 3) : Statement (.viand d a b m) := by
  intro hw word he hz
  have ⟨f0, f1, f2, f3, f4, f5, f6⟩ : fld word 29 3 = 1#3 ∧ fld word 24 5 = 1#5 ∧ fld word 0 6 = 5#6 ∧ fld word 19 5 = d ∧ fld word 14 5 = a ∧ fld word 9 5 = b ∧ fld word 6 3 = m := by
    cases he; simp (disch := decide) only [fld, fld_word, fld_low, fld_high, fld_all, Nat.reduceSub, BitVec.reduceExtractLsb', Eng.tag, BitVec.ofNat_eq_ofNat, and_self]
  refine of_form f0 (by decide) (by decide) hz hw ?_
  rw [decodeForm, f0, f1]
  show decodeV word = _
  rw [decodeV, f1, f2, f3, f4, f5, f6]; rfl
theorem vior (d a b : BitVec 5) (m : BitVec 3) : Statement (.vior d a b m) := by
  intro hw word he hz
  have ⟨f0, f1, f2, f3, f4, f5, f6⟩ : fld word 29 3 = 1#3 ∧ fld word 24 5 = 1#5 ∧ fld word 0 6 = 6#6 ∧ fld word 19 5 = d ∧ fld word 14 5 = a ∧ fld word 9 5 = b ∧ fld word 6 3 = m := by
    cases he; simp (disch := decide) only [fld, fld_word, fld_low, fld_high, fld_all, Nat.reduceSub, BitVec.reduceExtractLsb', Eng.tag, BitVec.ofNat_eq_ofNat, and_self]
  refine of_form f0 (by decide) (by decide) hz hw ?_
  rw [decodeForm, f0, f1]
  show decodeV word = _
  rw [decodeV, f1, f2, f3, f4, f5, f6]; rfl
theorem vixor (d a b : BitVec 5) (m : BitVec 3) : Statement (.vixor d a b m) := by
  intro hw word he hz
  have ⟨f0, f1, f2, f3, f4, f5, f6⟩ : fld word 29 3 = 1#3 ∧ fld word 24 5 = 1#5 ∧ fld word 0 6 = 7#6 ∧ fld word 19 5 = d ∧ fld word 14 5 = a ∧ fld word 9 5 = b ∧ fld word 6 3 = m := by
    cases he; simp (disch := decide) only [fld, fld_word, fld_low, fld_high, fld_all, Nat.reduceSub, BitVec.reduceExtractLsb', Eng.tag, BitVec.ofNat_eq_ofNat, and_self]
  refine of_form f0 (by decide) (by decide) hz hw ?_
  rw [decodeForm, f0, f1]
  show decodeV word = _
  rw [decodeV, f1, f2, f3, f4, f5, f6]; rfl
theorem vishl (d a b : BitVec 5) (m : BitVec 3) : Statement (.vishl d a b m) := by
  intro hw word he hz
  have ⟨f0, f1, f2, f3, f4, f5, f6⟩ : fld word 29 3 = 1#3 ∧ fld word 24 5 = 1#5 ∧ fld word 0 6 = 8#6 ∧ fld word 19 5 = d ∧ fld word 14 5 = a ∧ fld word 9 5 = b ∧ fld word 6 3 = m := by
    cases he; simp (disch := decide) only [fld, fld_word, fld_low, fld_high, fld_all, Nat.reduceSub, BitVec.reduceExtractLsb', Eng.tag, BitVec.ofNat_eq_ofNat, and_self]
  refine of_form f0 (by decide) (by decide) hz hw ?_
  rw [decodeForm, f0, f1]
  show decodeV word = _
  rw [decodeV, f1, f2, f3, f4, f5, f6]; rfl
theorem vishr (d a b : BitVec 5) (m : BitVec 3) : Statement (.vishr d a b m) := by
  intro hw word he hz
  have ⟨f0, f1, f2, f3, f4, f5, f6⟩ : fld word 29 3 = 1#3 ∧ fld word 24 5 = 1#5 ∧ fld word 0 6 = 9#6 ∧ fld word 19 5 = d ∧ fld word 14 5 = a ∧ fld word 9 5 = b ∧ fld word 6 3 = m := by
    cases he; simp (disch := decide) only [fld, fld_word, fld_low, fld_high, fld_all, Nat.reduceSub, BitVec.reduceExtractLsb', Eng.tag, BitVec.ofNat_eq_ofNat, and_self]
  refine of_form f0 (by decide) (by decide) hz hw ?_
  rw [decodeForm, f0, f1]
  show decodeV word = _
  rw [decodeV, f1, f2, f3, f4, f5, f6]; rfl
theorem visra (d a b : BitVec 5) (m : BitVec 3) : Statement (.visra d a b m) := by
  intro hw word he hz
  have ⟨f0, f1, f2, f3, f4, f5, f6⟩ : fld word 29 3 = 1#3 ∧ fld word 24 5 = 1#5 ∧ fld word 0 6 = 10#6 ∧ fld word 19 5 = d ∧ fld word 14 5 = a ∧ fld word 9 5 = b ∧ fld word 6 3 = m := by
    cases he; simp (disch := decide) only [fld, fld_word, fld_low, fld_high, fld_all, Nat.reduceSub, BitVec.reduceExtractLsb', Eng.tag, BitVec.ofNat_eq_ofNat, and_self]
  refine of_form f0 (by decide) (by decide) hz hw ?_
  rw [decodeForm, f0, f1]
  show decodeV word = _
  rw [decodeV, f1, f2, f3, f4, f5, f6]; rfl
theorem vimin (d a b : BitVec 5) (m : BitVec 3) : Statement (.vimin d a b m) := by
  intro hw word he hz
  have ⟨f0, f1, f2, f3, f4, f5, f6⟩ : fld word 29 3 = 1#3 ∧ fld word 24 5 = 1#5 ∧ fld word 0 6 = 11#6 ∧ fld word 19 5 = d ∧ fld word 14 5 = a ∧ fld word 9 5 = b ∧ fld word 6 3 = m := by
    cases he; simp (disch := decide) only [fld, fld_word, fld_low, fld_high, fld_all, Nat.reduceSub, BitVec.reduceExtractLsb', Eng.tag, BitVec.ofNat_eq_ofNat, and_self]
  refine of_form f0 (by decide) (by decide) hz hw ?_
  rw [decodeForm, f0, f1]
  show decodeV word = _
  rw [decodeV, f1, f2, f3, f4, f5, f6]; rfl
theorem vimax (d a b : BitVec 5) (m : BitVec 3) : Statement (.vimax d a b m) := by
  intro hw word he hz
  have ⟨f0, f1, f2, f3, f4, f5, f6⟩ : fld word 29 3 = 1#3 ∧ fld word 24 5 = 1#5 ∧ fld word 0 6 = 12#6 ∧ fld word 19 5 = d ∧ fld word 14 5 = a ∧ fld word 9 5 = b ∧ fld word 6 3 = m := by
    cases he; simp (disch := decide) only [fld, fld_word, fld_low, fld_high, fld_all, Nat.reduceSub, BitVec.reduceExtractLsb', Eng.tag, BitVec.ofNat_eq_ofNat, and_self]
  refine of_form f0 (by decide) (by decide) hz hw ?_
  rw [decodeForm, f0, f1]
  show decodeV word = _
  rw [decodeV, f1, f2, f3, f4, f5, f6]; rfl
theorem viminn (d a b : BitVec 5) (m : BitVec 3) : Statement (.viminn d a b m) := by
  intro hw word he hz
  have ⟨f0, f1, f2, f3, f4, f5, f6⟩ : fld word 29 3 = 1#3 ∧ fld word 24 5 = 1#5 ∧ fld word 0 6 = 13#6 ∧ fld word 19 5 = d ∧ fld word 14 5 = a ∧ fld word 9 5 = b ∧ fld word 6 3 = m := by
    cases he; simp (disch := decide) only [fld, fld_word, fld_low, fld_high, fld_all, Nat.reduceSub, BitVec.reduceExtractLsb', Eng.tag, BitVec.ofNat_eq_ofNat, and_self]
  refine of_form f0 (by decide) (by decide) hz hw ?_
  rw [decodeForm, f0, f1]
  show decodeV word = _
  rw [decodeV, f1, f2, f3, f4, f5, f6]; rfl
theorem vimaxn (d a b : BitVec 5) (m : BitVec 3) : Statement (.vimaxn d a b m) := by
  intro hw word he hz
  have ⟨f0, f1, f2, f3, f4, f5, f6⟩ : fld word 29 3 = 1#3 ∧ fld word 24 5 = 1#5 ∧ fld word 0 6 = 14#6 ∧ fld word 19 5 = d ∧ fld word 14 5 = a ∧ fld word 9 5 = b ∧ fld word 6 3 = m := by
    cases he; simp (disch := decide) only [fld, fld_word, fld_low, fld_high, fld_all, Nat.reduceSub, BitVec.reduceExtractLsb', Eng.tag, BitVec.ofNat_eq_ofNat, and_self]
  refine of_form f0 (by decide) (by decide) hz hw ?_
  rw [decodeForm, f0, f1]
  show decodeV word = _
  rw [decodeV, f1, f2, f3, f4, f5, f6]; rfl
theorem vfma (d a b c : BitVec 5) (m : BitVec 3) : Statement (.vfma d a b c m) := by
  intro hw word he hz
  have ⟨f0, f1, f2, f3, f4, f5, f6, f7⟩ : fld word 29 3 = 1#3 ∧ fld word 24 5 = 2#5 ∧ fld word 0 1 = 0#1 ∧ fld word 19 5 = d ∧ fld word 14 5 = a ∧ fld word 9 5 = b ∧ fld word 4 5 = c ∧ fld word 1 3 = m := by
    cases he; simp (disch := decide) only [fld, fld_word, fld_low, fld_high, fld_all, Nat.reduceSub, BitVec.reduceExtractLsb', Eng.tag, BitVec.ofNat_eq_ofNat, and_self]
  refine of_form f0 (by decide) (by decide) hz hw ?_
  rw [decodeForm, f0, f1]
  show decodeV word = _
  rw [decodeV, f1, f2, f3, f4, f5, f6, f7]; rfl
theorem vfnma (d a b c : BitVec 5) (m : BitVec 3) : Statement (.vfnma d a b c m) := by
  intro hw word he hz
  have ⟨f0, f1, f2, f3, f4, f5, f6, f7⟩ : fld word 29 3 = 1#3 ∧ fld word 24 5 = 2#5 ∧ fld word 0 1 = 1#1 ∧ fld word 19 5 = d ∧ fld word 14 5 = a ∧ fld word 9 5 = b ∧ fld word 4 5 = c ∧ fld word 1 3 = m := by
    cases he; simp (disch := decide) only [fld, fld_word, fld_low, fld_high, fld_all, Nat.reduceSub, BitVec.reduceExtractLsb', Eng.tag, BitVec.ofNat_eq_ofNat, and_self]
  refine of_form f0 (by decide) (by decide) hz hw ?_
  rw [decodeForm, f0, f1]
  show decodeV word = _
  rw [decodeV, f1, f2, f3, f4, f5, f6, f7]; rfl
theorem vcmp (d : BitVec 3) (a b : BitVec 5) (m c : BitVec 3) (f n : BitVec 1) : Statement (.vcmp d a b m c f n) := by
  intro hw word he hz
  have ⟨f0, f1, f2, f3, f4, f5, f6, f7, f8, f9, f10⟩ : fld word 29 3 = 1#3 ∧ fld word 24 5 = 3#5 ∧ fld word 0 1 = 0#1 ∧ fld word 19 2 = 0#2 ∧ fld word 21 3 = d ∧ fld word 14 5 = a ∧ fld word 9 5 = b ∧ fld word 6 3 = m ∧ fld word 3 3 = c ∧ fld word 2 1 = f ∧ fld word 1 1 = n := by
    cases he; simp (disch := decide) only [fld, fld_word, fld_low, fld_high, fld_all, Nat.reduceSub, BitVec.reduceExtractLsb', Eng.tag, BitVec.ofNat_eq_ofNat, and_self]
  refine of_form f0 (by decide) (by decide) hz hw ?_
  rw [decodeForm, f0, f1]
  show decodeV word = _
  rw [decodeV, f1, f2, f3, f4, f5, f6, f7, f8, f9, f10]; rfl
theorem mand (d a b : BitVec 3) : Statement (.mand d a b) := by
  intro hw word he hz
  have ⟨f0, f1, f2, f3, f4, f5, f6, f7, f8, f9⟩ : fld word 29 3 = 1#3 ∧ fld word 24 5 = 4#5 ∧ fld word 0 6 = 0#6 ∧ fld word 6 3 = 0#3 ∧ fld word 12 2 = 0#2 ∧ fld word 17 2 = 0#2 ∧ fld word 22 2 = 0#2 ∧ fld word 19 3 = d ∧ fld word 14 3 = a ∧ fld word 9 3 = b := by
    cases he; simp (disch := decide) only [fld, fld_word, fld_low, fld_high, fld_all, Nat.reduceSub, BitVec.reduceExtractLsb', Eng.tag, BitVec.ofNat_eq_ofNat, and_self]
  refine of_form f0 (by decide) (by decide) hz hw ?_
  rw [decodeForm, f0, f1]
  show decodeV word = _
  rw [decodeV, f1, f2, f3, f4, f5, f6, f7, f8, f9]; rfl
theorem mor (d a b : BitVec 3) : Statement (.mor d a b) := by
  intro hw word he hz
  have ⟨f0, f1, f2, f3, f4, f5, f6, f7, f8, f9⟩ : fld word 29 3 = 1#3 ∧ fld word 24 5 = 4#5 ∧ fld word 0 6 = 1#6 ∧ fld word 6 3 = 0#3 ∧ fld word 12 2 = 0#2 ∧ fld word 17 2 = 0#2 ∧ fld word 22 2 = 0#2 ∧ fld word 19 3 = d ∧ fld word 14 3 = a ∧ fld word 9 3 = b := by
    cases he; simp (disch := decide) only [fld, fld_word, fld_low, fld_high, fld_all, Nat.reduceSub, BitVec.reduceExtractLsb', Eng.tag, BitVec.ofNat_eq_ofNat, and_self]
  refine of_form f0 (by decide) (by decide) hz hw ?_
  rw [decodeForm, f0, f1]
  show decodeV word = _
  rw [decodeV, f1, f2, f3, f4, f5, f6, f7, f8, f9]; rfl
theorem mxor (d a b : BitVec 3) : Statement (.mxor d a b) := by
  intro hw word he hz
  have ⟨f0, f1, f2, f3, f4, f5, f6, f7, f8, f9⟩ : fld word 29 3 = 1#3 ∧ fld word 24 5 = 4#5 ∧ fld word 0 6 = 2#6 ∧ fld word 6 3 = 0#3 ∧ fld word 12 2 = 0#2 ∧ fld word 17 2 = 0#2 ∧ fld word 22 2 = 0#2 ∧ fld word 19 3 = d ∧ fld word 14 3 = a ∧ fld word 9 3 = b := by
    cases he; simp (disch := decide) only [fld, fld_word, fld_low, fld_high, fld_all, Nat.reduceSub, BitVec.reduceExtractLsb', Eng.tag, BitVec.ofNat_eq_ofNat, and_self]
  refine of_form f0 (by decide) (by decide) hz hw ?_
  rw [decodeForm, f0, f1]
  show decodeV word = _
  rw [decodeV, f1, f2, f3, f4, f5, f6, f7, f8, f9]; rfl
theorem mnot (d a : BitVec 3) : Statement (.mnot d a) := by
  intro hw word he hz
  have ⟨f0, f1, f2, f3, f4, f5, f6, f7⟩ : fld word 29 3 = 1#3 ∧ fld word 24 5 = 4#5 ∧ fld word 0 6 = 3#6 ∧ fld word 6 8 = 0#8 ∧ fld word 17 2 = 0#2 ∧ fld word 22 2 = 0#2 ∧ fld word 19 3 = d ∧ fld word 14 3 = a := by
    cases he; simp (disch := decide) only [fld, fld_word, fld_low, fld_high, fld_all, Nat.reduceSub, BitVec.reduceExtractLsb', Eng.tag, BitVec.ofNat_eq_ofNat, and_self]
  refine of_form f0 (by decide) (by decide) hz hw ?_
  rw [decodeForm, f0, f1]
  show decodeV word = _
  rw [decodeV, f1, f2, f3, f4, f5, f6, f7]; rfl
theorem mpop (d : BitVec 5) (a : BitVec 3) : Statement (.mpop d a) := by
  intro hw word he hz
  have ⟨f0, f1, f2, f3, f4, f5, f6⟩ : fld word 29 3 = 1#3 ∧ fld word 24 5 = 4#5 ∧ fld word 0 6 = 4#6 ∧ fld word 6 8 = 0#8 ∧ fld word 17 2 = 0#2 ∧ fld word 19 5 = d ∧ fld word 14 3 = a := by
    cases he; simp (disch := decide) only [fld, fld_word, fld_low, fld_high, fld_all, Nat.reduceSub, BitVec.reduceExtractLsb', Eng.tag, BitVec.ofNat_eq_ofNat, and_self]
  refine of_form f0 (by decide) (by decide) hz hw ?_
  rw [decodeForm, f0, f1]
  show decodeV word = _
  rw [decodeV, f1, f2, f3, f4, f5, f6]; rfl
theorem mset (d : BitVec 3) (a : BitVec 5) : Statement (.mset d a) := by
  intro hw word he hz
  have ⟨f0, f1, f2, f3, f4, f5, f6⟩ : fld word 29 3 = 1#3 ∧ fld word 24 5 = 4#5 ∧ fld word 0 6 = 5#6 ∧ fld word 6 8 = 0#8 ∧ fld word 22 2 = 0#2 ∧ fld word 19 3 = d ∧ fld word 14 5 = a := by
    cases he; simp (disch := decide) only [fld, fld_word, fld_low, fld_high, fld_all, Nat.reduceSub, BitVec.reduceExtractLsb', Eng.tag, BitVec.ofNat_eq_ofNat, and_self]
  refine of_form f0 (by decide) (by decide) hz hw ?_
  rw [decodeForm, f0, f1]
  show decodeV word = _
  rw [decodeV, f1, f2, f3, f4, f5, f6]; rfl
theorem vsel (d a b : BitVec 5) (m : BitVec 3) : Statement (.vsel d a b m) := by
  intro hw word he hz
  have ⟨f0, f1, f2, f3, f4, f5, f6⟩ : fld word 29 3 = 1#3 ∧ fld word 24 5 = 5#5 ∧ fld word 0 6 = 0#6 ∧ fld word 19 5 = d ∧ fld word 14 5 = a ∧ fld word 9 5 = b ∧ fld word 6 3 = m := by
    cases he; simp (disch := decide) only [fld, fld_word, fld_low, fld_high, fld_all, Nat.reduceSub, BitVec.reduceExtractLsb', Eng.tag, BitVec.ofNat_eq_ofNat, and_self]
  refine of_form f0 (by decide) (by decide) hz hw ?_
  rw [decodeForm, f0, f1]
  show decodeV word = _
  rw [decodeV, f1, f2, f3, f4, f5, f6]; rfl
theorem vcvt (d a : BitVec 5) (n : BitVec 1) (m : BitVec 3) (c : BitVec 4) (r : BitVec 2) : Statement (.vcvt d a n m c r) := by
  intro hw word he hz
  have ⟨f0, f1, f2, f3, f4, f5, f6, f7, f8⟩ : fld word 29 3 = 1#3 ∧ fld word 24 5 = 6#5 ∧ fld word 10 4 = 0#4 ∧ fld word 19 5 = d ∧ fld word 14 5 = a ∧ fld word 9 1 = n ∧ fld word 6 3 = m ∧ fld word 2 4 = c ∧ fld word 0 2 = r := by
    cases he; simp (disch := decide) only [fld, fld_word, fld_low, fld_high, fld_all, Nat.reduceSub, BitVec.reduceExtractLsb', Eng.tag, BitVec.ofNat_eq_ofNat, and_self]
  refine of_form f0 (by decide) (by decide) hz hw ?_
  rw [decodeForm, f0, f1]
  show decodeV word = _
  rw [decodeV, f1, f2, f3, f4, f5, f6, f7, f8]; rfl
theorem vqmx (d a : BitVec 5) (f : BitVec 3) : Statement (.vqmx d a f) := by
  intro hw word he hz
  have ⟨f0, f1, f2, f3, f4, f5, f6, f7⟩ : fld word 29 3 = 1#3 ∧ fld word 24 5 = 7#5 ∧ fld word 0 6 = 0#6 ∧ fld word 6 3 = 0#3 ∧ fld word 12 2 = 0#2 ∧ fld word 19 5 = d ∧ fld word 14 5 = a ∧ fld word 9 3 = f := by
    cases he; simp (disch := decide) only [fld, fld_word, fld_low, fld_high, fld_all, Nat.reduceSub, BitVec.reduceExtractLsb', Eng.tag, BitVec.ofNat_eq_ofNat, and_self]
  refine of_form f0 (by decide) (by decide) hz hw ?_
  rw [decodeForm, f0, f1]
  show decodeV word = _
  rw [decodeV, f1, f2, f3, f4, f5, f6, f7]; rfl
theorem vdqmx (d a : BitVec 5) (f : BitVec 3) : Statement (.vdqmx d a f) := by
  intro hw word he hz
  have ⟨f0, f1, f2, f3, f4, f5, f6, f7⟩ : fld word 29 3 = 1#3 ∧ fld word 24 5 = 7#5 ∧ fld word 0 6 = 1#6 ∧ fld word 6 3 = 0#3 ∧ fld word 12 2 = 0#2 ∧ fld word 19 5 = d ∧ fld word 14 5 = a ∧ fld word 9 3 = f := by
    cases he; simp (disch := decide) only [fld, fld_word, fld_low, fld_high, fld_all, Nat.reduceSub, BitVec.reduceExtractLsb', Eng.tag, BitVec.ofNat_eq_ofNat, and_self]
  refine of_form f0 (by decide) (by decide) hz hw ?_
  rw [decodeForm, f0, f1]
  show decodeV word = _
  rw [decodeV, f1, f2, f3, f4, f5, f6, f7]; rfl
theorem vrsum (d a : BitVec 5) (m : BitVec 3) : Statement (.vrsum d a m) := by
  intro hw word he hz
  have ⟨f0, f1, f2, f3, f4, f5, f6⟩ : fld word 29 3 = 1#3 ∧ fld word 24 5 = 8#5 ∧ fld word 0 6 = 0#6 ∧ fld word 9 5 = 0#5 ∧ fld word 19 5 = d ∧ fld word 14 5 = a ∧ fld word 6 3 = m := by
    cases he; simp (disch := decide) only [fld, fld_word, fld_low, fld_high, fld_all, Nat.reduceSub, BitVec.reduceExtractLsb', Eng.tag, BitVec.ofNat_eq_ofNat, and_self]
  refine of_form f0 (by decide) (by decide) hz hw ?_
  rw [decodeForm, f0, f1]
  show decodeV word = _
  rw [decodeV, f1, f2, f3, f4, f5, f6]; rfl
theorem vrmax (d a : BitVec 5) (m : BitVec 3) : Statement (.vrmax d a m) := by
  intro hw word he hz
  have ⟨f0, f1, f2, f3, f4, f5, f6⟩ : fld word 29 3 = 1#3 ∧ fld word 24 5 = 8#5 ∧ fld word 0 6 = 1#6 ∧ fld word 9 5 = 0#5 ∧ fld word 19 5 = d ∧ fld word 14 5 = a ∧ fld word 6 3 = m := by
    cases he; simp (disch := decide) only [fld, fld_word, fld_low, fld_high, fld_all, Nat.reduceSub, BitVec.reduceExtractLsb', Eng.tag, BitVec.ofNat_eq_ofNat, and_self]
  refine of_form f0 (by decide) (by decide) hz hw ?_
  rw [decodeForm, f0, f1]
  show decodeV word = _
  rw [decodeV, f1, f2, f3, f4, f5, f6]; rfl
theorem vrmin (d a : BitVec 5) (m : BitVec 3) : Statement (.vrmin d a m) := by
  intro hw word he hz
  have ⟨f0, f1, f2, f3, f4, f5, f6⟩ : fld word 29 3 = 1#3 ∧ fld word 24 5 = 8#5 ∧ fld word 0 6 = 2#6 ∧ fld word 9 5 = 0#5 ∧ fld word 19 5 = d ∧ fld word 14 5 = a ∧ fld word 6 3 = m := by
    cases he; simp (disch := decide) only [fld, fld_word, fld_low, fld_high, fld_all, Nat.reduceSub, BitVec.reduceExtractLsb', Eng.tag, BitVec.ofNat_eq_ofNat, and_self]
  refine of_form f0 (by decide) (by decide) hz hw ?_
  rw [decodeForm, f0, f1]
  show decodeV word = _
  rw [decodeV, f1, f2, f3, f4, f5, f6]; rfl
theorem vargmax (d a : BitVec 5) (m : BitVec 3) : Statement (.vargmax d a m) := by
  intro hw word he hz
  have ⟨f0, f1, f2, f3, f4, f5, f6⟩ : fld word 29 3 = 1#3 ∧ fld word 24 5 = 8#5 ∧ fld word 0 6 = 3#6 ∧ fld word 9 5 = 0#5 ∧ fld word 19 5 = d ∧ fld word 14 5 = a ∧ fld word 6 3 = m := by
    cases he; simp (disch := decide) only [fld, fld_word, fld_low, fld_high, fld_all, Nat.reduceSub, BitVec.reduceExtractLsb', Eng.tag, BitVec.ofNat_eq_ofNat, and_self]
  refine of_form f0 (by decide) (by decide) hz hw ?_
  rw [decodeForm, f0, f1]
  show decodeV word = _
  rw [decodeV, f1, f2, f3, f4, f5, f6]; rfl
theorem vargmin (d a : BitVec 5) (m : BitVec 3) : Statement (.vargmin d a m) := by
  intro hw word he hz
  have ⟨f0, f1, f2, f3, f4, f5, f6⟩ : fld word 29 3 = 1#3 ∧ fld word 24 5 = 8#5 ∧ fld word 0 6 = 4#6 ∧ fld word 9 5 = 0#5 ∧ fld word 19 5 = d ∧ fld word 14 5 = a ∧ fld word 6 3 = m := by
    cases he; simp (disch := decide) only [fld, fld_word, fld_low, fld_high, fld_all, Nat.reduceSub, BitVec.reduceExtractLsb', Eng.tag, BitVec.ofNat_eq_ofNat, and_self]
  refine of_form f0 (by decide) (by decide) hz hw ?_
  rw [decodeForm, f0, f1]
  show decodeV word = _
  rw [decodeV, f1, f2, f3, f4, f5, f6]; rfl
theorem vrisum (d a : BitVec 5) (m : BitVec 3) : Statement (.vrisum d a m) := by
  intro hw word he hz
  have ⟨f0, f1, f2, f3, f4, f5, f6⟩ : fld word 29 3 = 1#3 ∧ fld word 24 5 = 8#5 ∧ fld word 0 6 = 5#6 ∧ fld word 9 5 = 0#5 ∧ fld word 19 5 = d ∧ fld word 14 5 = a ∧ fld word 6 3 = m := by
    cases he; simp (disch := decide) only [fld, fld_word, fld_low, fld_high, fld_all, Nat.reduceSub, BitVec.reduceExtractLsb', Eng.tag, BitVec.ofNat_eq_ofNat, and_self]
  refine of_form f0 (by decide) (by decide) hz hw ?_
  rw [decodeForm, f0, f1]
  show decodeV word = _
  rw [decodeV, f1, f2, f3, f4, f5, f6]; rfl
theorem vscan (d a : BitVec 5) (m : BitVec 3) (t : BitVec 1) : Statement (.vscan d a m t) := by
  intro hw word he hz
  have ⟨f0, f1, f2, f3, f4, f5, f6, f7⟩ : fld word 29 3 = 1#3 ∧ fld word 24 5 = 9#5 ∧ fld word 1 5 = 0#5 ∧ fld word 9 5 = 0#5 ∧ fld word 19 5 = d ∧ fld word 14 5 = a ∧ fld word 6 3 = m ∧ fld word 0 1 = t := by
    cases he; simp (disch := decide) only [fld, fld_word, fld_low, fld_high, fld_all, Nat.reduceSub, BitVec.reduceExtractLsb', Eng.tag, BitVec.ofNat_eq_ofNat, and_self]
  refine of_form f0 (by decide) (by decide) hz hw ?_
  rw [decodeForm, f0, f1]
  show decodeV word = _
  rw [decodeV, f1, f2, f3, f4, f5, f6, f7]; rfl
theorem vperm (d a b : BitVec 5) (m : BitVec 3) : Statement (.vperm d a b m) := by
  intro hw word he hz
  have ⟨f0, f1, f2, f3, f4, f5, f6⟩ : fld word 29 3 = 1#3 ∧ fld word 24 5 = 10#5 ∧ fld word 0 6 = 0#6 ∧ fld word 19 5 = d ∧ fld word 14 5 = a ∧ fld word 9 5 = b ∧ fld word 6 3 = m := by
    cases he; simp (disch := decide) only [fld, fld_word, fld_low, fld_high, fld_all, Nat.reduceSub, BitVec.reduceExtractLsb', Eng.tag, BitVec.ofNat_eq_ofNat, and_self]
  refine of_form f0 (by decide) (by decide) hz hw ?_
  rw [decodeForm, f0, f1]
  show decodeV word = _
  rw [decodeV, f1, f2, f3, f4, f5, f6]; rfl
theorem vslup (d a b : BitVec 5) (m : BitVec 3) : Statement (.vslup d a b m) := by
  intro hw word he hz
  have ⟨f0, f1, f2, f3, f4, f5, f6⟩ : fld word 29 3 = 1#3 ∧ fld word 24 5 = 10#5 ∧ fld word 0 6 = 1#6 ∧ fld word 19 5 = d ∧ fld word 14 5 = a ∧ fld word 9 5 = b ∧ fld word 6 3 = m := by
    cases he; simp (disch := decide) only [fld, fld_word, fld_low, fld_high, fld_all, Nat.reduceSub, BitVec.reduceExtractLsb', Eng.tag, BitVec.ofNat_eq_ofNat, and_self]
  refine of_form f0 (by decide) (by decide) hz hw ?_
  rw [decodeForm, f0, f1]
  show decodeV word = _
  rw [decodeV, f1, f2, f3, f4, f5, f6]; rfl
theorem vsldn (d a b : BitVec 5) (m : BitVec 3) : Statement (.vsldn d a b m) := by
  intro hw word he hz
  have ⟨f0, f1, f2, f3, f4, f5, f6⟩ : fld word 29 3 = 1#3 ∧ fld word 24 5 = 10#5 ∧ fld word 0 6 = 2#6 ∧ fld word 19 5 = d ∧ fld word 14 5 = a ∧ fld word 9 5 = b ∧ fld word 6 3 = m := by
    cases he; simp (disch := decide) only [fld, fld_word, fld_low, fld_high, fld_all, Nat.reduceSub, BitVec.reduceExtractLsb', Eng.tag, BitVec.ofNat_eq_ofNat, and_self]
  refine of_form f0 (by decide) (by decide) hz hw ?_
  rw [decodeForm, f0, f1]
  show decodeV word = _
  rw [decodeV, f1, f2, f3, f4, f5, f6]; rfl
theorem vbcast (d a b : BitVec 5) (m : BitVec 3) : Statement (.vbcast d a b m) := by
  intro hw word he hz
  have ⟨f0, f1, f2, f3, f4, f5, f6⟩ : fld word 29 3 = 1#3 ∧ fld word 24 5 = 10#5 ∧ fld word 0 6 = 3#6 ∧ fld word 19 5 = d ∧ fld word 14 5 = a ∧ fld word 9 5 = b ∧ fld word 6 3 = m := by
    cases he; simp (disch := decide) only [fld, fld_word, fld_low, fld_high, fld_all, Nat.reduceSub, BitVec.reduceExtractLsb', Eng.tag, BitVec.ofNat_eq_ofNat, and_self]
  refine of_form f0 (by decide) (by decide) hz hw ?_
  rw [decodeForm, f0, f1]
  show decodeV word = _
  rw [decodeV, f1, f2, f3, f4, f5, f6]; rfl
theorem viota (d : BitVec 5) (m : BitVec 3) : Statement (.viota d m) := by
  intro hw word he hz
  have ⟨f0, f1, f2, f3, f4, f5⟩ : fld word 29 3 = 1#3 ∧ fld word 24 5 = 10#5 ∧ fld word 0 6 = 4#6 ∧ fld word 9 10 = 0#10 ∧ fld word 19 5 = d ∧ fld word 6 3 = m := by
    cases he; simp (disch := decide) only [fld, fld_word, fld_low, fld_high, fld_all, Nat.reduceSub, BitVec.reduceExtractLsb', Eng.tag, BitVec.ofNat_eq_ofNat, and_self]
  refine of_form f0 (by decide) (by decide) hz hw ?_
  rw [decodeForm, f0, f1]
  show decodeV word = _
  rw [decodeV, f1, f2, f3, f4, f5]; rfl
theorem vsortd (d a x : BitVec 5) (m : BitVec 3) : Statement (.vsortd d a x m) := by
  intro hw word he hz
  have ⟨f0, f1, f2, f3, f4, f5, f6⟩ : fld word 29 3 = 1#3 ∧ fld word 24 5 = 11#5 ∧ fld word 0 6 = 0#6 ∧ fld word 19 5 = d ∧ fld word 14 5 = a ∧ fld word 9 5 = x ∧ fld word 6 3 = m := by
    cases he; simp (disch := decide) only [fld, fld_word, fld_low, fld_high, fld_all, Nat.reduceSub, BitVec.reduceExtractLsb', Eng.tag, BitVec.ofNat_eq_ofNat, and_self]
  refine of_form f0 (by decide) (by decide) hz hw ?_
  rw [decodeForm, f0, f1]
  show decodeV word = _
  rw [decodeV, f1, f2, f3, f4, f5, f6]; rfl
theorem vrng (d a b : BitVec 5) (m : BitVec 3) (t : BitVec 1) : Statement (.vrng d a b m t) := by
  intro hw word he hz
  have ⟨f0, f1, f2, f3, f4, f5, f6, f7⟩ : fld word 29 3 = 1#3 ∧ fld word 24 5 = 12#5 ∧ fld word 1 5 = 0#5 ∧ fld word 19 5 = d ∧ fld word 14 5 = a ∧ fld word 9 5 = b ∧ fld word 6 3 = m ∧ fld word 0 1 = t := by
    cases he; simp (disch := decide) only [fld, fld_word, fld_low, fld_high, fld_all, Nat.reduceSub, BitVec.reduceExtractLsb', Eng.tag, BitVec.ofNat_eq_ofNat, and_self]
  refine of_form f0 (by decide) (by decide) hz hw ?_
  rw [decodeForm, f0, f1]
  show decodeV word = _
  rw [decodeV, f1, f2, f3, f4, f5, f6, f7]; rfl
theorem vld (v : BitVec 5) (g : BitVec 4) (m : BitVec 3) (c : BitVec 4) (o : BitVec 8) : Statement (.vld v g m c o) := by
  intro hw word he hz
  have ⟨f0, f1, f2, f3, f4, f5, f6⟩ : fld word 29 3 = 1#3 ∧ fld word 24 5 = 13#5 ∧ fld word 19 5 = v ∧ fld word 15 4 = g ∧ fld word 12 3 = m ∧ fld word 8 4 = c ∧ fld word 0 8 = o := by
    cases he; simp (disch := decide) only [fld, fld_word, fld_low, fld_high, fld_all, Nat.reduceSub, BitVec.reduceExtractLsb', Eng.tag, BitVec.ofNat_eq_ofNat, and_self]
  refine of_form f0 (by decide) (by decide) hz hw ?_
  rw [decodeForm, f0, f1]
  show decodeV word = _
  rw [decodeV, f1, f2, f3, f4, f5, f6]; rfl
theorem vst (v : BitVec 5) (g : BitVec 4) (m : BitVec 3) (c : BitVec 4) (o : BitVec 8) : Statement (.vst v g m c o) := by
  intro hw word he hz
  have ⟨f0, f1, f2, f3, f4, f5, f6⟩ : fld word 29 3 = 1#3 ∧ fld word 24 5 = 14#5 ∧ fld word 19 5 = v ∧ fld word 15 4 = g ∧ fld word 12 3 = m ∧ fld word 8 4 = c ∧ fld word 0 8 = o := by
    cases he; simp (disch := decide) only [fld, fld_word, fld_low, fld_high, fld_all, Nat.reduceSub, BitVec.reduceExtractLsb', Eng.tag, BitVec.ofNat_eq_ofNat, and_self]
  refine of_form f0 (by decide) (by decide) hz hw ?_
  rw [decodeForm, f0, f1]
  show decodeV word = _
  rw [decodeV, f1, f2, f3, f4, f5, f6]; rfl
theorem vlds (v : BitVec 5) (g : BitVec 4) (m : BitVec 3) (c s : BitVec 4) : Statement (.vlds v g m c s) := by
  intro hw word he hz
  have ⟨f0, f1, f2, f3, f4, f5, f6, f7, f8⟩ : fld word 29 3 = 1#3 ∧ fld word 24 5 = 15#5 ∧ fld word 7 1 = 0#1 ∧ fld word 0 3 = 0#3 ∧ fld word 19 5 = v ∧ fld word 15 4 = g ∧ fld word 12 3 = m ∧ fld word 8 4 = c ∧ fld word 3 4 = s := by
    cases he; simp (disch := decide) only [fld, fld_word, fld_low, fld_high, fld_all, Nat.reduceSub, BitVec.reduceExtractLsb', Eng.tag, BitVec.ofNat_eq_ofNat, and_self]
  refine of_form f0 (by decide) (by decide) hz hw ?_
  rw [decodeForm, f0, f1]
  show decodeV word = _
  rw [decodeV, f1, f2, f3, f4, f5, f6, f7, f8]; rfl
theorem vsts (v : BitVec 5) (g : BitVec 4) (m : BitVec 3) (c s : BitVec 4) : Statement (.vsts v g m c s) := by
  intro hw word he hz
  have ⟨f0, f1, f2, f3, f4, f5, f6, f7, f8⟩ : fld word 29 3 = 1#3 ∧ fld word 24 5 = 15#5 ∧ fld word 7 1 = 1#1 ∧ fld word 0 3 = 0#3 ∧ fld word 19 5 = v ∧ fld word 15 4 = g ∧ fld word 12 3 = m ∧ fld word 8 4 = c ∧ fld word 3 4 = s := by
    cases he; simp (disch := decide) only [fld, fld_word, fld_low, fld_high, fld_all, Nat.reduceSub, BitVec.reduceExtractLsb', Eng.tag, BitVec.ofNat_eq_ofNat, and_self]
  refine of_form f0 (by decide) (by decide) hz hw ?_
  rw [decodeForm, f0, f1]
  show decodeV word = _
  rw [decodeV, f1, f2, f3, f4, f5, f6, f7, f8]; rfl
theorem vgth (v : BitVec 5) (g : BitVec 4) (m : BitVec 3) (c x : BitVec 4) : Statement (.vgth v g m c x) := by
  intro hw word he hz
  have ⟨f0, f1, f2, f3, f4, f5, f6, f7, f8⟩ : fld word 29 3 = 1#3 ∧ fld word 24 5 = 16#5 ∧ fld word 7 1 = 0#1 ∧ fld word 0 3 = 0#3 ∧ fld word 19 5 = v ∧ fld word 15 4 = g ∧ fld word 12 3 = m ∧ fld word 8 4 = c ∧ fld word 3 4 = x := by
    cases he; simp (disch := decide) only [fld, fld_word, fld_low, fld_high, fld_all, Nat.reduceSub, BitVec.reduceExtractLsb', Eng.tag, BitVec.ofNat_eq_ofNat, and_self]
  refine of_form f0 (by decide) (by decide) hz hw ?_
  rw [decodeForm, f0, f1]
  show decodeV word = _
  rw [decodeV, f1, f2, f3, f4, f5, f6, f7, f8]; rfl
theorem vsct (v : BitVec 5) (g : BitVec 4) (m : BitVec 3) (c x : BitVec 4) : Statement (.vsct v g m c x) := by
  intro hw word he hz
  have ⟨f0, f1, f2, f3, f4, f5, f6, f7, f8⟩ : fld word 29 3 = 1#3 ∧ fld word 24 5 = 16#5 ∧ fld word 7 1 = 1#1 ∧ fld word 0 3 = 0#3 ∧ fld word 19 5 = v ∧ fld word 15 4 = g ∧ fld word 12 3 = m ∧ fld word 8 4 = c ∧ fld word 3 4 = x := by
    cases he; simp (disch := decide) only [fld, fld_word, fld_low, fld_high, fld_all, Nat.reduceSub, BitVec.reduceExtractLsb', Eng.tag, BitVec.ofNat_eq_ofNat, and_self]
  refine of_form f0 (by decide) (by decide) hz hw ?_
  rw [decodeForm, f0, f1]
  show decodeV word = _
  rw [decodeV, f1, f2, f3, f4, f5, f6, f7, f8]; rfl
theorem vsplf (d : BitVec 5) (i : BitVec 19) : Statement (.vsplf d i) := by
  intro hw word he hz
  have ⟨f0, f1, f2, f3⟩ : fld word 29 3 = 1#3 ∧ fld word 24 5 = 17#5 ∧ fld word 19 5 = d ∧ fld word 0 19 = i := by
    cases he; simp (disch := decide) only [fld, fld_word, fld_low, fld_high, fld_all, Nat.reduceSub, BitVec.reduceExtractLsb', Eng.tag, BitVec.ofNat_eq_ofNat, and_self]
  refine of_form f0 (by decide) (by decide) hz hw ?_
  rw [decodeForm, f0, f1]
  show decodeV word = _
  rw [decodeV, f1, f2, f3]; rfl
theorem vspli (d : BitVec 5) (i : BitVec 19) : Statement (.vspli d i) := by
  intro hw word he hz
  have ⟨f0, f1, f2, f3⟩ : fld word 29 3 = 1#3 ∧ fld word 24 5 = 18#5 ∧ fld word 19 5 = d ∧ fld word 0 19 = i := by
    cases he; simp (disch := decide) only [fld, fld_word, fld_low, fld_high, fld_all, Nat.reduceSub, BitVec.reduceExtractLsb', Eng.tag, BitVec.ofNat_eq_ofNat, and_self]
  refine of_form f0 (by decide) (by decide) hz hw ?_
  rw [decodeForm, f0, f1]
  show decodeV word = _
  rw [decodeV, f1, f2, f3]; rfl
theorem vmov (d a : BitVec 5) (m : BitVec 3) : Statement (.vmov d a m) := by
  intro hw word he hz
  have ⟨f0, f1, f2, f3, f4, f5, f6⟩ : fld word 29 3 = 1#3 ∧ fld word 24 5 = 19#5 ∧ fld word 0 6 = 0#6 ∧ fld word 9 5 = 0#5 ∧ fld word 19 5 = d ∧ fld word 14 5 = a ∧ fld word 6 3 = m := by
    cases he; simp (disch := decide) only [fld, fld_word, fld_low, fld_high, fld_all, Nat.reduceSub, BitVec.reduceExtractLsb', Eng.tag, BitVec.ofNat_eq_ofNat, and_self]
  refine of_form f0 (by decide) (by decide) hz hw ?_
  rw [decodeForm, f0, f1]
  show decodeV word = _
  rw [decodeV, f1, f2, f3, f4, f5, f6]; rfl
theorem vins (d : BitVec 5) (g : BitVec 4) (n : BitVec 8) : Statement (.vins d g n) := by
  intro hw word he hz
  have ⟨f0, f1, f2, f3, f4, f5, f6⟩ : fld word 29 3 = 1#3 ∧ fld word 24 5 = 19#5 ∧ fld word 0 6 = 1#6 ∧ fld word 18 1 = 0#1 ∧ fld word 19 5 = d ∧ fld word 14 4 = g ∧ fld word 6 8 = n := by
    cases he; simp (disch := decide) only [fld, fld_word, fld_low, fld_high, fld_all, Nat.reduceSub, BitVec.reduceExtractLsb', Eng.tag, BitVec.ofNat_eq_ofNat, and_self]
  refine of_form f0 (by decide) (by decide) hz hw ?_
  rw [decodeForm, f0, f1]
  show decodeV word = _
  rw [decodeV, f1, f2, f3, f4, f5, f6]; rfl
theorem vext (g : BitVec 4) (a : BitVec 5) (n : BitVec 8) : Statement (.vext g a n) := by
  intro hw word he hz
  have ⟨f0, f1, f2, f3, f4, f5, f6⟩ : fld word 29 3 = 1#3 ∧ fld word 24 5 = 19#5 ∧ fld word 0 6 = 2#6 ∧ fld word 23 1 = 0#1 ∧ fld word 19 4 = g ∧ fld word 14 5 = a ∧ fld word 6 8 = n := by
    cases he; simp (disch := decide) only [fld, fld_word, fld_low, fld_high, fld_all, Nat.reduceSub, BitVec.reduceExtractLsb', Eng.tag, BitVec.ofNat_eq_ofNat, and_self]
  refine of_form f0 (by decide) (by decide) hz hw ?_
  rw [decodeForm, f0, f1]
  show decodeV word = _
  rw [decodeV, f1, f2, f3, f4, f5, f6]; rfl
theorem mld (d : BitVec 4) : Statement (.mld d) := by
  intro hw word he hz
  have ⟨f0, f1, f2, f3, f4, f5⟩ : fld word 29 3 = 2#3 ∧ fld word 24 5 = 0#5 ∧ fld word 0 6 = 0#6 ∧ fld word 6 12 = 0#12 ∧ fld word 22 2 = 0#2 ∧ fld word 18 4 = d := by
    cases he; simp (disch := decide) only [fld, fld_word, fld_low, fld_high, fld_all, Nat.reduceSub, BitVec.reduceExtractLsb', Eng.tag, BitVec.ofNat_eq_ofNat, and_self]
  refine of_form f0 (by decide) (by decide) hz hw ?_
  rw [decodeForm, f0, f1]
  show decodeM word = _
  rw [decodeM, f1, f2, f3, f4, f5]; rfl
theorem mldAcc (d : BitVec 6) : Statement (.mldAcc d) := by
  intro hw word he hz
  have ⟨f0, f1, f2, f3, f4⟩ : fld word 29 3 = 2#3 ∧ fld word 24 5 = 0#5 ∧ fld word 0 6 = 1#6 ∧ fld word 6 12 = 0#12 ∧ fld word 18 6 = d := by
    cases he; simp (disch := decide) only [fld, fld_word, fld_low, fld_high, fld_all, Nat.reduceSub, BitVec.reduceExtractLsb', Eng.tag, BitVec.ofNat_eq_ofNat, and_self]
  refine of_form f0 (by decide) (by decide) hz hw ?_
  rw [decodeForm, f0, f1]
  show decodeM word = _
  rw [decodeM, f1, f2, f3, f4]; rfl
theorem mst (d : BitVec 6) : Statement (.mst d) := by
  intro hw word he hz
  have ⟨f0, f1, f2, f3⟩ : fld word 29 3 = 2#3 ∧ fld word 24 5 = 1#5 ∧ fld word 0 18 = 0#18 ∧ fld word 18 6 = d := by
    cases he; simp (disch := decide) only [fld, fld_word, fld_low, fld_high, fld_all, Nat.reduceSub, BitVec.reduceExtractLsb', Eng.tag, BitVec.ofNat_eq_ofNat, and_self]
  refine of_form f0 (by decide) (by decide) hz hw ?_
  rw [decodeForm, f0, f1]
  show decodeM word = _
  rw [decodeM, f1, f2, f3]; rfl
theorem mzero (d : BitVec 6) : Statement (.mzero d) := by
  intro hw word he hz
  have ⟨f0, f1, f2, f3⟩ : fld word 29 3 = 2#3 ∧ fld word 24 5 = 2#5 ∧ fld word 0 18 = 0#18 ∧ fld word 18 6 = d := by
    cases he; simp (disch := decide) only [fld, fld_word, fld_low, fld_high, fld_all, Nat.reduceSub, BitVec.reduceExtractLsb', Eng.tag, BitVec.ofNat_eq_ofNat, and_self]
  refine of_form f0 (by decide) (by decide) hz hw ?_
  rw [decodeForm, f0, f1]
  show decodeM word = _
  rw [decodeM, f1, f2, f3]; rfl
theorem mmov (d a : BitVec 6) : Statement (.mmov d a) := by
  intro hw word he hz
  have ⟨f0, f1, f2, f3, f4⟩ : fld word 29 3 = 2#3 ∧ fld word 24 5 = 3#5 ∧ fld word 0 12 = 0#12 ∧ fld word 18 6 = d ∧ fld word 12 6 = a := by
    cases he; simp (disch := decide) only [fld, fld_word, fld_low, fld_high, fld_all, Nat.reduceSub, BitVec.reduceExtractLsb', Eng.tag, BitVec.ofNat_eq_ofNat, and_self]
  refine of_form f0 (by decide) (by decide) hz hw ?_
  rw [decodeForm, f0, f1]
  show decodeM word = _
  rw [decodeM, f1, f2, f3, f4]; rfl
theorem mma (d : BitVec 6) (b : BitVec 4) (f g : BitVec 3) : Statement (.mma d b f g) := by
  intro hw word he hz
  have ⟨f0, f1, f2, f3, f4, f5, f6⟩ : fld word 29 3 = 2#3 ∧ fld word 24 5 = 4#5 ∧ fld word 10 8 = 0#8 ∧ fld word 18 6 = d ∧ fld word 6 4 = b ∧ fld word 3 3 = f ∧ fld word 0 3 = g := by
    cases he; simp (disch := decide) only [fld, fld_word, fld_low, fld_high, fld_all, Nat.reduceSub, BitVec.reduceExtractLsb', Eng.tag, BitVec.ofNat_eq_ofNat, and_self]
  refine of_form f0 (by decide) (by decide) hz hw ?_
  rw [decodeForm, f0, f1]
  show decodeM word = _
  rw [decodeM, f1, f2, f3, f4, f5, f6]; rfl
theorem moutl (d : BitVec 6) (b : BitVec 4) (f g : BitVec 3) : Statement (.moutl d b f g) := by
  intro hw word he hz
  have ⟨f0, f1, f2, f3, f4, f5, f6⟩ : fld word 29 3 = 2#3 ∧ fld word 24 5 = 5#5 ∧ fld word 10 8 = 0#8 ∧ fld word 18 6 = d ∧ fld word 6 4 = b ∧ fld word 3 3 = f ∧ fld word 0 3 = g := by
    cases he; simp (disch := decide) only [fld, fld_word, fld_low, fld_high, fld_all, Nat.reduceSub, BitVec.reduceExtractLsb', Eng.tag, BitVec.ofNat_eq_ofNat, and_self]
  refine of_form f0 (by decide) (by decide) hz hw ?_
  rw [decodeForm, f0, f1]
  show decodeM word = _
  rw [decodeM, f1, f2, f3, f4, f5, f6]; rfl
theorem mhad (d a : BitVec 6) : Statement (.mhad d a) := by
  intro hw word he hz
  have ⟨f0, f1, f2, f3, f4⟩ : fld word 29 3 = 2#3 ∧ fld word 24 5 = 6#5 ∧ fld word 0 12 = 0#12 ∧ fld word 18 6 = d ∧ fld word 12 6 = a := by
    cases he; simp (disch := decide) only [fld, fld_word, fld_low, fld_high, fld_all, Nat.reduceSub, BitVec.reduceExtractLsb', Eng.tag, BitVec.ofNat_eq_ofNat, and_self]
  refine of_form f0 (by decide) (by decide) hz hw ?_
  rw [decodeForm, f0, f1]
  show decodeM word = _
  rw [decodeM, f1, f2, f3, f4]; rfl
theorem mdrain (d : BitVec 6) (z : BitVec 1) (f : BitVec 3) : Statement (.mdrain d z f) := by
  intro hw word he hz
  have ⟨f0, f1, f2, f3, f4, f5⟩ : fld word 29 3 = 2#3 ∧ fld word 24 5 = 7#5 ∧ fld word 4 14 = 0#14 ∧ fld word 18 6 = d ∧ fld word 3 1 = z ∧ fld word 0 3 = f := by
    cases he; simp (disch := decide) only [fld, fld_word, fld_low, fld_high, fld_all, Nat.reduceSub, BitVec.reduceExtractLsb', Eng.tag, BitVec.ofNat_eq_ofNat, and_self]
  refine of_form f0 (by decide) (by decide) hz hw ?_
  rw [decodeForm, f0, f1]
  show decodeM word = _
  rw [decodeM, f1, f2, f3, f4, f5]; rfl
theorem maddt (d a b : BitVec 6) : Statement (.maddt d a b) := by
  intro hw word he hz
  have ⟨f0, f1, f2, f3, f4, f5⟩ : fld word 29 3 = 2#3 ∧ fld word 24 5 = 8#5 ∧ fld word 0 6 = 0#6 ∧ fld word 18 6 = d ∧ fld word 12 6 = a ∧ fld word 6 6 = b := by
    cases he; simp (disch := decide) only [fld, fld_word, fld_low, fld_high, fld_all, Nat.reduceSub, BitVec.reduceExtractLsb', Eng.tag, BitVec.ofNat_eq_ofNat, and_self]
  refine of_form f0 (by decide) (by decide) hz hw ?_
  rw [decodeForm, f0, f1]
  show decodeM word = _
  rw [decodeM, f1, f2, f3, f4, f5]; rfl
theorem maddtI (d a b : BitVec 6) : Statement (.maddtI d a b) := by
  intro hw word he hz
  have ⟨f0, f1, f2, f3, f4, f5⟩ : fld word 29 3 = 2#3 ∧ fld word 24 5 = 8#5 ∧ fld word 0 6 = 1#6 ∧ fld word 18 6 = d ∧ fld word 12 6 = a ∧ fld word 6 6 = b := by
    cases he; simp (disch := decide) only [fld, fld_word, fld_low, fld_high, fld_all, Nat.reduceSub, BitVec.reduceExtractLsb', Eng.tag, BitVec.ofNat_eq_ofNat, and_self]
  refine of_form f0 (by decide) (by decide) hz hw ?_
  rw [decodeForm, f0, f1]
  show decodeM word = _
  rw [decodeM, f1, f2, f3, f4, f5]; rfl
theorem mscl (d a : BitVec 6) : Statement (.mscl d a) := by
  intro hw word he hz
  have ⟨f0, f1, f2, f3, f4, f5⟩ : fld word 29 3 = 2#3 ∧ fld word 24 5 = 9#5 ∧ fld word 0 6 = 0#6 ∧ fld word 6 6 = 0#6 ∧ fld word 18 6 = d ∧ fld word 12 6 = a := by
    cases he; simp (disch := decide) only [fld, fld_word, fld_low, fld_high, fld_all, Nat.reduceSub, BitVec.reduceExtractLsb', Eng.tag, BitVec.ofNat_eq_ofNat, and_self]
  refine of_form f0 (by decide) (by decide) hz hw ?_
  rw [decodeForm, f0, f1]
  show decodeM word = _
  rw [decodeM, f1, f2, f3, f4, f5]; rfl
theorem msclCol (d a : BitVec 6) : Statement (.msclCol d a) := by
  intro hw word he hz
  have ⟨f0, f1, f2, f3, f4, f5⟩ : fld word 29 3 = 2#3 ∧ fld word 24 5 = 9#5 ∧ fld word 0 6 = 1#6 ∧ fld word 6 6 = 0#6 ∧ fld word 18 6 = d ∧ fld word 12 6 = a := by
    cases he; simp (disch := decide) only [fld, fld_word, fld_low, fld_high, fld_all, Nat.reduceSub, BitVec.reduceExtractLsb', Eng.tag, BitVec.ofNat_eq_ofNat, and_self]
  refine of_form f0 (by decide) (by decide) hz hw ?_
  rw [decodeForm, f0, f1]
  show decodeM word = _
  rw [decodeM, f1, f2, f3, f4, f5]; rfl
theorem msclRow (d a : BitVec 6) : Statement (.msclRow d a) := by
  intro hw word he hz
  have ⟨f0, f1, f2, f3, f4, f5⟩ : fld word 29 3 = 2#3 ∧ fld word 24 5 = 9#5 ∧ fld word 0 6 = 2#6 ∧ fld word 6 6 = 0#6 ∧ fld word 18 6 = d ∧ fld word 12 6 = a := by
    cases he; simp (disch := decide) only [fld, fld_word, fld_low, fld_high, fld_all, Nat.reduceSub, BitVec.reduceExtractLsb', Eng.tag, BitVec.ofNat_eq_ofNat, and_self]
  refine of_form f0 (by decide) (by decide) hz hw ?_
  rw [decodeForm, f0, f1]
  show decodeM word = _
  rw [decodeM, f1, f2, f3, f4, f5]; rfl
theorem mfmt : Statement (.mfmt) := by
  intro hw word he hz
  have ⟨f0, f1, f2⟩ : fld word 29 3 = 2#3 ∧ fld word 24 5 = 10#5 ∧ fld word 0 24 = 0#24 := by
    cases he; simp (disch := decide) only [fld, fld_word, fld_low, fld_high, fld_all, Nat.reduceSub, BitVec.reduceExtractLsb', Eng.tag, BitVec.ofNat_eq_ofNat, and_self]
  refine of_form f0 (by decide) (by decide) hz hw ?_
  rw [decodeForm, f0, f1]
  show decodeM word = _
  rw [decodeM, f1, f2]; rfl
theorem bmv : Statement (.bmv) := by
  intro hw word he hz
  have ⟨f0, f1, f2⟩ : fld word 29 3 = 2#3 ∧ fld word 24 5 = 11#5 ∧ fld word 0 24 = 0#24 := by
    cases he; simp (disch := decide) only [fld, fld_word, fld_low, fld_high, fld_all, Nat.reduceSub, BitVec.reduceExtractLsb', Eng.tag, BitVec.ofNat_eq_ofNat, and_self]
  refine of_form f0 (by decide) (by decide) hz hw ?_
  rw [decodeForm, f0, f1]
  show decodeM word = _
  rw [decodeM, f1, f2]; rfl
theorem msave (d : BitVec 4) : Statement (.msave d) := by
  intro hw word he hz
  have ⟨f0, f1, f2, f3, f4⟩ : fld word 29 3 = 2#3 ∧ fld word 24 5 = 12#5 ∧ fld word 0 18 = 0#18 ∧ fld word 22 2 = 0#2 ∧ fld word 18 4 = d := by
    cases he; simp (disch := decide) only [fld, fld_word, fld_low, fld_high, fld_all, Nat.reduceSub, BitVec.reduceExtractLsb', Eng.tag, BitVec.ofNat_eq_ofNat, and_self]
  refine of_form f0 (by decide) (by decide) hz hw ?_
  rw [decodeForm, f0, f1]
  show decodeM word = _
  rw [decodeM, f1, f2, f3, f4]; rfl
theorem mrest (d : BitVec 4) : Statement (.mrest d) := by
  intro hw word he hz
  have ⟨f0, f1, f2, f3, f4⟩ : fld word 29 3 = 2#3 ∧ fld word 24 5 = 13#5 ∧ fld word 0 18 = 0#18 ∧ fld word 22 2 = 0#2 ∧ fld word 18 4 = d := by
    cases he; simp (disch := decide) only [fld, fld_word, fld_low, fld_high, fld_all, Nat.reduceSub, BitVec.reduceExtractLsb', Eng.tag, BitVec.ofNat_eq_ofNat, and_self]
  refine of_form f0 (by decide) (by decide) hz hw ?_
  rw [decodeForm, f0, f1]
  show decodeM word = _
  rw [decodeM, f1, f2, f3, f4]; rfl
theorem copy : Statement (.copy) := by
  intro hw word he hz
  have ⟨f0, f1, f2⟩ : fld word 29 3 = 3#3 ∧ fld word 24 5 = 0#5 ∧ fld word 0 24 = 0#24 := by
    cases he; simp (disch := decide) only [fld, fld_word, fld_low, fld_high, fld_all, Nat.reduceSub, BitVec.reduceExtractLsb', Eng.tag, BitVec.ofNat_eq_ofNat, and_self]
  refine of_form f0 (by decide) (by decide) hz hw ?_
  rw [decodeForm, f0, f1]
  show decodeC word = _
  rw [decodeC, f1, f2]; rfl
theorem copyl : Statement (.copyl) := by
  intro hw word he hz
  have ⟨f0, f1, f2⟩ : fld word 29 3 = 3#3 ∧ fld word 24 5 = 1#5 ∧ fld word 0 24 = 0#24 := by
    cases he; simp (disch := decide) only [fld, fld_word, fld_low, fld_high, fld_all, Nat.reduceSub, BitVec.reduceExtractLsb', Eng.tag, BitVec.ofNat_eq_ofNat, and_self]
  refine of_form f0 (by decide) (by decide) hz hw ?_
  rw [decodeForm, f0, f1]
  show decodeC word = _
  rw [decodeC, f1, f2]; rfl
theorem copyi : Statement (.copyi) := by
  intro hw word he hz
  have ⟨f0, f1, f2⟩ : fld word 29 3 = 3#3 ∧ fld word 24 5 = 2#5 ∧ fld word 0 24 = 0#24 := by
    cases he; simp (disch := decide) only [fld, fld_word, fld_low, fld_high, fld_all, Nat.reduceSub, BitVec.reduceExtractLsb', Eng.tag, BitVec.ofNat_eq_ofNat, and_self]
  refine of_form f0 (by decide) (by decide) hz hw ?_
  rw [decodeForm, f0, f1]
  show decodeC word = _
  rw [decodeC, f1, f2]; rfl
theorem cfill : Statement (.cfill) := by
  intro hw word he hz
  have ⟨f0, f1, f2⟩ : fld word 29 3 = 3#3 ∧ fld word 24 5 = 3#5 ∧ fld word 0 24 = 0#24 := by
    cases he; simp (disch := decide) only [fld, fld_word, fld_low, fld_high, fld_all, Nat.reduceSub, BitVec.reduceExtractLsb', Eng.tag, BitVec.ofNat_eq_ofNat, and_self]
  refine of_form f0 (by decide) (by decide) hz hw ?_
  rw [decodeForm, f0, f1]
  show decodeC word = _
  rw [decodeC, f1, f2]; rfl
theorem ccomb (g : BitVec 4) : Statement (.ccomb g) := by
  intro hw word he hz
  have ⟨f0, f1, f2, f3, f4⟩ : fld word 29 3 = 3#3 ∧ fld word 24 5 = 4#5 ∧ fld word 0 12 = 0#12 ∧ fld word 16 8 = 0#8 ∧ fld word 12 4 = g := by
    cases he; simp (disch := decide) only [fld, fld_word, fld_low, fld_high, fld_all, Nat.reduceSub, BitVec.reduceExtractLsb', Eng.tag, BitVec.ofNat_eq_ofNat, and_self]
  refine of_form f0 (by decide) (by decide) hz hw ?_
  rw [decodeForm, f0, f1]
  show decodeC word = _
  rw [decodeC, f1, f2, f3, f4]; rfl
theorem scacc : Statement (.scacc) := by
  intro hw word he hz
  have ⟨f0, f1, f2⟩ : fld word 29 3 = 3#3 ∧ fld word 24 5 = 5#5 ∧ fld word 0 24 = 0#24 := by
    cases he; simp (disch := decide) only [fld, fld_word, fld_low, fld_high, fld_all, Nat.reduceSub, BitVec.reduceExtractLsb', Eng.tag, BitVec.ofNat_eq_ofNat, and_self]
  refine of_form f0 (by decide) (by decide) hz hw ?_
  rw [decodeForm, f0, f1]
  show decodeC word = _
  rw [decodeC, f1, f2]; rfl
theorem sfacc : Statement (.sfacc) := by
  intro hw word he hz
  have ⟨f0, f1, f2⟩ : fld word 29 3 = 3#3 ∧ fld word 24 5 = 6#5 ∧ fld word 0 24 = 0#24 := by
    cases he; simp (disch := decide) only [fld, fld_word, fld_low, fld_high, fld_all, Nat.reduceSub, BitVec.reduceExtractLsb', Eng.tag, BitVec.ofNat_eq_ofNat, and_self]
  refine of_form f0 (by decide) (by decide) hz hw ?_
  rw [decodeForm, f0, f1]
  show decodeC word = _
  rw [decodeC, f1, f2]; rfl
theorem fsend : Statement (.fsend) := by
  intro hw word he hz
  have ⟨f0, f1, f2⟩ : fld word 29 3 = 4#3 ∧ fld word 24 5 = 0#5 ∧ fld word 0 24 = 0#24 := by
    cases he; simp (disch := decide) only [fld, fld_word, fld_low, fld_high, fld_all, Nat.reduceSub, BitVec.reduceExtractLsb', Eng.tag, BitVec.ofNat_eq_ofNat, and_self]
  refine of_form f0 (by decide) (by decide) hz hw ?_
  rw [decodeForm, f0, f1]
  show decodeF word = _
  rw [decodeF, f1, f2]; rfl
theorem fsacc (g : BitVec 4) : Statement (.fsacc g) := by
  intro hw word he hz
  have ⟨f0, f1, f2, f3, f4⟩ : fld word 29 3 = 4#3 ∧ fld word 24 5 = 1#5 ∧ fld word 0 12 = 0#12 ∧ fld word 16 8 = 0#8 ∧ fld word 12 4 = g := by
    cases he; simp (disch := decide) only [fld, fld_word, fld_low, fld_high, fld_all, Nat.reduceSub, BitVec.reduceExtractLsb', Eng.tag, BitVec.ofNat_eq_ofNat, and_self]
  refine of_form f0 (by decide) (by decide) hz hw ?_
  rw [decodeForm, f0, f1]
  show decodeF word = _
  rw [decodeF, f1, f2, f3, f4]; rfl
theorem fqsend (g : BitVec 4) : Statement (.fqsend g) := by
  intro hw word he hz
  have ⟨f0, f1, f2, f3, f4⟩ : fld word 29 3 = 4#3 ∧ fld word 24 5 = 2#5 ∧ fld word 0 12 = 0#12 ∧ fld word 16 8 = 0#8 ∧ fld word 12 4 = g := by
    cases he; simp (disch := decide) only [fld, fld_word, fld_low, fld_high, fld_all, Nat.reduceSub, BitVec.reduceExtractLsb', Eng.tag, BitVec.ofNat_eq_ofNat, and_self]
  refine of_form f0 (by decide) (by decide) hz hw ?_
  rw [decodeForm, f0, f1]
  show decodeF word = _
  rw [decodeF, f1, f2, f3, f4]; rfl
theorem wmapw (g : BitVec 4) : Statement (.wmapw g) := by
  intro hw word he hz
  have ⟨f0, f1, f2, f3, f4⟩ : fld word 29 3 = 4#3 ∧ fld word 24 5 = 3#5 ∧ fld word 0 12 = 0#12 ∧ fld word 16 8 = 0#8 ∧ fld word 12 4 = g := by
    cases he; simp (disch := decide) only [fld, fld_word, fld_low, fld_high, fld_all, Nat.reduceSub, BitVec.reduceExtractLsb', Eng.tag, BitVec.ofNat_eq_ofNat, and_self]
  refine of_form f0 (by decide) (by decide) hz hw ?_
  rw [decodeForm, f0, f1]
  show decodeF word = _
  rw [decodeF, f1, f2, f3, f4]; rfl
theorem wmapr (g : BitVec 4) : Statement (.wmapr g) := by
  intro hw word he hz
  have ⟨f0, f1, f2, f3, f4⟩ : fld word 29 3 = 4#3 ∧ fld word 24 5 = 4#5 ∧ fld word 0 12 = 0#12 ∧ fld word 16 8 = 0#8 ∧ fld word 12 4 = g := by
    cases he; simp (disch := decide) only [fld, fld_word, fld_low, fld_high, fld_all, Nat.reduceSub, BitVec.reduceExtractLsb', Eng.tag, BitVec.ofNat_eq_ofNat, and_self]
  refine of_form f0 (by decide) (by decide) hz hw ?_
  rw [decodeForm, f0, f1]
  show decodeF word = _
  rw [decodeF, f1, f2, f3, f4]; rfl
theorem rxww (g : BitVec 4) : Statement (.rxww g) := by
  intro hw word he hz
  have ⟨f0, f1, f2, f3, f4⟩ : fld word 29 3 = 4#3 ∧ fld word 24 5 = 5#5 ∧ fld word 0 12 = 0#12 ∧ fld word 16 8 = 0#8 ∧ fld word 12 4 = g := by
    cases he; simp (disch := decide) only [fld, fld_word, fld_low, fld_high, fld_all, Nat.reduceSub, BitVec.reduceExtractLsb', Eng.tag, BitVec.ofNat_eq_ofNat, and_self]
  refine of_form f0 (by decide) (by decide) hz hw ?_
  rw [decodeForm, f0, f1]
  show decodeF word = _
  rw [decodeF, f1, f2, f3, f4]; rfl
theorem fslotw : Statement (.fslotw) := by
  intro hw word he hz
  have ⟨f0, f1, f2⟩ : fld word 29 3 = 4#3 ∧ fld word 24 5 = 6#5 ∧ fld word 0 24 = 0#24 := by
    cases he; simp (disch := decide) only [fld, fld_word, fld_low, fld_high, fld_all, Nat.reduceSub, BitVec.reduceExtractLsb', Eng.tag, BitVec.ofNat_eq_ofNat, and_self]
  refine of_form f0 (by decide) (by decide) hz hw ?_
  rw [decodeForm, f0, f1]
  show decodeF word = _
  rw [decodeF, f1, f2]; rfl
theorem fslotgo : Statement (.fslotgo) := by
  intro hw word he hz
  have ⟨f0, f1, f2⟩ : fld word 29 3 = 4#3 ∧ fld word 24 5 = 7#5 ∧ fld word 0 24 = 0#24 := by
    cases he; simp (disch := decide) only [fld, fld_word, fld_low, fld_high, fld_all, Nat.reduceSub, BitVec.reduceExtractLsb', Eng.tag, BitVec.ofNat_eq_ofNat, and_self]
  refine of_form f0 (by decide) (by decide) hz hw ?_
  rw [decodeForm, f0, f1]
  show decodeF word = _
  rw [decodeF, f1, f2]; rfl
theorem fslotst (g : BitVec 4) : Statement (.fslotst g) := by
  intro hw word he hz
  have ⟨f0, f1, f2, f3, f4⟩ : fld word 29 3 = 4#3 ∧ fld word 24 5 = 8#5 ∧ fld word 0 12 = 0#12 ∧ fld word 16 8 = 0#8 ∧ fld word 12 4 = g := by
    cases he; simp (disch := decide) only [fld, fld_word, fld_low, fld_high, fld_all, Nat.reduceSub, BitVec.reduceExtractLsb', Eng.tag, BitVec.ofNat_eq_ofNat, and_self]
  refine of_form f0 (by decide) (by decide) hz hw ?_
  rw [decodeForm, f0, f1]
  show decodeF word = _
  rw [decodeF, f1, f2, f3, f4]; rfl
theorem fgrp (g : BitVec 4) : Statement (.fgrp g) := by
  intro hw word he hz
  have ⟨f0, f1, f2, f3, f4⟩ : fld word 29 3 = 4#3 ∧ fld word 24 5 = 9#5 ∧ fld word 0 12 = 0#12 ∧ fld word 16 8 = 0#8 ∧ fld word 12 4 = g := by
    cases he; simp (disch := decide) only [fld, fld_word, fld_low, fld_high, fld_all, Nat.reduceSub, BitVec.reduceExtractLsb', Eng.tag, BitVec.ofNat_eq_ofNat, and_self]
  refine of_form f0 (by decide) (by decide) hz hw ?_
  rw [decodeForm, f0, f1]
  show decodeF word = _
  rw [decodeF, f1, f2, f3, f4]; rfl
theorem fpath (g : BitVec 4) : Statement (.fpath g) := by
  intro hw word he hz
  have ⟨f0, f1, f2, f3, f4⟩ : fld word 29 3 = 4#3 ∧ fld word 24 5 = 10#5 ∧ fld word 0 12 = 0#12 ∧ fld word 16 8 = 0#8 ∧ fld word 12 4 = g := by
    cases he; simp (disch := decide) only [fld, fld_word, fld_low, fld_high, fld_all, Nat.reduceSub, BitVec.reduceExtractLsb', Eng.tag, BitVec.ofNat_eq_ofNat, and_self]
  refine of_form f0 (by decide) (by decide) hz hw ?_
  rw [decodeForm, f0, f1]
  show decodeF word = _
  rw [decodeF, f1, f2, f3, f4]; rfl
theorem fqst (g : BitVec 4) : Statement (.fqst g) := by
  intro hw word he hz
  have ⟨f0, f1, f2, f3, f4⟩ : fld word 29 3 = 4#3 ∧ fld word 24 5 = 11#5 ∧ fld word 0 12 = 0#12 ∧ fld word 16 8 = 0#8 ∧ fld word 12 4 = g := by
    cases he; simp (disch := decide) only [fld, fld_word, fld_low, fld_high, fld_all, Nat.reduceSub, BitVec.reduceExtractLsb', Eng.tag, BitVec.ofNat_eq_ofNat, and_self]
  refine of_form f0 (by decide) (by decide) hz hw ?_
  rw [decodeForm, f0, f1]
  show decodeF word = _
  rw [decodeF, f1, f2, f3, f4]; rfl
theorem reservedTag : Statement (.reservedTag) := fun _ _ h => nomatch h
theorem zeroWord : Statement (.zeroWord) := fun _ _ h => nomatch h
theorem trapEntry (core : Nat) : Statement (.trapEntry core) := fun _ _ h => nomatch h
theorem handlerTimeout (core : Nat) : Statement (.handlerTimeout core) := fun _ _ h => nomatch h
theorem watchdog (core : Nat) (q : Eng) : Statement (.watchdog core q) := fun _ _ h => nomatch h
theorem safePointDistance (core : Nat) : Statement (.safePointDistance core) := fun _ _ h => nomatch h
theorem tawaitTimeout (core : Nat) : Statement (.tawaitTimeout core) := fun _ _ h => nomatch h
theorem commonWordPass (core : Nat) (q : Eng) : Statement (.commonWordPass core q) := fun _ _ h => nomatch h
theorem slipRelease (core : Nat) (q : Eng) : Statement (.slipRelease core q) := fun _ _ h => nomatch h
theorem eventWaitWake (core : Nat) (q : Eng) : Statement (.eventWaitWake core q) := fun _ _ h => nomatch h
theorem ringWaitWake (core : Nat) (q : Eng) : Statement (.ringWaitWake core q) := fun _ _ h => nomatch h
theorem counterWaitWake (core : Nat) (q : Eng) : Statement (.counterWaitWake core q) := fun _ _ h => nomatch h
theorem barrierRelease (unit : Nat) : Statement (.barrierRelease unit) := fun _ _ h => nomatch h
theorem sliceWaitWake (core : Nat) (q : Eng) : Statement (.sliceWaitWake core q) := fun _ _ h => nomatch h
theorem wfiWake : Statement (.wfiWake) := fun _ _ h => nomatch h
theorem quoinEntryRetire (core : Nat) : Statement (.quoinEntryRetire core) := fun _ _ h => nomatch h
theorem rfenceComplete (core : Nat) : Statement (.rfenceComplete core) := fun _ _ h => nomatch h
theorem tableWalk (core : Nat) (ctx : Nat) (va : W64) : Statement (.tableWalk core ctx va) := fun _ _ h => nomatch h
theorem replayRetry (core : Nat) (entry : Nat) : Statement (.replayRetry core entry) := fun _ _ h => nomatch h
theorem replayFail (core : Nat) (entry : Nat) : Statement (.replayFail core entry) := fun _ _ h => nomatch h
theorem patrolScrub (found : Scrub) : Statement (.patrolScrub found) := fun _ _ h => nomatch h
theorem copyLineWrite (core : Nat) (op : Nat) : Statement (.copyLineWrite core op) := fun _ _ h => nomatch h
theorem bmvRowWrite (core : Nat) (op : Nat) (row : Nat) : Statement (.bmvRowWrite core op row) := fun _ _ h => nomatch h
theorem ccombReport (core : Nat) (op : Nat) : Statement (.ccombReport core op) := fun _ _ h => nomatch h
theorem abandonment (core : Nat) : Statement (.abandonment core) := fun _ _ h => nomatch h
theorem lineArrival (pk : Arrival) : Statement (.lineArrival pk) := fun _ _ h => nomatch h
theorem reductionPartialArrival (pk : RedArrival) : Statement (.reductionPartialArrival pk) := fun _ _ h => nomatch h
theorem reductionResultArrival (pk : RedArrival) : Statement (.reductionResultArrival pk) := fun _ _ h => nomatch h
theorem acknowledgementArrival (send : Nat) (ack : AckArrival) : Statement (.acknowledgementArrival send ack) := fun _ _ h => nomatch h
theorem reservedPacket (pk : ReservedArrival) : Statement (.reservedPacket pk) := fun _ _ h => nomatch h
theorem packetCrcFailure (fibre : Nat) : Statement (.packetCrcFailure fibre) := fun _ _ h => nomatch h
theorem packetResend (again : Resend) : Statement (.packetResend again) := fun _ _ h => nomatch h
theorem packetLaunch (send : Nat) : Statement (.packetLaunch send) := fun _ _ h => nomatch h
theorem rotationStart : Statement (.rotationStart) := fun _ _ h => nomatch h
theorem slotStart : Statement (.slotStart) := fun _ _ h => nomatch h
theorem guardIntervalStart : Statement (.guardIntervalStart) := fun _ _ h => nomatch h
theorem quiesceSet : Statement (.quiesceSet) := fun _ _ h => nomatch h
theorem quiesceClear : Statement (.quiesceClear) := fun _ _ h => nomatch h
theorem linkRetrainComplete (circuits : List (Nat × List Nat × List Nat)) : Statement (.linkRetrainComplete circuits) := fun _ _ h => nomatch h
theorem heatWrite (fibre : Nat) (ring : Nat) (code : BitVec 12) : Statement (.heatWrite fibre ring code) := fun _ _ h => nomatch h
theorem assignWrite (fibre : Nat) (ring : Nat) (lambda : BitVec 4) (en : Bool) : Statement (.assignWrite fibre ring lambda en) := fun _ _ h => nomatch h
theorem fibreResume (fibre : Nat) : Statement (.fibreResume fibre) := fun _ _ h => nomatch h
theorem fibrePauseTimeout (fibre : Nat) : Statement (.fibrePauseTimeout fibre) := fun _ _ h => nomatch h
theorem monUpdate (fibre : Nat) (ring : Nat) (temp : BitVec 16) : Statement (.monUpdate fibre ring temp) := fun _ _ h => nomatch h
theorem optTempUpdate (temp : BitVec 16) : Statement (.optTempUpdate temp) := fun _ _ h => nomatch h
theorem keySlotValid (slot : Nat) (valid : Bool) : Statement (.keySlotValid slot valid) := fun _ _ h => nomatch h
theorem contextValidSet (ctx : Nat) : Statement (.contextValidSet ctx) := fun _ _ h => nomatch h
theorem contextValidClear (ctx : Nat) : Statement (.contextValidClear ctx) := fun _ _ h => nomatch h
theorem notify (ctx : Nat) (queue : Nat) (tail : Nat) (relaxed : Bool) (entries : List (Nat × Byte)) : Statement (.notify ctx queue tail relaxed entries) := fun _ _ h => nomatch h
theorem sequenceRecheck (ctx : Nat) (queue : Nat) : Statement (.sequenceRecheck ctx queue) := fun _ _ h => nomatch h
theorem queueHalt (ctx : Nat) (queue : Nat) : Statement (.queueHalt ctx queue) := fun _ _ h => nomatch h
theorem qstatHaltedClear (ctx : Nat) (queue : Nat) : Statement (.qstatHaltedClear ctx queue) := fun _ _ h => nomatch h
theorem launchAccept : Statement (.launchAccept) := fun _ _ h => nomatch h
theorem instancePlace (die : Nat) : Statement (.instancePlace die) := fun _ _ h => nomatch h
theorem textStaging (core : Nat) : Statement (.textStaging core) := fun _ _ h => nomatch h
theorem instanceEnd (core : Nat) : Statement (.instanceEnd core) := fun _ _ h => nomatch h
theorem launchComplete (launch : Nat) : Statement (.launchComplete launch) := fun _ _ h => nomatch h
theorem drainBudgetExpiry (core : Nat) : Statement (.drainBudgetExpiry core) := fun _ _ h => nomatch h
theorem checkpointComplete (core : Nat) : Statement (.checkpointComplete core) := fun _ _ h => nomatch h
theorem forcedCut (core : Nat) : Statement (.forcedCut core) := fun _ _ h => nomatch h
theorem instanceResume (core : Nat) : Statement (.instanceResume core) := fun _ _ h => nomatch h
theorem dieFence (die : Nat) : Statement (.dieFence die) := fun _ _ h => nomatch h
theorem masterElection : Statement (.masterElection) := fun _ _ h => nomatch h
theorem overflowMove (die : Nat) (ctx : Nat) : Statement (.overflowMove die ctx) := fun _ _ h => nomatch h
theorem coreCmdResume (core : Nat) : Statement (.coreCmdResume core) := fun _ _ h => nomatch h
theorem coreCmdTerminate (core : Nat) : Statement (.coreCmdTerminate core) := fun _ _ h => nomatch h
theorem tileSaveGo (core : Nat) : Statement (.tileSaveGo core) := fun _ _ h => nomatch h
theorem tileRestoreGo (core : Nat) : Statement (.tileRestoreGo core) := fun _ _ h => nomatch h
theorem tileTransferComplete (core : Nat) : Statement (.tileTransferComplete core) := fun _ _ h => nomatch h
theorem ltsCommit : Statement (.ltsCommit) := fun _ _ h => nomatch h
theorem ltsCommitComplete : Statement (.ltsCommitComplete) := fun _ _ h => nomatch h
theorem measurementExtend (reg : Nat) (d : BitVec 256) (rom : Bool) : Statement (.measurementExtend reg d rom) := fun _ _ h => nomatch h
theorem attestationRequest (cmd : Nat) (mailNonce : Option (List Byte)) : Statement (.attestationRequest cmd mailNonce) := fun _ _ h => nomatch h
theorem powerGood (image : BootImage) : Statement (.powerGood image) := fun _ _ h => nomatch h
theorem powerSample (meanWatts : Nat) (temps : List Nat) : Statement (.powerSample meanWatts temps) := fun _ _ h => nomatch h
theorem throttleAdjust : Statement (.throttleAdjust) := fun _ _ h => nomatch h
theorem hostBar2Write (window : Nat) (off : Nat) (w : HostWrite) : Statement (.hostBar2Write window off w) := fun _ _ h => nomatch h
theorem hostBar2Read (window : Nat) (off : Nat) (len : Nat) : Statement (.hostBar2Read window off len) := fun _ _ h => nomatch h
theorem slipwWrite (core : Nat) (v : W64) : Statement (.slipwWrite core v) := fun _ _ h => nomatch h
theorem detmodeWrite (core : Nat) (v : W64) : Statement (.detmodeWrite core v) := fun _ _ h => nomatch h
theorem registerWrite (core : Nat) (r : BitVec 12) (v : W64) : Statement (.registerWrite core r v) := fun _ _ h => nomatch h
theorem accessPerformed (id : Nat) : Statement (.accessPerformed id) := fun _ _ h => nomatch h
theorem tlbInvalidationComplete (id : Nat) : Statement (.tlbInvalidationComplete id) := fun _ _ h => nomatch h
theorem foreignWordsPassed : Statement (.foreignWordsPassed) := fun _ _ h => nomatch h

end Sys2Proof.Laws.RoundTrip
end

