-- ==== Sys2Proof/Safety.lean ====
section
/-!
DEFINITION. The terms of the claims: what counts as a safe run, how an instruction completes, traps or waits, and what a
state leaves of another one (the frame).
-/

namespace Sys2Proof.Machine

/-! ## Runs -/

/-- The state after k steps, if none of them stops. -/
def stateAfter : Nat → State → Option State
  | 0, s => some s
  | k + 1, s =>
    match step s with
    | .next t => stateAfter k t
    | .fault _ => none
    | .refused _ => none

/-- No step from s ever stops. -/
def Safe (s : State) : Prop := ∀ k, (stateAfter k s).isSome

/-! ## What a word leaves of its core -/

/-- Parts of a core that words change. A register part is that of the bank in use: a handler has its own (R331). -/
inductive Zone where
  | seqs | s | g | stack | v | m | tiles | formats | events | rings | record | regions | translations | operations | counts
  | instance_ | special
  deriving DecidableEq, Repr

/-- A core with one part blanked. -/
def Zone.clear (z : Zone) (c : Core) : Core := match z with
  | .seqs => if c.mode = .handler then { c with hseqs := {} } else { c with seqs := {} }
  | .s => if c.mode = .handler then { c with hsreg := {} } else { c with sreg := {} }
  | .g => if c.mode = .handler then { c with hgreg := {} } else { c with greg := {} }
  | .stack => if c.mode = .handler then { c with hstack := [] } else { c with stack := {} }
  | .v => { c with vreg := {} }
  | .m => { c with mreg := {} }
  | .tiles => { c with tile := {}, tileSt := {}, tileOwner := {} }
  | .formats => { c with fmtTab := {} }
  | .events => { c with events := {} }
  | .rings => { c with rings := {} }
  | .record => { c with cwRec := [], cwBase := 0 }
  | .regions => { c with regions := [] }
  | .translations => { c with tlb := [], nmiss := 0, nwalk := 0, nfault := 0 }
  | .operations => { c with copies := [], bmvs := [], replay := [], npark := 0 }
  | .counts => { c with nser := 0, nwait := 0, nmma := 0, nmcast := 0, nfull := 0, nage := 0, npois := 0, novf := 0 }
  | .instance_ => { c with inst := none, cancel := none, barw := [] }
  | .special => { c with slipw := 0, spdmax := 0, spdist := 0, detmode := false, ctx := 0, trapBase := 0, trapVec := 0
                         wdog := 0, rfstat := 0, rrb := 0 }

/-- A core with some parts blanked: what is left is what they frame. -/
def Core.without (zs : List Zone) (c : Core) : Core := zs.foldl (fun c z => z.clear c) c

/-- t is s but for parts `zs` of the executing core, and its sequencers. -/
def Confined (zs : List Zone) (s t : State) : Prop :=
  t = { s with cores := t.cores } ∧ (∀ n, n ≠ s.curCore → t.core n = s.core n) ∧
  t.me.without (.seqs :: zs) = s.me.without (.seqs :: zs)

/-- The word of the executing sequencer completes and its pc goes to p: wc and its own clock count the word, prefixes and
waits are over (R62, R103), and no other sequencer of the core moves. -/
def Completes (p : Nat) (s t : State) : Prop :=
  t.q = { s.q with pc := p, wc := s.q.wc + 1, vclk := s.q.vclk.set s.curEng (s.q.wc + 1), pfx := [], wait := none, atSafe := none } ∧
  ∀ e, e ≠ s.curEng → t.me.seq e = s.me.seq e

/-- Every byte of memory reads as before, under every key slot. -/
def MemoryKept (s t : State) : Prop := ∀ key a, memRead t key a = memRead s key a

/-- Every byte outside `locs` reads as before. -/
def MemoryKeptBut (locs : List Nat) (s t : State) : Prop := ∀ key a, a ∉ locs → memRead t key a = memRead s key a

/-- The instruction completes with v in sd and writes no other register; s0 stays zero (R62). -/
def GivesS (i : Instr) (s : State) (d : BitVec 5) (v : W64) : Prop :=
  ∃ t, exec i s = .next t ∧ Completes (s.q.pc + 1) s t ∧
    (∀ n, t.sval n = if n = 0 then 0 else if n = d then v else s.sval n) ∧ Confined [.s] s t ∧ MemoryKept s t

/-- The g registers after a write of gd on the executing engine. Outside a handler, every engine has its own. -/
def WritesG (s t : State) (d : BitVec 4) (v : W64) : Prop :=
  (∀ n, t.gval n = if n = d then v else s.gval n) ∧
  (s.me.mode ≠ .handler → ∀ e n, e ≠ s.curEng → n < 16 → t.me.g e n = s.me.g e n)

/-- The instruction completes with v in gd and writes no other register. -/
def GivesG (i : Instr) (s : State) (d : BitVec 4) (v : W64) : Prop :=
  ∃ t, exec i s = .next t ∧ Completes (s.q.pc + 1) s t ∧ WritesG s t d v ∧ Confined [.g] s t ∧ MemoryKept s t

/-- The parameter stacks after the executing engine's becomes l, top first. Outside a handler, every engine has its own. -/
def StackIs (s t : State) (l : List W64) : Prop :=
  t.stk = l ∧ (s.me.mode ≠ .handler → ∀ e, e ≠ s.curEng → t.me.stk e = s.me.stk e)

/-- The instruction completes, leaving l on its engine's stack, and writes no register. -/
def GivesStack (i : Instr) (s : State) (l : List W64) : Prop :=
  ∃ t, exec i s = .next t ∧ Completes (s.q.pc + 1) s t ∧ StackIs s t l ∧ Confined [.stack] s t ∧ MemoryKept s t

/-- The instruction completes with lane l of vd at f l, and writes no other vector register. -/
def GivesV (i : Instr) (s : State) (d : BitVec 5) (f : Nat → Word) : Prop :=
  ∃ t, exec i s = .next t ∧ Completes (s.q.pc + 1) s t ∧ (∀ l, l < 256 → (t.vec d).lane l = f l) ∧
    (∀ n, phys n.toNat s.me.rrb ≠ phys d.toNat s.me.rrb → t.vec n = s.vec n) ∧ Confined [.v] s t ∧ MemoryKept s t

/-- As `GivesV` under a mask: an inactive lane keeps its value (R174). -/
def GivesLanes (i : Instr) (s : State) (d : BitVec 5) (m : BitVec 3) (f : Nat → Word) : Prop :=
  GivesV i s d (fun l => if (s.mask m).getLsbD l then f l else (s.vec d).lane l)

/-- The instruction completes with bit l of md at f l, and writes no other mask register; m0 stays all ones (R174). -/
def GivesM (i : Instr) (s : State) (d : BitVec 3) (f : Nat → Bool) : Prop :=
  ∃ t, exec i s = .next t ∧ Completes (s.q.pc + 1) s t ∧
    (∀ l, l < 256 → (t.mask d).getLsbD l = (decide (d = 0) || f l)) ∧
    (∀ n, n ≠ d → t.mask n = s.mask n) ∧ Confined [.m] s t ∧ MemoryKept s t

/-- The instruction completes with its pc at p, and writes no register. -/
def GoesTo (i : Instr) (s : State) (p : Nat) : Prop :=
  ∃ t, exec i s = .next t ∧ Completes p s t ∧ Confined [] s t ∧ MemoryKept s t

/-- The instruction traps at its word with a cause and an address: what taking a trap does is said of `raise`. -/
def Traps (i : Instr) (s : State) (cause : Nat) (addr : W64) : Prop :=
  exec i s = .next (raise s s.curCore s.curEng cause addr false)

/-- The instruction waits at its word, and nothing of the machine changes but the wait and what counts it. -/
def Waits (i : Instr) (s : State) (k : WaitKind) : Prop :=
  ∃ t, exec i s = .next t ∧ t.q.pc = s.q.pc ∧ t.q.wait.any (fun w => w.kind = k) = true ∧
    t = { s with cores := t.cores, order := t.order } ∧ (∀ n, n ≠ s.curCore → t.core n = s.core n) ∧
    t.me.without [.seqs, .counts] = s.me.without [.seqs, .counts]

/-! ## Accesses -/

/-- Nothing holds an access of the executing sequencer: it is performed as it issues, no access, send or operation is
outstanding, nothing is parked, nothing that a common word ordered before it is pending, and the quoin checker is off. -/
def Unhindered (s : State) : Prop :=
  s.defer = false ∧ s.accs = [] ∧ s.fabric.sends = [] ∧ s.fabric.bulks = [] ∧ s.me.copies = [] ∧ s.me.bmvs = [] ∧
  s.me.replay = [] ∧ s.me.detmode = false ∧ slipHeld s (fun _ => true) = false

/-- The n bytes at own-scratchpad address a lie in the instance's partition, at location loc (R112, R147). -/
def OwnAt (s : State) (a n loc : Nat) : Prop :=
  s.curCore ≤ 128 ∧ ∃ i, s.me.inst = some i ∧ a + n ≤ i.units * 0x10000 ∧ i.base + i.units ≤ 63 ∧
    loc = spLoc s.curCore (i.base * 0x10000 + a)

/-- No line of the n bytes at a location is poisoned (R163). -/
def Clean (s : State) (loc n : Nat) : Prop := ∀ k, k < n → s.poison.get false ((loc + k) / 128) = false

/-- The bytes at a location under a key slot. -/
def Holds (s : State) (key loc : Nat) (bs : List Byte) : Prop := ∀ k, k < bs.length → memRead s key (loc + k) = bs.getD k 0

/-- t is s but for parts of the executing core, memory, and the number of the next access. -/
def Accesses (zs : List Zone) (s t : State) : Prop :=
  t = { s with cores := t.cores, mem := t.mem, lineKey := t.lineKey, poison := t.poison, nextId := t.nextId } ∧
  (∀ n, n ≠ s.curCore → t.core n = s.core n) ∧ t.me.without (.seqs :: zs) = s.me.without (.seqs :: zs)

/-- t is s but for parts of the executing core, the fabric, and the number of the next access. -/
def OnFabric (zs : List Zone) (s t : State) : Prop :=
  t = { s with cores := t.cores, fabric := t.fabric, nextId := t.nextId } ∧
  (∀ n, n ≠ s.curCore → t.core n = s.core n) ∧ t.me.without (.seqs :: zs) = s.me.without (.seqs :: zs)

/-- As `OnFabric`, for the slice sets and the coordinator's counts. -/
def OnSlices (zs : List Zone) (s t : State) : Prop :=
  t = { s with cores := t.cores, slices := t.slices, sliceCnt := t.sliceCnt } ∧
  (∀ n, n ≠ s.curCore → t.core n = s.core n) ∧ t.me.without (.seqs :: zs) = s.me.without (.seqs :: zs)

/-- The instruction completes with v in sd, and changes nothing else but parts `zs` of its core, the slice sets and the
coordinator's counts. -/
def AnswersS (i : Instr) (s : State) (d : BitVec 5) (v : W64) (zs : List Zone) (f : State → Prop) : Prop :=
  ∃ t, exec i s = .next t ∧ Completes (s.q.pc + 1) s t ∧ (∀ n, t.sval n = if n = 0 then 0 else if n = d then v else s.sval n) ∧
    OnSlices (.s :: zs) s t ∧ MemoryKept s t ∧ f t

/-- Set k is x, and every other set is as before. -/
def OnlySet (s t : State) (k : Nat) (x : SliceSet) : Prop := ∀ j, t.set j = if j = k then x else s.set j

/-- The sets are as before, and nothing is counted. -/
def SetsKept (s t : State) : Prop := t.slices = s.slices ∧ t.sliceCnt = s.sliceCnt

/-- Everything of the plinth but the error log and its interrupt. -/
def Plinth.butLog (p : Plinth) : Plinth := { p with elog := {}, elogTail := 0, nlost := 0, intPend := 0 }

/-- The system error log of t is that of s with one record more, or with one lost, when the log is full (R356). -/
def Logged (s t : State) (type core engine module : Nat) (addr info : W64) : Prop :=
  let p := s.plinth
  let rec_ := leBytes 2 type ++ leBytes 1 core ++ leBytes 1 engine ++ leBytes 2 module ++ leBytes 2 0 ++ leBytes 8 addr.toNat ++
    leBytes 8 s.ftime ++ leBytes 8 info.toNat
  let full := (p.elogTail - p.elogHead).toNat = 511
  (full → t.plinth.nlost = min (p.nlost + 1) 0xFFFF ∧ t.plinth.elog = p.elog ∧ t.plinth.elogTail = p.elogTail ∧
    t.plinth.intPend = p.intPend) ∧
  (¬full → t.plinth.elogTail = p.elogTail + 1 ∧ t.plinth.nlost = p.nlost ∧ t.plinth.intPend = p.intPend ||| 0x80#8 ∧
    ∀ a, t.plinth.elog.get 0 a = if 32 * p.elogTail.toNat ≤ a ∧ a < 32 * p.elogTail.toNat + 32 then
      rec_.getD (a - 32 * p.elogTail.toNat) 0 else p.elog.get 0 a)

/-- From queue u of a context, whose slots t holds, n entries whose sequence numbers match are consumed: all that do, from the
head to the tail (R349, R350). -/
def Consumes (t : State) (x q n : Nat) (u v : Queue) : Prop :=
  let slot (i : Nat) : List Byte := slotBytes t x q ((u.head + i) % 64)
  let number (i : Nat) : Nat := (u.nextSeq - 1 + i) % 65535 + 1
  n < 64 ∧ (∀ i, i < n → fieldAt (slot i) 0x3E 2 = number i ∧ (u.head + i) % 64 ≠ u.tail) ∧
  (v.head = u.tail ∨ fieldAt (slot n) 0x3E 2 ≠ number n) ∧
  v = { u with
    head := (u.head + n) % 64, nextSeq := number n, pend := u.pend ++ (List.range n).map (fun i => entryOf (slot i))
    check := if (u.head + n) % 64 = u.tail then none else if n = 0 then u.check.or (some t.cycle) else some t.cycle }

/-- The rings as before but for the slots' clocks: a filling slot that the word's write reaches takes the word's clock, merged with
its own (R103). -/
def RingsKept (s t : State) : Prop :=
  ∀ k, let r := s.me.rings.get {} k; let u := t.me.rings.get {} k
    u = { r with slots := u.slots } ∧
    ∀ j, u.slot j = r.slot j ∨ (r.slot j).tag = 1 ∧ u.slot j = (r.slot j).deposit s.issueClk

/-- The instruction completes with a loaded value in sd, and stores nothing. -/
def LoadsS (i : Instr) (s : State) (d : BitVec 5) (v : W64) : Prop :=
  ∃ t, exec i s = .next t ∧ Completes (s.q.pc + 1) s t ∧
    (∀ n, t.sval n = if n = 0 then 0 else if n = d then v else s.sval n) ∧ Accesses [.s] s t ∧ MemoryKept s t

/-! ## Tiles and areas of the matrix engine -/

/-- The tiles may be touched: none is absent, and each is free or active under the running context (R218). -/
def MayTouch (s : State) (ts : List Nat) : Prop :=
  ∀ t ∈ ts, s.me.tileAbs.getLsbD t = false ∧
    (s.me.tileSt.get .free t = .free ∨ (s.me.tileSt.get .free t = .active ∧ s.me.tileOwner.get 0 t = s.ctxNow))

/-- The touched tiles are active under the running context, and the other tiles' states and contents are as before (R218). -/
def Touched (s t : State) (ts : List Nat) (written : List Nat) : Prop :=
  (∀ n ∈ ts, t.me.tileSt.get .free n = .active ∧ t.me.tileOwner.get 0 n = s.ctxNow) ∧
  (∀ n, n ∉ ts → t.me.tileSt.get .free n = s.me.tileSt.get .free n ∧ t.me.tileOwner.get 0 n = s.me.tileOwner.get 0 n) ∧
  (∀ n, n ∉ written → t.me.tile.get {} n = s.me.tile.get {} n) ∧ t.me.tileAbs = s.me.tileAbs

/-- The bytes at offsets from an own-scratchpad address lie in the partition, at the same offsets from a location. -/
def AreaAt (s : State) (base : Nat) (offs : List Nat) (loc : Nat) : Prop := ∀ o ∈ offs, OwnAt s (base + o) 1 (loc + o)

/-- As `AreaAt`, in lines that are not poisoned. -/
def CleanArea (s : State) (base : Nat) (offs : List Nat) (loc : Nat) : Prop := AreaAt s base offs loc ∧ ∀ o ∈ offs, Clean s (loc + o) 1

/-- A tile instruction completes: what it pops, the tiles that it touches and writes, and that it stores nothing. -/
def TileDone (i : Instr) (s : State) (pops : Nat) (ts written : List Nat) (zs : List Zone) (f : State → Prop) : Prop :=
  ∃ t, exec i s = .next t ∧ Completes (s.q.pc + 1) s t ∧ Confined (.tiles :: .stack :: zs) s t ∧ MemoryKept s t ∧
    StackIs s t (s.stk.drop pops) ∧ Touched s t ts written ∧ f t

/-- A branch target lies in the text (R17). -/
def inText (p : Nat) {w : Nat} (off : BitVec w) : Prop := 0 ≤ (p : Int) + off.toInt ∧ (p : Int) + off.toInt ≤ 65535

/-- An immediate with the prefixes before it: sign-extended, its low 64 bits kept (R21, R28, R29). -/
def widened (p : List (BitVec 24)) {w : Nat} (i : BitVec w) : W64 := match p with
  | [] => i.signExtend 64
  | [x] => (x ++ i).signExtend 64
  | x :: y :: _ => (x ++ y ++ i).signExtend 64

/-- A word reads as an instruction; the zero word is none (R18). -/
def Reads (w : Word) (i : Instr) : Prop := w ≠ 0#32 → decode w = .ok i

end Sys2Proof.Machine
end

