-- ==== Sys2Proof/Certificates/Slice0/Obligations.lean ====
section
/-!
DEFINITION. The statements for the provers. Each says in the terms of `Sys2Proof.Safety` what an instruction, an event or
the machine does; `derived` ones rest on the spec's sections, `stated` ones on a numbered rule as a whole.
-/

open Sys2Proof
open Sys2Proof.Machine

/-! ## The scalar sequencer -/

/-- The register ALU (R87), with its words: 64-bit arithmetic that wraps, a write to s0 discarded (`GivesS`), no trap, and
illegal functions. The zero word is no ADD (R18). -/
def Obligations.ScalarRegisterAlu : Prop :=
  ∀ (s : State) (d a b : BitVec 5),
    let x := s.sval a
    let y := s.sval b
    let n := y.toNat % 64
    GivesS (.add d a b) s d (BitVec.ofNat 64 (x.toNat + y.toNat)) ∧
    GivesS (.sub d a b) s d (BitVec.ofInt 64 ((x.toNat : Int) - y.toNat)) ∧
    GivesS (.mul d a b) s d (BitVec.ofNat 64 (x.toNat * y.toNat)) ∧
    GivesS (.mulh d a b) s d (BitVec.ofInt 64 (x.toInt * y.toInt / 2 ^ 64)) ∧
    GivesS (.mulhn d a b) s d (BitVec.ofNat 64 (x.toNat * y.toNat / 2 ^ 64)) ∧
    GivesS (.div d a b) s d (if y = 0 then BitVec.allOnes 64 else BitVec.ofInt 64 (x.toInt.tdiv y.toInt)) ∧
    GivesS (.divn d a b) s d (if y = 0 then BitVec.allOnes 64 else BitVec.ofNat 64 (x.toNat / y.toNat)) ∧
    GivesS (.rem d a b) s d (if y = 0 then x else BitVec.ofInt 64 (x.toInt - y.toInt * x.toInt.tdiv y.toInt)) ∧
    GivesS (.remn d a b) s d (if y = 0 then x else BitVec.ofNat 64 (x.toNat % y.toNat)) ∧
    (x.toInt = -(2 ^ 63) → y.toInt = -1 → GivesS (.div d a b) s d x ∧ GivesS (.rem d a b) s d 0) ∧
    GivesS (.and d a b) s d (x &&& y) ∧ GivesS (.or d a b) s d (x ||| y) ∧ GivesS (.xor d a b) s d (x ^^^ y) ∧
    GivesS (.andn d a b) s d (x &&& ~~~y) ∧
    GivesS (.shl d a b) s d (BitVec.ofNat 64 (x.toNat * 2 ^ n)) ∧
    GivesS (.shr d a b) s d (BitVec.ofNat 64 (x.toNat / 2 ^ n)) ∧
    GivesS (.sra d a b) s d (BitVec.ofInt 64 (x.toInt / 2 ^ n)) ∧
    GivesS (.rol d a b) s d ((x <<< n) ||| (x >>> (64 - n))) ∧
    GivesS (.min d a b) s d (if x.toInt ≤ y.toInt then x else y) ∧
    GivesS (.max d a b) s d (if x.toInt ≤ y.toInt then y else x) ∧
    GivesS (.minn d a b) s d (if x.toNat ≤ y.toNat then x else y) ∧
    GivesS (.maxn d a b) s d (if x.toNat ≤ y.toNat then y else x) ∧
    GivesS (.slt d a b) s d (if x.toInt < y.toInt then 1 else 0) ∧
    GivesS (.sltn d a b) s d (if x.toNat < y.toNat then 1 else 0) ∧
    GivesS (.seq d a b) s d (if x = y then 1 else 0) ∧
    (∃ k, k ≤ 64 ∧ GivesS (.clz d a) s d (BitVec.ofNat 64 k) ∧ (∀ i, i < 64 → 64 ≤ i + k → x.getLsbD i = false) ∧
      (k < 64 → x.getLsbD (63 - k) = true)) ∧
    (∃ k, k ≤ 64 ∧ GivesS (.ctz d a) s d (BitVec.ofNat 64 k) ∧ (∀ i, i < k → x.getLsbD i = false) ∧
      (k < 64 → x.getLsbD k = true)) ∧
    GivesS (.popc d a) s d (BitVec.ofNat 64 ((List.range 64).filter (fun i => x.getLsbD i)).length) ∧
    (∀ p ∈ [(0#9, Instr.add d a b), (1#9, .sub d a b), (2#9, .mul d a b), (3#9, .mulh d a b), (4#9, .mulhn d a b),
        (5#9, .div d a b), (6#9, .divn d a b), (7#9, .rem d a b), (8#9, .remn d a b), (9#9, .and d a b), (10#9, .or d a b),
        (11#9, .xor d a b), (12#9, .andn d a b), (13#9, .shl d a b), (14#9, .shr d a b), (15#9, .sra d a b),
        (16#9, .rol d a b), (17#9, .min d a b), (18#9, .max d a b), (19#9, .minn d a b), (20#9, .maxn d a b),
        (21#9, .slt d a b), (22#9, .sltn d a b), (23#9, .seq d a b)],
      Reads (0#3 ++ 0#5 ++ d ++ a ++ b ++ p.1) p.2) ∧
    (∀ p ∈ [(24#9, Instr.clz d a), (25#9, .ctz d a), (26#9, .popc d a)], Reads (0#3 ++ 0#5 ++ d ++ a ++ 0#5 ++ p.1) p.2) ∧
    (∀ f : BitVec 9, 27 ≤ f.toNat → decode (0#3 ++ 0#5 ++ d ++ a ++ b ++ f) = .error .illegal)

/-- Immediates (R88–R90), with their words: the immediate ALU, whose immediate is the sign-extended field or the value widened by
the prefixes that the sequencer holds (R28); shifts and extensions, whose operand w is one less than the width and which take no
prefix; and LUP. -/
def Obligations.ScalarImmediates : Prop :=
  (∀ (s : State) (d a : BitVec 5) (i : BitVec 14),
      let x := s.sval a
      let y := widened s.q.pfx i
      GivesS (.addi d a i) s d (BitVec.ofNat 64 (x.toNat + y.toNat)) ∧
      GivesS (.andi d a i) s d (x &&& y) ∧ GivesS (.ori d a i) s d (x ||| y) ∧ GivesS (.xori d a i) s d (x ^^^ y) ∧
      GivesS (.slti d a i) s d (if x.toInt < y.toInt then 1 else 0) ∧
      Reads (0#3 ++ 1#5 ++ d ++ a ++ i) (.addi d a i) ∧ Reads (0#3 ++ 2#5 ++ d ++ a ++ i) (.andi d a i) ∧
      Reads (0#3 ++ 3#5 ++ d ++ a ++ i) (.ori d a i) ∧ Reads (0#3 ++ 4#5 ++ d ++ a ++ i) (.xori d a i) ∧
      Reads (0#3 ++ 5#5 ++ d ++ a ++ i) (.slti d a i)) ∧
  (∀ (s : State) (d a : BitVec 5) (n : BitVec 6),
      let x := s.sval a
      let w := n.toNat + 1
      GivesS (.shli d a n) s d (BitVec.ofNat 64 (x.toNat * 2 ^ n.toNat)) ∧
      GivesS (.shri d a n) s d (BitVec.ofNat 64 (x.toNat / 2 ^ n.toNat)) ∧
      GivesS (.srai d a n) s d (BitVec.ofInt 64 (x.toInt / 2 ^ n.toNat)) ∧
      GivesS (.sext d a n) s d ((x.setWidth w).signExtend 64) ∧
      GivesS (.zext d a n) s d ((x.setWidth w).setWidth 64) ∧
      Reads (0#3 ++ 6#5 ++ d ++ a ++ 0#2 ++ 0#6 ++ n) (.shli d a n) ∧ Reads (0#3 ++ 6#5 ++ d ++ a ++ 1#2 ++ 0#6 ++ n) (.shri d a n) ∧
      Reads (0#3 ++ 6#5 ++ d ++ a ++ 2#2 ++ 0#6 ++ n) (.srai d a n) ∧
      Reads (0#3 ++ 6#5 ++ d ++ a ++ 3#2 ++ 0#5 ++ 1#1 ++ n) (.sext d a n) ∧
      Reads (0#3 ++ 6#5 ++ d ++ a ++ 3#2 ++ 0#5 ++ 0#1 ++ n) (.zext d a n) ∧
      (∀ i ∈ [Instr.shli d a n, .shri d a n, .srai d a n, .sext d a n, .zext d a n], takesPrefix i = false)) ∧
  (∀ (s : State) (d : BitVec 5) (i : BitVec 19),
      (s.q.pfx = [] → GivesS (.lup d i) s d (BitVec.ofInt 64 (i.toInt * 2 ^ 13))) ∧
      (∀ p, s.q.pfx = [p] → GivesS (.lup d i) s d (BitVec.ofInt 64 ((p ++ i).toInt * 2 ^ 13))) ∧
      (∀ p q, s.q.pfx = [p, q] → GivesS (.lup d i) s d (BitVec.ofInt 64 ((p ++ q ++ i).toInt * 2 ^ 13))) ∧
      Reads (0#3 ++ 7#5 ++ d ++ i) (.lup d i))

/-- Prefixes (R28, R29): LIMM and ELIMM are held, in order, for the next word, count as words, and change nothing else; the
sequencer remembers where the first one stands. A third one, and any before a word that takes none, traps 0x0001 at the first
(`raise` cuts the sequencer there) and reports its word, as the model reads R28 (log 13). -/
def Obligations.PrefixesAreHeld : Prop :=
  ∀ (s : State) (i : BitVec 24) (e : Eng), ∀ x ∈ [Instr.limm i, .elimm e i],
    (s.q.pfx.length < 2 → ∃ t, exec x s = .next t ∧ Confined [] s t ∧ MemoryKept s t ∧
      (∀ e, e ≠ s.curEng → t.me.seq e = s.me.seq e) ∧ t.q.pc = s.q.pc + 1 ∧ t.q.wc = s.q.wc + 1 ∧
      t.q.pfx = s.q.pfx ++ [i] ∧ t.q.pfxPc = (if s.q.pfx = [] then s.q.pc else s.q.pfxPc) ∧ t.q.cc = s.q.cc ∧
      t.q.iter = s.q.iter) ∧
    (2 ≤ s.q.pfx.length → Traps x s 1 (prefixWord s)) ∧
    (∀ y, s.q.pfx ≠ [] → decode s.word = .ok y → takesPrefix y = false → rteStop s = false → heldTag s = false →
      reservedHere s = false → issueWord s = .next (trapHere 1 (prefixWord s) s)) ∧
    (∀ p l, s.q.pfx = p :: l → prefixWord s = ((BitVec.ofNat 3 s.curEng.tag ++ 31#5 ++ p : Word)).setWidth 64)

/-- Control flow (R91–R93), with its words: branches, taken where their condition holds; jumps and calls, of which CALLR reads its
target before it writes the link; and LOOP, which counts sd down and branches while it is not zero. A target outside the text
traps, taken or not. -/
def Obligations.ScalarControlFlow : Prop :=
  (∀ (s : State) (a b : BitVec 5) (o : BitVec 14),
      let x := s.sval a
      let y := s.sval b
      (∀ p ∈ [(Instr.beq a b o, decide (x = y)), (.bne a b o, decide (x ≠ y)), (.blt a b o, decide (x.toInt < y.toInt)),
          (.bge a b o, decide (y.toInt ≤ x.toInt)), (.bltn a b o, decide (x.toNat < y.toNat)),
          (.bgen a b o, decide (y.toNat ≤ x.toNat))],
        (inText s.q.pc o → GoesTo p.1 s (if p.2 then ((s.q.pc : Int) + o.toInt).toNat else s.q.pc + 1)) ∧
        (¬inText s.q.pc o → Traps p.1 s 6 (BitVec.ofInt 64 ((s.q.pc : Int) + o.toInt)))) ∧
      (∀ p ∈ [(8#5, Instr.beq a b o), (9#5, .bne a b o), (10#5, .blt a b o), (11#5, .bge a b o), (12#5, .bltn a b o),
          (13#5, .bgen a b o)],
        Reads (0#3 ++ p.1 ++ a ++ b ++ o) p.2)) ∧
  (∀ (s : State) (a : BitVec 5) (o : BitVec 24),
      let v := s.sval a
      let link : State → Prop := fun t => ∀ n : BitVec 5,
        t.sval n = if n = 31 then BitVec.ofNat 64 (s.q.pc + 1) else s.sval n
      (inText s.q.pc o → GoesTo (.jmp o) s ((s.q.pc : Int) + o.toInt).toNat ∧
        ∃ t, exec (.call o) s = .next t ∧ Completes ((s.q.pc : Int) + o.toInt).toNat s t ∧ link t ∧ Confined [.s] s t ∧
          MemoryKept s t) ∧
      (¬inText s.q.pc o → ∀ x ∈ [Instr.jmp o, .call o], Traps x s 6 (BitVec.ofInt 64 ((s.q.pc : Int) + o.toInt))) ∧
      (v.toNat ≤ 65535 → GoesTo (.jr a) s v.toNat ∧
        ∃ t, exec (.callr a) s = .next t ∧ Completes v.toNat s t ∧ link t ∧ Confined [.s] s t ∧ MemoryKept s t) ∧
      (65536 ≤ v.toNat → ∀ x ∈ [Instr.jr a, .callr a], Traps x s 6 v) ∧
      Reads (0#3 ++ 14#5 ++ o) (.jmp o) ∧ Reads (0#3 ++ 15#5 ++ o) (.call o) ∧
      Reads (0#3 ++ 16#5 ++ 0#5 ++ a ++ 0#5 ++ 0#9) (.jr a) ∧ Reads (0#3 ++ 16#5 ++ 0#5 ++ a ++ 0#5 ++ 1#9) (.callr a) ∧
      (∀ f : BitVec 9, 2 ≤ f.toNat → decode (0#3 ++ 16#5 ++ 0#5 ++ a ++ 0#5 ++ f) = .error .illegal)) ∧
  (∀ (s : State) (d : BitVec 5) (o : BitVec 14),
      (d ≠ 0 → inText s.q.pc o →
        let v := BitVec.ofInt 64 ((s.sval d).toNat - 1 : Int)
        ∃ t, exec (.loop d o) s = .next t ∧
          Completes (if v ≠ 0 then ((s.q.pc : Int) + o.toInt).toNat else s.q.pc + 1) s t ∧
          (∀ n, t.sval n = if n = d then v else s.sval n) ∧ Confined [.s] s t ∧ MemoryKept s t) ∧
      (d ≠ 0 → ¬inText s.q.pc o → Traps (.loop d o) s 6 (BitVec.ofInt 64 ((s.q.pc : Int) + o.toInt))) ∧
      (d ≠ 0 → Reads (0#3 ++ 17#5 ++ d ++ 0#5 ++ o) (.loop d o)) ∧
      (∀ a : BitVec 5, a ≠ 0 ∨ d = 0 → decode (0#3 ++ 17#5 ++ d ++ a ++ o) = .error .illegal) ∧
      takesPrefix (.loop d o) = false)

/-- Binary32 arithmetic of S (R94), with its words: the low halves of sa and sb are patterns, one rounding to nearest even, and the result
pattern stands zero-extended in sd. -/
def Obligations.ScalarFloat : Prop :=
  ∀ (s : State) (d a b : BitVec 5),
    let x := f32 ((s.sval a).extractLsb' 0 32)
    let y := f32 ((s.sval b).extractLsb' 0 32)
    let put (i : Instr) (r : FVal) : Prop := GivesS i s d ((0#32 : BitVec 32) ++ encF32 (rne r))
    let flag (i : Instr) (c : Bool) : Prop := GivesS i s d (if c then 1 else 0)
    let num := !x.isNan && !y.isNan
    put (.fadd d a b) (fadd x y) ∧ put (.fsub d a b) (fsub x y) ∧ put (.fmul d a b) (fmul x y) ∧ put (.fdiv d a b) (fdiv x y) ∧
    put (.fmin d a b) (fmin x y) ∧ put (.fmax d a b) (fmax x y) ∧
    flag (.flt d a b) (num && fltVal x y) ∧ flag (.fle d a b) (num && fleVal x y) ∧ flag (.feq d a b) (num && feqVal x y) ∧
    put (.fcvtf d a) (ofInt (s.sval a).toInt) ∧
    GivesS (.fcvti d a) s d (BitVec.ofInt 64 (toIntSat 1 (-(2 ^ 63)) (2 ^ 63 - 1) x)) ∧
    put (.fsqrt d a) (fsqrt x) ∧
    (∀ p ∈ [(0#9, Instr.fadd d a b), (1#9, .fsub d a b), (2#9, .fmul d a b), (3#9, .fdiv d a b), (4#9, .fmin d a b), (5#9, .fmax d a b),
        (6#9, .flt d a b), (7#9, .fle d a b), (8#9, .feq d a b)], Reads (0#3 ++ 20#5 ++ d ++ a ++ b ++ p.1) p.2) ∧
    (∀ p ∈ [(9#9, Instr.fcvtf d a), (10#9, .fcvti d a), (11#9, .fsqrt d a)], Reads (0#3 ++ 20#5 ++ d ++ a ++ 0#5 ++ p.1) p.2 ∧
      (b ≠ 0 → decode (0#3 ++ 20#5 ++ d ++ a ++ b ++ p.1) = .error .illegal)) ∧
    ∀ f : BitVec 9, 12 ≤ f.toNat → decode (0#3 ++ 20#5 ++ d ++ a ++ b ++ f) = .error .illegal

/-! ## Engine-common words -/

/-- Engine-common words. Parameter stacks (R95–R98): pushes, and the trap 0x0010 of a full stack before anything is pushed; pops, copies
and exchanges, and the trap of a stack that holds too few before any is popped, which reports the depth (R334). Arithmetic on g
registers (R98) and engine branches (R100): EDBNZ counts its register down first; a target outside the text traps and counts nothing. -/
def Obligations.EngineWords : Prop :=
  (∀ (s : State) (e : Eng) (g : BitVec 4) (i : BitVec 24) (j : BitVec 20),
    let l := s.stk
    let full (x : Instr) : Prop := 8 ≤ l.length → Traps x s 0x10 (BitVec.ofNat 64 l.length)
    let few (n : Nat) (x : Instr) : Prop := l.length < n → Traps x s 0x10 (BitVec.ofNat 64 l.length)
    (l.length < 8 → GivesStack (.pushi e i) s (widened s.q.pfx i :: l) ∧
      GivesStack (.pushg e g j) s ((s.gval g + widened s.q.pfx j) :: l)) ∧
    full (.pushi e i) ∧ full (.pushg e g j) ∧
    (∀ a r, l = a :: r → (r.length < 7 → GivesStack (.dupp e) s (a :: a :: r)) ∧ GivesStack (.dropp e) s r ∧
      ∃ t, exec (.popg e g) s = .next t ∧ Completes (s.q.pc + 1) s t ∧ WritesG s t g a ∧ StackIs s t r ∧
        Confined [.g, .stack] s t ∧ MemoryKept s t) ∧
    (∀ a b r, l = a :: b :: r → GivesStack (.swapp e) s (b :: a :: r)) ∧
    full (.dupp e) ∧ few 1 (.dupp e) ∧ few 1 (.dropp e) ∧ few 1 (.popg e g) ∧ few 2 (.swapp e) ∧
    (e ≠ .s → Reads (BitVec.ofNat 3 e.tag ++ 24#5 ++ i) (.pushi e i) ∧ Reads (BitVec.ofNat 3 e.tag ++ 25#5 ++ g ++ j) (.pushg e g j))) ∧
  (∀ (s : State) (e : Eng) (d a b : BitVec 4) (i : BitVec 12) (n : BitVec 6),
      let x := s.gval a
      let y := widened s.q.pfx i
      GivesG (.gaddi e d a i) s d (BitVec.ofNat 64 (x.toNat + y.toNat)) ∧
      GivesG (.gadd e d a b) s d (BitVec.ofNat 64 (x.toNat + (s.gval b).toNat)) ∧
      GivesG (.gshli e d a n) s d (BitVec.ofNat 64 (x.toNat * 2 ^ n.toNat)) ∧
      GivesG (.gmuli e d a i) s d (BitVec.ofNat 64 (x.toNat * y.toNat)) ∧
      GivesG (.gmovi e d i) s d y) ∧
  (∀ (s : State) (e : Eng) (g : BitVec 4) (o : BitVec 18),
      let v := s.gval g
      let there := ((s.q.pc : Int) + o.toInt).toNat
      (inText s.q.pc o →
        GoesTo (.ejmp e o) s there ∧
        GoesTo (.ebz e g o) s (if v = 0 then there else s.q.pc + 1) ∧
        GoesTo (.ebnz e g o) s (if v = 0 then s.q.pc + 1 else there) ∧
        ∃ t, exec (.edbnz e g o) s = .next t ∧ Completes (if v - 1 = 0 then s.q.pc + 1 else there) s t ∧ WritesG s t g (v - 1) ∧
          Confined [.g] s t ∧ MemoryKept s t) ∧
      (¬inText s.q.pc o → ∀ x ∈ [Instr.ejmp e o, .ebz e g o, .ebnz e g o, .edbnz e g o],
        Traps x s 6 (BitVec.ofInt 64 ((s.q.pc : Int) + o.toInt))))

/-! ## The vector engine -/

/-- Binary32 lane arithmetic (R178–R180): an active lane gets the exact result rounded once to nearest even, an inactive one
keeps its value; VABS and VNEG act on the sign bit alone. A fused operation whose three sources are three registers of one
bank is counted (R175, R176), and as the model's choice one cycle of waiting with it (log 37). -/
def Obligations.VectorFloatLanes : Prop :=
  ∀ (s : State) (d a b c : BitVec 5) (m : BitVec 3),
    let x := fun l => (s.vec a).lane l
    let fx := fun l => f32 ((s.vec a).lane l)
    let fy := fun l => f32 ((s.vec b).lane l)
    let fz := fun l => f32 ((s.vec c).lane l)
    let put (i : Instr) (r : Nat → FVal) : Prop := GivesLanes i s d m (fun l => encF32 (rne (r l)))
    let bank (n : BitVec 5) := phys n.toNat s.me.rrb
    let three := bank a ≠ bank b ∧ bank a ≠ bank c ∧ bank b ≠ bank c ∧ bank a % 4 = bank b % 4 ∧ bank b % 4 = bank c % 4
    let fused (i : Instr) (r : Nat → FVal) : Prop :=
      ∃ t, exec i s = .next t ∧ Completes (s.q.pc + 1) s t ∧ Confined [.v, .counts] s t ∧ MemoryKept s t ∧
        (∀ l, l < 256 → (t.vec d).lane l = if (s.mask m).getLsbD l then encF32 (rne (r l)) else (s.vec d).lane l) ∧
        (∀ n, bank n ≠ bank d → t.vec n = s.vec n) ∧
        t.me.nser = (if three then min (s.me.nser + 1) (2 ^ 32 - 1) else s.me.nser) ∧
        t.me.nwait = (if three then min (s.me.nwait + 1) (2 ^ 16 - 1) else s.me.nwait)
    put (.vadd d a b m) (fun l => fadd (fx l) (fy l)) ∧ put (.vsub d a b m) (fun l => fsub (fx l) (fy l)) ∧
    put (.vmul d a b m) (fun l => fmul (fx l) (fy l)) ∧ put (.vdiv d a b m) (fun l => fdiv (fx l) (fy l)) ∧
    put (.vmin d a b m) (fun l => fmin (fx l) (fy l)) ∧ put (.vmax d a b m) (fun l => fmax (fx l) (fy l)) ∧
    GivesLanes (.vabs d a m) s d m (fun l => (0#1 : BitVec 1) ++ (x l).extractLsb' 0 31) ∧
    GivesLanes (.vneg d a m) s d m (fun l => (~~~((x l).extractLsb' 31 1)) ++ (x l).extractLsb' 0 31) ∧
    put (.vsqrt d a m) (fun l => fsqrt (fx l)) ∧ put (.vrsqrt d a m) (fun l => vrsqrtVal (fx l)) ∧
    put (.vrcp d a m) (fun l => fdiv (.fin false 1 0 false) (fx l)) ∧
    put (.vexp2 d a m) (fun l => vexp2Val (fx l)) ∧ put (.vlog2 d a m) (fun l => vlog2Val (fx l)) ∧
    (s.me.nser < 2 ^ 32 → s.me.nwait < 2 ^ 16 →
      fused (.vfma d a b c m) (fun l => fadd (fmul (fx l) (fy l)) (fz l)) ∧
      fused (.vfnma d a b c m) (fun l => fadd (fmul (fx l) (fy l)).neg (fz l)))

/-- Integer lane arithmetic (R181), with its words: modulo 2^32, and none traps. -/
def Obligations.VectorIntegerLanes : Prop :=
  ∀ (s : State) (d a b : BitVec 5) (m : BitVec 3),
    let x := fun l => (s.vec a).lane l
    let y := fun l => (s.vec b).lane l
    let n := fun l => ((s.vec b).lane l).toNat % 32
    let put (i : Instr) (f : Nat → Word) : Prop := GivesLanes i s d m f
    put (.viadd d a b m) (fun l => BitVec.ofNat 32 ((x l).toNat + (y l).toNat)) ∧
    put (.visub d a b m) (fun l => BitVec.ofInt 32 (((x l).toNat : Int) - (y l).toNat)) ∧
    put (.vimul d a b m) (fun l => BitVec.ofNat 32 ((x l).toNat * (y l).toNat)) ∧
    put (.vimulh d a b m) (fun l => BitVec.ofInt 32 ((x l).toInt * (y l).toInt / 2 ^ 32)) ∧
    put (.vimulhn d a b m) (fun l => BitVec.ofNat 32 ((x l).toNat * (y l).toNat / 2 ^ 32)) ∧
    put (.viand d a b m) (fun l => x l &&& y l) ∧ put (.vior d a b m) (fun l => x l ||| y l) ∧
    put (.vixor d a b m) (fun l => x l ^^^ y l) ∧
    put (.vishl d a b m) (fun l => BitVec.ofNat 32 ((x l).toNat * 2 ^ n l)) ∧
    put (.vishr d a b m) (fun l => BitVec.ofNat 32 ((x l).toNat / 2 ^ n l)) ∧
    put (.visra d a b m) (fun l => BitVec.ofInt 32 ((x l).toInt / 2 ^ n l)) ∧
    put (.vimin d a b m) (fun l => if (x l).toInt ≤ (y l).toInt then x l else y l) ∧
    put (.vimax d a b m) (fun l => if (x l).toInt ≤ (y l).toInt then y l else x l) ∧
    put (.viminn d a b m) (fun l => if (x l).toNat ≤ (y l).toNat then x l else y l) ∧
    put (.vimaxn d a b m) (fun l => if (x l).toNat ≤ (y l).toNat then y l else x l) ∧
    (∀ p ∈ [(0#6, Instr.viadd d a b m), (1#6, .visub d a b m), (2#6, .vimul d a b m), (3#6, .vimulh d a b m),
        (4#6, .vimulhn d a b m), (5#6, .viand d a b m), (6#6, .vior d a b m), (7#6, .vixor d a b m), (8#6, .vishl d a b m),
        (9#6, .vishr d a b m), (10#6, .visra d a b m), (11#6, .vimin d a b m), (12#6, .vimax d a b m),
        (13#6, .viminn d a b m), (14#6, .vimaxn d a b m)],
      Reads (1#3 ++ 1#5 ++ d ++ a ++ b ++ m ++ p.1) p.2) ∧
    (∀ f : BitVec 6, 15 ≤ f.toNat → decode (1#3 ++ 1#5 ++ d ++ a ++ b ++ m ++ f) = .error .illegal)

/-- Compares, masks and selects (R182–R184, R174): a compare gives a subset of its mask, m0 reads all ones and is never
written, and VSEL writes every lane. -/
def Obligations.VectorMasksAndSelects : Prop :=
  ∀ (s : State) (d e k m : BitVec 3) (v a b : BitVec 5) (c : BitVec 3),
    let x := fun l => (s.vec a).lane l
    let y := fun l => (s.vec b).lane l
    let on := fun l => (s.mask m).getLsbD l
    let holds {α : Type} (lt le eq : α → α → Bool) (p q : α) : Bool :=
      match c.toNat with
      | 0 => eq p q
      | 1 => !eq p q
      | 2 => lt p q
      | 3 => le p q
      | 4 => lt q p
      | _ => le q p
    let floats (p q : FVal) : Bool :=
      let un := p.isNan || q.isNan
      match c.toNat with
      | 1 => un || !feqVal p q
      | 6 => !un
      | 7 => un
      | _ => !un && holds fltVal fleVal feqVal p q
    GivesM (.vcmp d a b m c 1 0) s d (fun l => on l && floats (f32 (x l)) (f32 (y l))) ∧
    (c.toNat ≤ 5 →
      GivesM (.vcmp d a b m c 0 0) s d (fun l => on l &&
        holds (fun p q : Int => decide (p < q)) (fun p q => decide (p ≤ q)) (fun p q => decide (p = q)) (x l).toInt (y l).toInt) ∧
      GivesM (.vcmp d a b m c 0 1) s d (fun l => on l &&
        holds (fun p q : Nat => decide (p < q)) (fun p q => decide (p ≤ q)) (fun p q => decide (p = q)) (x l).toNat (y l).toNat)) ∧
    GivesM (.mand d e k) s d (fun l => (s.mask e).getLsbD l && (s.mask k).getLsbD l) ∧
    GivesM (.mor d e k) s d (fun l => (s.mask e).getLsbD l || (s.mask k).getLsbD l) ∧
    GivesM (.mxor d e k) s d (fun l => (s.mask e).getLsbD l != (s.mask k).getLsbD l) ∧
    GivesM (.mnot d e) s d (fun l => !(s.mask e).getLsbD l) ∧
    GivesM (.mset d a) s d (fun l => decide (x l ≠ 0)) ∧
    GivesV (.mpop v e) s v (fun _ => BitVec.ofNat 32 ((List.range 256).filter (fun l => (s.mask e).getLsbD l)).length) ∧
    GivesV (.vsel v a b m) s v (fun l => if on l then x l else y l) ∧
    s.mask 0 = BitVec.allOnes 256

/-- Conversions (R185): each code reads its source format, rounds once in the word's mode, and writes its result format with zeros
above it. MX quantisation (R186): VQMX packs the elements of each block of 32 lanes from the image's first byte and puts the
block's scale at byte 1,016 + b; VDQMX gives each element's value under its block's scale. -/
def Obligations.VectorConversions : Prop :=
  (∀ (s : State) (d a : BitVec 5) (n : BitVec 1) (m : BitVec 3) (r : BitVec 2),
      let x := fun l => (s.vec a).lane l
      let put (c : BitVec 4) (f : Nat → Word) : Prop := GivesLanes (.vcvt d a n m c r) s d m f
      let mode := r.toNat
      put 0 (fun l => BitVec.ofInt 32 (toIntSat mode (-(2 ^ 31)) (2 ^ 31 - 1) (f32 (x l)))) ∧
      put 1 (fun l => BitVec.ofInt 32 (toIntSat mode 0 (2 ^ 32 - 1) (f32 (x l)))) ∧
      put 2 (fun l => encF32 (rnd fmtF32 mode (ofInt (x l).toInt))) ∧
      put 3 (fun l => encF32 (rnd fmtF32 mode (ofInt (x l).toNat))) ∧
      put 4 (fun l => BitVec.ofNat 32 (narrow fmtBf16 mode false (f32 (x l)))) ∧
      put 5 (fun l => encF32 (fval fmtBf16 ((x l).extractLsb' 0 16).toNat)) ∧
      put 6 (fun l => BitVec.ofNat 32 (narrow fmtE4m3 mode (n == 1#1) (f32 (x l)))) ∧
      put 7 (fun l => BitVec.ofNat 32 (narrow fmtE5m2 mode (n == 1#1) (f32 (x l)))) ∧
      put 8 (fun l => encF32 (fval fmtE4m3 ((x l).extractLsb' 0 8).toNat)) ∧
      put 9 (fun l => encF32 (fval fmtE5m2 ((x l).extractLsb' 0 8).toNat)) ∧
      put 10 (fun l => encF32 (rintF mode (f32 (x l))))) ∧
  (∀ (s : State) (d a : BitVec 5) (f : BitVec 3), f.toNat ≤ 4 →
      let x := fun l => (s.vec a).lane l
      let w := mxWidth f.toNat
      let image (v : VReg) (j : Nat) : Bool := (v.lane (j / 32)).getLsbD (j % 32)
      (∃ t, exec (.vqmx d a f) s = .next t ∧ Completes (s.q.pc + 1) s t ∧ Confined [.v] s t ∧ MemoryKept s t ∧
        (∀ n, phys n.toNat s.me.rrb ≠ phys d.toNat s.me.rrb → t.vec n = s.vec n) ∧
        ∀ b, b < 8 →
          let q := quantMx f.toNat ((List.range 32).map (fun j => f32 (x (32 * b + j))))
          (∀ j k, j < 32 → k < w → image (t.vec d) (w * (32 * b + j) + k) = (q.2.getD j 0).testBit k) ∧
          (∀ k, k < 8 → image (t.vec d) (8 * (1016 + b) + k) = q.1.testBit k)) ∧
      (∃ t, exec (.vdqmx d a f) s = .next t ∧ Completes (s.q.pc + 1) s t ∧ Confined [.v] s t ∧ MemoryKept s t ∧
        (∀ n, phys n.toNat s.me.rrb ≠ phys d.toNat s.me.rrb → t.vec n = s.vec n) ∧
        ∀ l e p, l < 256 → e < 2 ^ w → p < 256 →
          (∀ k, k < w → image (s.vec a) (w * l + k) = e.testBit k) →
          (∀ k, k < 8 → image (s.vec a) (8 * (1016 + l / 32) + k) = p.testBit k) →
          (t.vec d).lane l = encF32 (rne (mxValue f.toNat p e))))

/-- Reductions (R187, R57): only the lanes named are written. The sums are the pairwise tree, the greatest and the least are
those of the lanes that take part, and a tie of VARGMAX or VARGMIN goes to the lowest lane. -/
def Obligations.VectorReductions : Prop :=
  ∀ (s : State) (d a : BitVec 5) (m : BitVec 3),
    let x := fun l => (s.vec a).lane l
    let fx := fun l => f32 ((s.vec a).lane l)
    let on := fun l => (s.mask m).getLsbD l
    let lane0 (i : Instr) (w : Word) : Prop := GivesV i s d (fun l => if l = 0 then w else (s.vec d).lane l)
    let takes (l : Nat) : Prop := l < 256 ∧ on l = true ∧ (fx l).isNan = false
    let arg (i : Instr) (better : FVal → FVal → Bool) : Prop :=
      (∀ l, takes l → (∀ k, takes k → better (fx k) (fx l) = false) → (∀ k, k < l → takes k → better (fx l) (fx k) = true) →
        GivesV i s d (fun j => if j = 0 then x l else if j = 1 then BitVec.ofNat 32 l else (s.vec d).lane j)) ∧
      ((∀ l, ¬takes l) →
        GivesV i s d (fun j => if j = 0 then 0x7FC00000#32 else if j = 1 then 0xFFFFFFFF#32 else (s.vec d).lane j))
    let ls := List.range 256
    lane0 (.vrsum d a m) (encF32 ((pairTree 8 (ls.map (fun l => if on l then fx l else .fin true 0 0 false))).headD .nan)) ∧
    lane0 (.vrisum d a m) ((ls.map (fun l => if on l then x l else 0)).foldl (· + ·) 0) ∧
    lane0 (.vrmax d a m) (encF32 ((ls.filter on).foldl (fun z l => fmax z (fx l)) .nan)) ∧
    lane0 (.vrmin d a m) (encF32 ((ls.filter on).foldl (fun z l => fmin z (fx l)) .nan)) ∧
    arg (.vargmax d a m) (fun p q => fltVal q p) ∧ arg (.vargmin d a m) fltVal

/-- Scans and the sort (R188, R189): the integer scan is the running sum of the active lanes; the sort lists the active lanes
that are no NaN in descending order, equals by lane, then the NaNs by lane, and fills the rest. One physical register as both
destinations traps. -/
def Obligations.VectorScansAndSort : Prop :=
  ∀ (s : State) (d a x : BitVec 5) (m : BitVec 3),
    let v := fun l => (s.vec a).lane l
    let fv := fun l => f32 ((s.vec a).lane l)
    let on := fun l => (s.mask m).getLsbD l
    let clash := phys d.toNat s.me.rrb = phys x.toNat s.me.rrb
    let act := (List.range 256).filter (fun l => on l)
    GivesLanes (.vscan d a m 0) s d m (fun l => encF32 ((scanAll (fun p q => rne (fadd p q))
      ((List.range 256).map (fun k => if on k then fv k else .fin true 0 0 false))).getD l .nan)) ∧
    GivesLanes (.vscan d a m 1) s d m (fun l =>
      (((List.range (l + 1)).filter (fun k => on k)).map v).foldl (· + ·) 0) ∧
    (clash → Traps (.vsortd d a x m) s 1 s.wordVal) ∧
    (¬clash → ∃ (t : State) (o : List Nat), exec (.vsortd d a x m) s = .next t ∧ Completes (s.q.pc + 1) s t ∧
      Confined [.v] s t ∧ MemoryKept s t ∧
      (∀ n, phys n.toNat s.me.rrb ≠ phys d.toNat s.me.rrb → phys n.toNat s.me.rrb ≠ phys x.toNat s.me.rrb → t.vec n = s.vec n) ∧
      o.Nodup ∧ (∀ l, l ∈ o ↔ l ∈ act) ∧
      o.Pairwise (fun k l => if (fv k).isNan then (fv l).isNan = true ∧ k < l
        else (fv l).isNan = true ∨ fltVal (fv l) (fv k) = true ∨ (fltVal (fv k) (fv l) = false ∧ k < l)) ∧
      ∀ j, j < 256 → (t.vec d).lane j = ((o[j]?).map v).getD 0x7FC00000#32 ∧
        (t.vec x).lane j = ((o[j]?).map (BitVec.ofNat 32)).getD 0xFFFFFFFF#32)

/-- Lane movement, moves and immediates (R190–R192). -/
def Obligations.VectorMoves : Prop :=
  ∀ (s : State) (d a b : BitVec 5) (m : BitVec 3) (g : BitVec 4) (n : BitVec 8) (i : BitVec 19),
    let x := fun l => (s.vec a).lane l
    let y := fun l => (s.vec b).lane l
    let k := min 256 (y 0).toNat
    GivesLanes (.vperm d a b m) s d m (fun l => x ((y l).extractLsb' 0 8).toNat) ∧
    GivesLanes (.vslup d a b m) s d m (fun l => if k ≤ l then x (l - k) else 0) ∧
    GivesLanes (.vsldn d a b m) s d m (fun l => if l + k < 256 then x (l + k) else 0) ∧
    GivesLanes (.vbcast d a b m) s d m (fun _ => x ((y 0).extractLsb' 0 8).toNat) ∧
    GivesLanes (.viota d m) s d m (fun l => BitVec.ofNat 32 l) ∧
    GivesLanes (.vmov d a m) s d m x ∧
    GivesV (.vsplf d i) s d (fun _ => BitVec.ofNat 32 (i.toNat * 2 ^ 13)) ∧
    GivesV (.vspli d i) s d (fun _ => BitVec.ofInt 32 i.toInt) ∧
    GivesV (.vins d g n) s d (fun l => if l = n.toNat then BitVec.ofNat 32 (s.gval g).toNat else (s.vec d).lane l) ∧
    GivesG (.vext g a n) s g (BitVec.ofNat 64 (x n.toNat).toNat)

/-- The counter-based generator (R193), with its words: four rounds on the counter and the lane's number under a 64-bit key. The binary32
form is exact: its pattern has the value (2·(z >> 9) + 1)·2^−24. -/
def Obligations.VectorRandomNumbers : Prop :=
  ∀ (s : State) (d a b : BitVec 5) (m : BitVec 3),
    let key : W64 := (s.vec b).lane 1 ++ (s.vec b).lane 0
    let round (p : W64 × W64) : W64 × W64 :=
      let u := (p.1 ^^^ p.2) * 0xE3A15C270B964D2F#64
      (u ^^^ (u >>> 29), p.2 + 0x6A09E667F3BCC909#64)
    let z := fun l : Nat => ((round (round (round (round ((s.vec a).lane l ++ BitVec.ofNat 32 l, key))))).1).extractLsb' 32 32
    GivesLanes (.vrng d a b m 1) s d m z ∧
    GivesLanes (.vrng d a b m 0) s d m (fun l => encF32 (.fin false (2 * ((z l).toNat / 2 ^ 9) + 1) (-24) false)) ∧
    ∀ w : Word, let n := 2 * (w.toNat / 2 ^ 9) + 1
      0 < n ∧ n < 2 ^ 24 ∧ feqVal (f32 (encF32 (.fin false n (-24) false))) (.fin false n (-24) false) = true ∧
      Reads (1#3 ++ 12#5 ++ d ++ a ++ b ++ m ++ 0#6) (.vrng d a b m 0) ∧ Reads (1#3 ++ 12#5 ++ d ++ a ++ b ++ m ++ 1#6) (.vrng d a b m 1) ∧
      ∀ f : BitVec 6, 2 ≤ f.toNat → decode (1#3 ++ 12#5 ++ d ++ a ++ b ++ m ++ f) = .error .illegal

/-! ## The machine -/

/-- A step runs the decoded instruction (R17, R18, R28): the turn of a sequencer that may issue passes the foreign words
before its next own or common word, and runs what that word decodes to at that address. The turn comes from the schedule's
head, or from the round (log 1), in the core's tag order within a cycle (R82). -/
def Obligations.StepRunsDecodedInstruction : Prop :=
  ∀ (s u : State) (n : Nat) (e : Eng) (d : Bool) (pc : Nat) (i : Instr),
    ((∃ rest, s.sched = .seq n e d :: rest ∧ n ≤ 128 ∧ u = { begun s with sched := rest, curCore := n, curEng := e, defer := d }) ∨
      (s.sched = [] ∧ s.phase = .seq n e ∧ d = false ∧
        u = { begun s with phase := phaseAfter (begun s) n e, curCore := n, curEng := e, defer := false })) →
    let u := u.setMe (u.me.turned e)
    canIssue s n e = true → inTurn s n e = true → deliverDue u = none →
    u.q.pc ≤ pc → pc < u.q.pc + 8 → pc < textLimit s n → takes s n e (wordAt s n pc) = true →
    (∀ a, u.q.pc ≤ a → a < pc → takes s n e (wordAt s n a) = false) → textBusy u u.q.pc (pc + 1) = false →
    decode (wordAt s n pc) = .ok i → (u.q.pfx ≠ [] → takesPrefix i = true) →
    let v : State := { (u.notePc u.q.pc).notePc pc with word := wordAt s n pc }
    rteStop v = false → heldTag v = false → reservedHere v = false → interlocked v n e v.word = false →
    step s = exec i v ∧ v.q.pc = pc ∧ v.q.wc = u.q.wc ∧ v.q.pfx = u.q.pfx ∧ v = { u with cores := v.cores, word := v.word } ∧
    (∀ m, m ≠ n → v.core m = s.core m) ∧ (∀ x, x ≠ e → v.me.seq x = u.me.seq x) ∧
    v.me.without [.seqs] = ((s.core n).turned e).without [.seqs]

/-- Words that are no instruction (R17–R19, R28): what the sequencer that takes one does, and the eight foreign words that a
turn passes. A prefix before such a word traps at the prefix instead, as the model reads R28 (log 13). An illegal common word is
taken by S, once every sequencer that has not executed ENDT has come to it (log 34), and in the service core's handler by the
sequencer that meets it, at once (R339). The tags reserved on the service core alone (R15) trap as the reserved ones do. -/
def Obligations.WordsThatAreNoInstruction : Prop :=
  (∀ s : State, Traps .reservedTag s 2 (s.word.setWidth 64) ∧ Traps .zeroWord s 3 0) ∧
  (∀ w : Word, (decode w = .error .reservedTag ↔ fld w 29 3 = 5 ∨ fld w 29 3 = 6) ∧ (decode w = .error .zeroWord ↔ w = 0)) ∧
  (∀ s : State, (∀ a, s.q.pc ≤ a → a < s.q.pc + 8 → a < textLimit s s.curCore ∧
      takes s s.curCore s.curEng (wordAt s s.curCore a) = false) →
    ∃ t, exec .foreignWordsPassed s = .next t ∧ t.q.pc = s.q.pc + 8 ∧ t.q.wc = s.q.wc ∧ t.q.pfx = s.q.pfx ∧
      Confined [] s t ∧ MemoryKept s t ∧ ∀ e, e ≠ s.curEng → t.me.seq e = s.me.seq e) ∧
  (∀ (s : State) (a : Nat), s.q.pc ≤ a → a < s.q.pc + 8 → textLimit s s.curCore ≤ a →
    (∀ b, s.q.pc ≤ b → b < a → b < textLimit s s.curCore ∧ takes s s.curCore s.curEng (wordAt s s.curCore b) = false) →
    Traps .foreignWordsPassed s 6 (BitVec.ofNat 64 a)) ∧
  (∀ s : State, rteStop s = false → heldTag s = false → reservedHere s = true →
    issueWord s = if s.q.pfx ≠ [] then .next (trapHere 1 (prefixWord s) s) else exec .reservedTag s) ∧
  (∀ s : State, reservedHere s = true ↔ fld s.word 29 3 = 5 ∨ fld s.word 29 3 = 6 ∨
    (s.curCore = 128 ∧ (fld s.word 29 3 = 1 ∨ fld s.word 29 3 = 2 ∨ fld s.word 29 3 = 4))) ∧
  (∀ (s : State) (r : DecodeErr), rteStop s = false → heldTag s = false → decode s.word = .error r → reservedHere s = false →
    let come := s.curEng = .s ∧ ∀ p ∈ team s.curCore, (s.me.seqs.get {} p.tag).ended = true ∨ (s.me.seqs.get {} p.tag).pc = s.q.pc
    (s.q.pfx ≠ [] → issueWord s = .next (trapHere 1 (prefixWord s) s)) ∧
    (s.q.pfx = [] → r = .reservedTag → issueWord s = exec .reservedTag s) ∧
    (s.q.pfx = [] → r = .zeroWord → issueWord s = exec .zeroWord s) ∧
    (s.q.pfx = [] → r = .illegal → fld s.word 29 3 ≠ 7 → issueWord s = .next (trapHere 1 (s.word.setWidth 64) s)) ∧
    (s.q.pfx = [] → r = .illegal → fld s.word 29 3 = 7 → s.me.mode ≠ .run ∨ s.me.fwHandler = true →
      issueWord s = .next (raise s s.curCore s.curEng 1 (s.word.setWidth 64) true)) ∧
    (s.q.pfx = [] → r = .illegal → fld s.word 29 3 = 7 → s.me.mode = .run → s.me.fwHandler = false →
      (come → issueWord s = .next (raise s s.curCore .s 1 (s.word.setWidth 64) true)) ∧
      (¬come → issueWord s = .next (stallIn .other s))))

/-- Words written out from the tables of R23–R34, one or more of each form, the spec's own examples, and all the common majors (R31). -/
def Obligations.DecodedWordsFromTables : Prop :=
  (decode 0x1F48D159#32 = .ok (.limm 0x48D159) ∧ decode 0x0128389A#32 = .ok (.addi 5 0 0x389A) ∧
    decode 0x3E005400#32 = .ok (.relsEngine .v 5) ∧
    decode (0#3 ++ 14#5 ++ 0x800001#24) = .ok (.jmp 0x800001) ∧ decode (0#3 ++ 16#5 ++ 0#5 ++ 19#5 ++ 0#5 ++ 1#9) = .ok (.callr 19) ∧
    decode (2#3 ++ 24#5 ++ 0x800003#24) = .ok (.pushi .m 0x800003) ∧
    decode (0#3 ++ 0#5 ++ 1#5 ++ 2#5 ++ 3#5 ++ 1#9) = .ok (.sub 1 2 3) ∧
    decode (0#3 ++ 7#5 ++ 9#5 ++ 0x40001#19) = .ok (.lup 9 0x40001) ∧
    decode (0#3 ++ 13#5 ++ 4#5 ++ 7#5 ++ 0x2001#14) = .ok (.bgen 4 7 0x2001) ∧
    decode (0#3 ++ 18#5 ++ 6#5 ++ 7#5 ++ 9#4 ++ 2#2 ++ 1#1 ++ 33#7) = .ok (.ld 6 7 9 2 1 33) ∧
    decode (0#3 ++ 19#5 ++ 6#5 ++ 7#5 ++ 9#4 ++ 3#2 ++ 0#1 ++ 33#7) = .ok (.st 6 7 9 3 33) ∧
    decode (0#3 ++ 21#5 ++ 3#5 ++ 40#6 ++ 4#3 ++ 0#10) = .ok (.tawait 3 40) ∧
    decode (0#3 ++ 23#5 ++ 0x8001#16 ++ 2#3 ++ 1#2 ++ 0#3) = .ok (.cfence 0x8001 2 1) ∧
    decode (0#3 ++ 26#5 ++ 8#5 ++ 0#5 ++ 0#2 ++ 0x708#12) = .ok (.srd 8 0x708) ∧
    decode 0x1A003001#32 = .ok .rte ∧
    decode (0#3 ++ 27#5 ++ 8#5 ++ 200#8 ++ 2#3 ++ 0#8) = .ok (.rclaim 8 200) ∧
    decode (7#3 ++ 1#5 ++ 0#8 ++ 0xABCD#16) = .ok (.safept 0xABCD) ∧
    decode (7#3 ++ 5#5 ++ 17#5 ++ 4#3 ++ 0x00F0#16) = .ok (.rfence 17 4 0x00F0) ∧
    decode (3#3 ++ 25#5 ++ 11#4 ++ 0x80001#20) = .ok (.pushg .c 11 0x80001) ∧
    decode (4#3 ++ 26#5 ++ 1#4 ++ 2#4 ++ 3#4 ++ 0x801#12) = .ok (.gmuli .f 1 2 0x801) ∧
    decode (1#3 ++ 27#5 ++ 1#4 ++ 2#4 ++ 1#1 ++ 15#4 ++ 0x7FF#11) = .ok (.gst .v 1 2 15 0x7FF) ∧
    decode (2#3 ++ 28#5 ++ 33#6 ++ 5#4 ++ 3#2 ++ 0#12) = .ok (.ewaitv .m 33 5) ∧
    decode (2#3 ++ 29#5 ++ 5#4 ++ 1#2 ++ 0x20001#18) = .ok (.edbnz .m 5 0x20001) ∧
    decode (1#3 ++ 0#5 ++ 17#5 ++ 18#5 ++ 9#5 ++ 5#3 ++ 1#6) = .ok (.vsub 17 18 9 5) ∧
    decode (1#3 ++ 2#5 ++ 1#5 ++ 2#5 ++ 3#5 ++ 4#5 ++ 5#3 ++ 1#1) = .ok (.vfnma 1 2 3 4 5) ∧
    decode (1#3 ++ 3#5 ++ 6#3 ++ 0#2 ++ 2#5 ++ 3#5 ++ 5#3 ++ 7#3 ++ 1#1 ++ 0#1 ++ 0#1) = .ok (.vcmp 6 2 3 5 7 1 0) ∧
    decode (1#3 ++ 13#5 ++ 9#5 ++ 3#4 ++ 2#3 ++ 8#4 ++ 255#8) = .ok (.vld 9 3 2 8 255) ∧
    decode (1#3 ++ 16#5 ++ 9#5 ++ 3#4 ++ 2#3 ++ 8#4 ++ 1#1 ++ 6#4 ++ 0#3) = .ok (.vsct 9 3 2 8 6) ∧
    decode (1#3 ++ 18#5 ++ 9#5 ++ 0x40000#19) = .ok (.vspli 9 0x40000) ∧
    decode (2#3 ++ 4#5 ++ 0x2F#6 ++ 0#6 ++ 3#6 ++ 1#3 ++ 2#3) = .ok (.mma 0x2F 3 1 2) ∧
    decode (3#3 ++ 4#5 ++ 0#8 ++ 7#4 ++ 0#12) = .ok (.ccomb 7) ∧ decode (4#3 ++ 11#5 ++ 0#8 ++ 7#4 ++ 0#12) = .ok (.fqst 7)) ∧
  ((∀ (i : BitVec 16) (o : BitVec 24) (d : BitVec 5) (p : BitVec 3), p = 3 ∨ p = 4 →
      decode (7#3 ++ 0#5 ++ 0#24) = .ok .nopc ∧ decode (7#3 ++ 1#5 ++ 0#8 ++ i) = .ok (.safept i) ∧
      decode (7#3 ++ 2#5 ++ o) = .ok (.loopk o) ∧ decode (7#3 ++ 3#5 ++ o) = .ok (.lexit o) ∧
      decode (7#3 ++ 4#5 ++ 0#24) = .ok .endt ∧ decode (7#3 ++ 5#5 ++ d ++ p ++ i) = .ok (.rfence d p i)) ∧
    ∀ (m : BitVec 5) (x : BitVec 24), 6 ≤ m.toNat → decode (7#3 ++ m ++ x) = .error .illegal)

/-- Decoding inverts encoding: every well-formed instruction that has a word is read back from it with every operand, and a
word that is an instruction is the encoding of what it decodes to, so that no bit of it is dropped. -/
def Obligations.DecodeInvertsEncode : Prop :=
  (∀ i : Instr, Sys2Proof.Laws.RoundTrip.Statement i) ∧
  ∀ (w : Word) (i : Instr), decode w = .ok i → encode i = some w ∧ i.wf = true

/-- The state after reset holds the values that the spec states: the registers of every core (R69, R78, R108, R336, R217), the
counters (R140), the distribution registers (R127, R136), launching stopped and heaters at their middle code (R260, R292), the
boot, key and interrupt registers of the plinth (R157, R353, R354), and memory in canonical form with nothing listed. -/
def Obligations.ResetGivesStatedValues : Prop :=
  let s := State.reset
  (∀ n, let c := s.core n
    c.slipw = 4 ∧ c.spdmax = 0x10000 ∧ c.spdist = 0 ∧ c.detmode = false ∧ c.wdog = 0x8000 ∧ c.ntrap = 0 ∧ c.nesc = 0 ∧
    (∀ k, c.tileSt.get .free k = .free) ∧ ∀ k d i j, c.cell k d i j = 0) ∧
  s.tasks.preDrain = 0x4000 ∧ s.tasks.preKill = 0xFFFF ∧ s.tasks.cl0Part = 4 ∧ (∀ k, s.counter k = 0) ∧
  s.fabric.quiesce = true ∧ s.fabric.slotMode = false ∧ (∀ k, (s.fabric.rings.get {} k).heat = 0x800) ∧
  s.plinth.stage = 0 ∧ s.plinth.fatal = false ∧ (∀ k, s.plinth.keyVal.get false k = false) ∧ s.plinth.intEn = 0 ∧
  (∀ i, s.plinth.meas.get 0 i = 0) ∧
  Memory.wf s.mem = true ∧ ∀ a, s.mem.get? a = none

/-- Every step keeps the canonical form of memory: addresses rise, and none is listed with what it reads as unlisted. -/
def Obligations.StepKeepsMemoryCanonical : Prop :=
  ∀ s t : State, Memory.wf s.mem = true → step s = .next t → Memory.wf t.mem = true

/-! ## Common words, events and waits -/

/-- Common words (R65–R67, R70, R73–R76, R78–R80): a word that every sequencer executes at its own position. Where the record and the
slip bound allow it, cc counts it, NOPC and SAFEPT go on, LOOPK and LEXIT branch, and ENDT ends the sequencer. The record holds
its address for the sequencers behind. The word traps at another address than the recorded one, in a rebuild stub (R134) and in
a handler (R331; log 8 for the cause), or where another sequencer stalls at an RFENCE elsewhere as the same common word, the model's
choice (log 48), and waits for the slip bound; that it traps at once where slip would hold it, too, is the model's choice (log 94). A target outside the text
traps (R17). A common word is registered as passed, the oldest first, once nothing issued before it is outstanding, where a write that firmware has failed
no longer counts, the model's choice (log 85). -/
def Obligations.CommonWords : Prop :=
  (∀ (s : State) (i : BitVec 16) (o : BitVec 24),
      let c := s.me
      let q := s.q
      let e := s.curEng
      let there := ((q.pc : Int) + o.toInt).toNat
      let agrees := (∀ a, c.cwRec[q.cc.toNat - c.cwBase]? = some a → a = q.pc) ∧ ∀ p ∈ team s.curCore, p ≠ e →
        (c.seq p).wait.any (fun w => w.kind = .rfence) = true → (c.seq p).cc = q.cc → (c.seq p).pc = q.pc
      let slips := ∀ p ∈ team s.curCore, (c.seq p).ended = false →
        q.cc.toNat + 1 ≤ (c.seq p).cc.toNat - (c.seq p).unpassed.length + c.slipw.toNat
      let rest (d : Core) := Core.without [.seqs, .record] { d with spdist := 0, rrb := 0 }
      let does (x : Instr) (p : Nat) (f : SeqState → Prop) (sp : Bool) : Prop :=
        ∃ t, exec x s = .next t ∧ t.q.pc = p ∧ t.q.cc = q.cc + 1 ∧ t.q.wc = q.wc + 1 ∧ t.q.pfx = [] ∧ t.q.wait = none ∧
          t.q.vclk.get e = q.wc + 1 ∧ f t.q ∧ rest t.me = rest c ∧ t = { s with cores := t.cores } ∧
          (∀ n, n ≠ s.curCore → t.core n = s.core n) ∧ (∀ p, p ≠ e → t.me.seq p = c.seq p) ∧
          t.me.spdist = (if sp ∧ ∀ p ∈ team s.curCore, p = e ∨ (c.seq p).ended = true ∨ (c.seq p).cc.toNat < q.cc.toNat + 1 then 0
            else c.spdist) ∧
          t.me.rrb = (if e = .v ∧ x = .loopk o then c.rrb + 1 else c.rrb) ∧
          (c.cwBase + c.cwRec.length = q.cc.toNat → (∀ p ∈ team s.curCore, c.cwBase ≤ (c.seq p).cc.toNat) →
            (∃ p ∈ team s.curCore, p ≠ e ∧ (c.seq p).cc.toNat ≤ q.cc.toNat) →
            t.me.cwRec[q.cc.toNat - t.me.cwBase]? = some q.pc)
      (c.mode = .run → q.cc.toNat + 1 < 2 ^ 32 → q.ended = false →
        (agrees → slips →
          does .nopc (q.pc + 1) (fun r => r.iter = q.iter ∧ r.ended = false) false ∧
          (inText q.pc o → does (.lexit o) there (fun r => r.iter = q.iter ∧ r.inKernel = false ∧ r.inIter = false) false) ∧
          (c.stopReq = none → does .endt q.pc (fun r => r.ended = true ∧ r.unpassed = []) false) ∧
          (c.stopReq = none → c.cancel ≠ some e.tag →
            does (.safept i) (q.pc + 1) (fun r => r.iter = q.iter ∧ r.atSafe = some (i.toNat, false)) true ∧
            (inText q.pc o →
              does (.loopk o) (if (q.iter + 1).toNat < s.trips then there else q.pc + 1) (fun r => r.iter = q.iter + 1) true)) ∧
          (¬inText q.pc o → ∀ x ∈ [Instr.loopk o, .lexit o], Traps x s 6 (BitVec.ofInt 64 ((q.pc : Int) + o.toInt)))) ∧
        (inText q.pc o → ∀ x ∈ [Instr.nopc, .safept i, .endt, .loopk o, .lexit o],
          (¬agrees → Traps x s 1 s.wordVal) ∧ (agrees → ¬slips → Waits x s .slip))) ∧
      (c.mode = .stub → inText q.pc o → ∀ x ∈ [Instr.nopc, .safept i, .endt, .loopk o, .lexit o], Traps x s 1 s.wordVal) ∧
      (c.mode = .handler → ∃ k, 1 ≤ k ∧ k ≤ 0x1A ∧ ∀ x ∈ [Instr.nopc, .safept i, .endt, .loopk o, .lexit o],
        Traps x s k s.wordVal)) ∧
  (∀ (s : State) (n : Nat) (e : Eng) (m : Nat) (l : List Nat),
      let q := (s.core n).seqs.get {} e.tag
      q.unpassed = m :: l →
      (heldBefore s n e m = false → ∃ t, exec (.commonWordPass n e) s = .next t ∧
        (t.core n).seqs.get {} e.tag = { q with unpassed := l } ∧
        (∀ p, p ≠ e → (t.core n).seqs.get {} p.tag = (s.core n).seqs.get {} p.tag) ∧
        t.core n = { s.core n with seqs := (t.core n).seqs } ∧ (∀ k, k ≠ n → t.core k = s.core k) ∧ t = { s with cores := t.cores }) ∧
      (heldBefore s n e m = true → exec (.commonWordPass n e) s = .next s))

/-- Posts (R81–R85): a post enters the event's queue last, with its value, the poster's clock, which counts the word itself as
the model reads R103 (log 12), and what it releases: the poster's accesses of classes 0 to 14 that are not performed, what it has
acquired, and those that a fence of S has performed at core scope; a full event, and an earlier poster that waits for it, make the poster wait. -/
def Obligations.Posts : Prop :=
  ∀ (s : State) (r : BitVec 5) (g : BitVec 4) (e : Eng) (v : BitVec 6),
    let c := s.me
    let q := s.q
    s.me.mode ≠ .handler →
    ∀ p ∈ [(Instr.post v, 0#32), (.postv r v, (s.sval r).setWidth 32), (.epost e v, 0#32), (.epostv e v g, (s.gval g).setWidth 32)],
      ((c.fifo v.toNat).length < 8 → queuedBefore s (WaitKind.posts v.toNat) = false →
        ∃ t, exec p.1 s = .next t ∧ Completes (q.pc + 1) s t ∧ Confined [.events] s t ∧ MemoryKept s t ∧
          (∀ k, k ≠ v.toNat → t.me.fifo k = c.fifo k) ∧
          t.me.fifo v.toNat = c.fifo v.toNat ++
            [{ value := p.2, clk := q.vclk.set s.curEng (q.wc + 1), rel := edgeSet s s.curCore s.curEng }]) ∧
      (8 ≤ (c.fifo v.toNat).length ∨ queuedBefore s (WaitKind.posts v.toNat) = true → Waits p.1 s (.post v.toNat))

/-- Awaits (R82–R85, R168): the oldest post is consumed once what it releases has been performed at core scope, its clock is
merged, and its value is the result; with no post the sequencer waits. TAWAIT sets bit 32 of its result, and gives 0 once
the cycle of its limit has passed. With a limit of 0 cycles it waits for the end of its cycle of issue, as the model reads R84
(log 69). -/
def Obligations.Awaits : Prop :=
  ∀ (s : State) (r : BitVec 5) (g : BitVec 4) (e : Eng) (v : BitVec 6),
    let c := s.me
    let q := s.q
    let consumed (t : State) (p : Post) (l : List Post) : Prop :=
      t.q.pc = q.pc + 1 ∧ t.q.wc = q.wc + 1 ∧ t.q.wait = none ∧ t.q.pfx = [] ∧
      t.q.vclk = (q.vclk.merge p.clk).set s.curEng (q.wc + 1) ∧ (∀ x, x ≠ s.curEng → t.me.seq x = c.seq x) ∧
      t.me.fifo v.toNat = l ∧ (∀ k, k ≠ v.toNat → t.me.fifo k = c.fifo k) ∧ MemoryKept s t ∧
      (∀ k, k ∈ t.q.acq ↔ (k ∈ q.acq ∨ k ∈ p.rel) ∧ pendingAt t false k = true)
    let sIs (t : State) (x : W64) : Prop := ∀ n, t.sval n = if n = 0 then 0 else if n = r then x else s.sval n
    s.me.mode ≠ .handler →
    (∀ p l, c.fifo v.toNat = p :: l → queuedBefore s (WaitKind.takes v.toNat) = false → p.rel.any (pendingAt s true) = false →
      (∀ x ∈ [Instr.await v, .ewait e v], ∃ t, exec x s = .next t ∧ consumed t p l ∧ Confined [.events] s t) ∧
      (∃ t, exec (.awaitv r v) s = .next t ∧ consumed t p l ∧ Confined [.events, .s] s t ∧ sIs t (p.value.setWidth 64)) ∧
      (∃ t, exec (.ewaitv e v g) s = .next t ∧ consumed t p l ∧ Confined [.events, .g] s t ∧
        ∀ n, t.gval n = if n = g then p.value.setWidth 64 else s.gval n) ∧
      ((∀ w x, q.wait = some w → w.kind.limit = some x → s.cycle ≤ x.2) →
        ∃ t, exec (.tawait r v) s = .next t ∧ consumed t p l ∧ Confined [.events, .s] s t ∧
          sIs t (BitVec.ofNat 64 (2 ^ 32 + p.value.toNat)))) ∧
    (∀ p l, c.fifo v.toNat = p :: l → ∀ x ∈ [Instr.await v, .ewait e v, .awaitv r v, .ewaitv e v g],
      (queuedBefore s (WaitKind.takes v.toNat) = true → Waits x s (.await v.toNat)) ∧
      (queuedBefore s (WaitKind.takes v.toNat) = false → p.rel.any (pendingAt s true) = true →
        Waits x s (.awaitHeld v.toNat))) ∧
    (c.fifo v.toNat = [] →
      (∀ x ∈ [Instr.await v, .ewait e v, .awaitv r v, .ewaitv e v g], Waits x s (.await v.toNat)) ∧
      (q.wait = none →
        Waits (.tawait r v) s (.tawait v.toNat (s.cycle + ((s.sval r).extractLsb' 0 32 : Word).toNat))) ∧
      ∀ l o w, q.wait = some ⟨.tawait v.toNat l, w, o⟩ →
        (l < s.cycle → GivesS (.tawait r v) s r 0) ∧ (s.cycle ≤ l → Waits (.tawait r v) s (.tawait v.toNat l)))

/-- Wakes (R67, R84, R86, R141, R245, R310, R325, R343): a wake is a turn of the waiting sequencer at its word, so it does what the
word does then, which is to complete where the word can, unless a deferred slice fault is due at the word: then that is taken. A TAWAIT gives 0 once the cycle of its limit has passed. -/
def Obligations.WakesRunTheWaitingWord : Prop :=
  ∀ (s : State) (n : Nat) (e : Eng) (i : Instr) (w : Wait),
    let t := s.as n e
    let runs (x : Instr) : Prop := (deliverDue t = none → ∃ u, exec x s = .next u ∧ exec i t = .next u) ∧
      ∀ u, deliverDue t = some u → exec x s = .next u
    canIssue s n e = true → ((s.core n).seq e).wait = some w → decode (wordAt s n ((s.core n).seq e).pc) = .ok i →
    (∀ r v g x o k (b : BitVec 16) p d a y,
      (w.kind = .slip → slipOk (s.core n) n e = true →
        i ∈ [Instr.nopc, .safept b, .loopk o, .lexit o, .endt, .rfence r p b] → runs (.slipRelease n e)) ∧
      (w.kind.isAwait = true → i ∈ [Instr.await v, .awaitv r v, .tawait r v, .ewait x v, .ewaitv x v g] →
        runs (.eventWaitWake n e)) ∧
      (w.kind.isRing = true → i ∈ [Instr.awaitf d k, .rclaim d k, .awaitfEngine x g k, .rclaimEngine x g k] →
        runs (.ringWaitWake n e)) ∧
      (∀ z, w.kind = .counter z → i = .ctwait d a y → runs (.counterWaitWake n e)) ∧
      (∀ z, w.kind = .sliceSet z → i ∈ [Instr.swaitp d a y, .swaitf d a] → runs (.sliceWaitWake n e))) ∧
    (w.kind = .wfi → e = .s → i = .wfi → wakes s n = true → n ∈ s.cores.keys →
      (∀ m ∈ s.cores.keys, m ≠ n → ¬(waiting s m .s (fun k => k = .wfi) = true ∧ wakes s m = true)) →
      runs .wfiWake) ∧
    (∀ r v l, e = .s → i = .tawait r v → (w.kind = .tawait v.toNat l ∨ w.kind = .tawaitHeld v.toNat l) → l < s.cycle →
      (∀ u, deliverDue t = some u → exec (.tawaitTimeout n) s = .next u) ∧
      (deliverDue t = none → (s.core n).mode ≠ .handler → ∃ u, exec (.tawaitTimeout n) s = .next u ∧ Completes (t.q.pc + 1) t u ∧
        (∀ m, u.sval m = if m = 0 then 0 else if m = r then 0 else t.sval m) ∧ Confined [.s] t u ∧ MemoryKept t u))

/-! ## Rings and counters -/

/-- Ring words of S and of the engines (R240–R246): AWAITF takes a full slot to draining and gives its address, RELS empties the
draining slot, whose error flag stays, RCLAIM takes an empty slot for an expected count, its error flag cleared, or at once full for 0,
the flag as it was, and RSTAT reads. A slot released or just claimed holds no deposited clock: the model's choice (log 89). An uninitialised ring, a
release without a draining slot, a second draining by one sequencer, and a claim beyond the slot or on a fabric ring trap 0x0011
with the ring's number; a slot in another state makes the sequencer wait. RINIT reads a record of 32 aligned bytes in own
scratchpad: the ring's slots start empty and its pointers at 0, and a slot count of 0 removes it; a ring in use, and a record
that does not obey the rules, trap 0x0011 and change nothing. -/
def Obligations.RingWords : Prop :=
  (∀ (s : State) (d : BitVec 5) (g : BitVec 4) (e : Eng) (r : BitVec 8),
      let k := r.toNat
      let x := s.me.rings.get {} k
      let j := x.slot x.rd
      let claimed : Slot := { x.slot x.cl with b := 0, clk := none, rel := [] }
      let addr (n : Nat) : W64 := BitVec.ofNat 64 (x.base + n * x.size)
      let misuses (i : Instr) : Prop := Traps i s 0x11 (BitVec.ofNat 64 k)
      let ringIs (t : State) (y : Ring) : Prop := t.me.rings = s.me.rings.set {} k y
      let sIs (t : State) (v : W64) : Prop := ∀ n, t.sval n = if n = 0 then 0 else if n = d then v else s.sval n
      let gIs (t : State) (v : W64) : Prop := ∀ n, t.gval n = if n = g then v else s.gval n
      let moves (i : Instr) (z : List Zone) (f : State → Prop) : Prop :=
        ∃ t, exec i s = .next t ∧ t.q.pc = s.q.pc + 1 ∧ t.q.wc = s.q.wc + 1 ∧ (∀ p, p ≠ s.curEng → t.me.seq p = s.me.seq p) ∧
          Confined (.rings :: z) s t ∧ MemoryKept s t ∧ f t
      s.me.mode ≠ .handler →
      (x.valid = false → ∀ i ∈ [Instr.awaitf d r, .rels r, .rclaim d r, .awaitfEngine e g r, .relsEngine e r, .rclaimEngine e g r],
        misuses i) ∧
      (x.valid = true → j.tag = 2 → queuedBefore s (WaitKind.onRing k false) = false →
        let f (t : State) : Prop := ringIs t (x.putSlot x.rd { j with tag := 3, owner := s.curEng.tag }) ∧
          t.q.vclk = (match j.clk with
            | none => s.q.vclk
            | some k => s.q.vclk.merge k).set s.curEng (s.q.wc + 1)
        moves (.awaitf d r) [.s] (fun t => f t ∧ sIs t (addr x.rd)) ∧
        moves (.awaitfEngine e g r) [.g] (fun t => f t ∧ gIs t (addr x.rd))) ∧
      (x.valid = true → j.tag = 3 → j.owner = s.curEng.tag → misuses (.awaitf d r) ∧ misuses (.awaitfEngine e g r)) ∧
      (x.valid = true → j.tag ≠ 2 → ¬(j.tag = 3 ∧ j.owner = s.curEng.tag) →
        ∀ i ∈ [Instr.awaitf d r, .awaitfEngine e g r], Waits i s (.ring k false)) ∧
      (x.valid = true → j.tag = 3 → ∀ i ∈ [Instr.rels r, .relsEngine e r], moves i [] (fun t =>
        let y := t.me.rings.get {} k
        y.slot x.rd = { j with tag := 0, clk := none, rel := [] } ∧ y.rd = (x.rd + 1) % x.count ∧ y.cl = x.cl ∧ (∀ n, n ≠ x.rd → y.slot n = x.slot n) ∧
        y.valid = true ∧ y.base = x.base ∧ y.size = x.size ∧ y.count = x.count ∧ y.ovf = x.ovf ∧
        ∀ n, n ≠ k → t.me.rings.get {} n = s.me.rings.get {} n)) ∧
      (x.valid = true → j.tag ≠ 3 → misuses (.rels r) ∧ misuses (.relsEngine e r)) ∧
      (∀ p ∈ [(Instr.rclaim d r, s.sval d), (.rclaimEngine e g r, s.gval g)],
        (x.valid = true → (x.fabric = true ∨ x.size < p.2.toNat) → misuses p.1) ∧
        (x.valid = true → x.fabric = false → p.2.toNat ≤ x.size → (x.slot x.cl).tag ≠ 0 → Waits p.1 s (.ring k true)) ∧
        (x.valid = true → x.fabric = false → p.2.toNat ≤ x.size → (x.slot x.cl).tag = 0 →
          queuedBefore s (WaitKind.onRing k true) = false → moves p.1 [.s, .g] (fun t =>
            ringIs t { (x.putSlot x.cl (if p.2 = 0 then { claimed with tag := 2 } else
              { claimed with tag := 1, x := p.2.toNat, a := 0, err := false })) with cl := (x.cl + 1) % x.count } ∧
            (p.1 = .rclaim d r → sIs t (addr x.cl) ∧ ∀ n, t.gval n = s.gval n) ∧
            (p.1 = .rclaimEngine e g r → gIs t (addr x.cl) ∧ ∀ n, t.sval n = s.sval n)))) ∧
      (∃ v : W64, GivesS (.rstat d r) s d v ∧ GivesG (.rstatEngine e g r) s g v ∧ (x.valid = false → v = 0) ∧
        (x.valid = true → x.rd < 4096 → x.cl < 4096 → j.tag < 4 →
          v.extractLsb' 0 12 = BitVec.ofNat 12 x.rd ∧ v.extractLsb' 12 12 = BitVec.ofNat 12 x.cl ∧
          v.extractLsb' 24 2 = BitVec.ofNat 2 j.tag ∧ v.getLsbD 26 = j.err ∧ v.getLsbD 27 = x.ovf ∧ v.getLsbD 28 = true))) ∧
  (∀ (s : State) (d : BitVec 5) (r : BitVec 8) (loc base size count flags pad : Nat),
      let a := (s.sval d).toNat
      let k := r.toNat
      let rings := s.me.rings
      let busy := ∃ e ∈ (rings.get {} k).slots.entries, e.2.tag = 1 ∨ e.2.tag = 3
      Unhindered s → s.me.mode ≠ .handler → s.curCore < 128 → s.curEng = .s → a % 32 = 0 → OwnAt s a 32 loc → Clean s loc 32 →
      Holds s 0 loc (leBytes 8 base ++ leBytes 4 size ++ leBytes 4 count ++ leBytes 4 flags ++ leBytes 12 pad) →
      base < 2 ^ 64 → size < 2 ^ 32 → count < 2 ^ 32 → flags < 2 ^ 32 → pad < 2 ^ 96 →
      let fits := base % 128 = 0 ∧ size % 128 = 0 ∧ 128 ≤ size ∧ size ≤ 0x400000 ∧ (∃ p, p ≤ 12 ∧ count = 2 ^ p) ∧ flags < 4 ∧
        pad = 0 ∧ base + count * size ≤ ownBytes s ∧ tagsUsed s.me k + count ≤ 65536
      let sets (y : Ring) : Prop := ∃ t, exec (.rinit d r) s = .next t ∧ Completes (s.q.pc + 1) s t ∧ Accesses [.rings] s t ∧
        MemoryKept s t ∧ t.me.rings = rings.set {} k y
      (busy → Traps (.rinit d r) s 0x11 (BitVec.ofNat 64 k)) ∧
      (¬busy → count = 0 → sets {}) ∧
      (¬busy → count ≠ 0 → fits → sets { valid := true, base := base, size := size, count := count, fabric := flags % 2 = 1
                                         remote := 2 ≤ flags }) ∧
      (¬busy → count ≠ 0 → ¬fits → Traps (.rinit d r) s 0x11 (BitVec.ofNat 64 k)))

/-- Counters (R140–R142): a compute core names a counter of its context; beyond the context's count the word traps 0x0006 with
the number. CTAKE adds and gives the old value, CTADD adds and CTSET sets after the release step, CTRD reads, and CTWAIT reads
once the counter has reached its bound modulo 2^64, and waits until then. That a word waits at issue for S's earlier updates, which R141 puts before it, is the
model's choice (log 41). -/
def Obligations.Counters : Prop :=
  ∀ (s : State) (d a b : BitVec 5) (k : Nat),
    let x := s.me.ctxOf s.curCore
    let v := s.sval a
    let w := s.sval b
    let names := if s.curCore = 128 then v.toNat < 4096 ∧ k = v.toNat
      else v.toNat < ctxField s x 0x10 2 ∧ k = ctxField s x 0x0E 2 + v.toNat
    let sets (i : Instr) (y : W64) (r : W64) (named : Bool) : Prop :=
      ∃ t, exec i s = .next t ∧ Completes (s.q.pc + 1) s t ∧ MemoryKept s t ∧
        (∀ n, t.counter n = if n = k then y else s.counter n) ∧ t.tasks = { s.tasks with counters := t.tasks.counters } ∧
        t = { s with cores := t.cores, tasks := t.tasks } ∧ (∀ n, n ≠ s.curCore → t.core n = s.core n) ∧
        (∀ n, t.sval n = if n = 0 then 0 else if n = d ∧ named then r else s.sval n) ∧
        t.me.without [.seqs, .s] = s.me.without [.seqs, .s]
    let free := released s s.curCore s.curEng = true ∧ classBusy s noClass = false
    s.me.mode ≠ .handler →
    (¬(∃ n, if s.curCore = 128 then v.toNat < 4096 ∧ n = v.toNat
        else v.toNat < ctxField s x 0x10 2 ∧ n = ctxField s x 0x0E 2 + v.toNat) →
      ∀ i ∈ [Instr.ctake d a b, .ctadd a b, .ctset a b, .ctrd d a, .ctwait d a b], Traps i s 6 v) ∧
    (names →
      (free → sets (.ctake d a b) (s.counter k + w) (s.counter k) true ∧
        (s.defer = false → sets (.ctadd a b) (s.counter k + w) 0 false ∧ sets (.ctset a b) w 0 false)) ∧
      (¬free → ∀ i ∈ [Instr.ctake d a b, .ctadd a b, .ctset a b], Waits i s .release) ∧
      (classBusy s noClass = false → GivesS (.ctrd d a) s d (s.counter k) ∧
        ((s.counter k - w).toNat < 2 ^ 63 → GivesS (.ctwait d a b) s d (s.counter k)) ∧
        (2 ^ 63 ≤ (s.counter k - w).toNat → Waits (.ctwait d a b) s (.counter v.toNat))))

/-- Barriers (R143): a word's arrival is recorded once, at the word's address, with the generation that it joins, which is the first one that is not full,
and the word waits, as the n-th one does in the model's reading (log 35); a release starts the next generation once n have arrived; the word then completes with its generation's number, and bit 63 set where its n differed
from the first arrival's. -/
def Obligations.Barriers : Prop :=
  ∀ (s : State) (d a b : BitVec 5) (k : Nat),
    let x := s.me.ctxOf s.curCore
    let v := s.sval a
    let u := s.barrier k
    let n := min 4096 (max 1 ((s.sval b).toNat % 2 ^ 13))
    let names := if s.curCore = 128 then v.toNat < 64 ∧ k = v.toNat
      else v.toNat < ctxField s x 0x13 1 ∧ k = ctxField s x 0x12 1 + v.toNat
    (s.me.mode ≠ .handler → names →
      ((∀ j m, s.barw ≠ some (k, j, m)) → released s s.curCore s.curEng = true → classBusy s noClass = false →
        ∃ t, exec (.barw d a b) s = .next t ∧ t.q.pc = s.q.pc ∧ t.q.wait.any (fun w => w.kind = .barrier v.toNat) = true ∧
          MemoryKept s t ∧ (∀ j, j ≠ k → t.barrier j = s.barrier j) ∧ (∀ j, t.sval j = s.sval j) ∧
          (∀ l m c r, u.fills = l ++ (m, c) :: r → (∀ p ∈ l, p.1 ≤ p.2) → c < m →
            t.barrier k = { u with fills := l ++ (m, c + 1) :: r } ∧ t.barw = some (k, u.gen + l.length, decide (n ≠ m))) ∧
          ((∀ p ∈ u.fills, p.1 ≤ p.2) →
            t.barrier k = { u with fills := u.fills ++ [(n, 1)] } ∧ t.barw = some (k, u.gen + u.fills.length, false))) ∧
      (∀ j m, s.barw = some (k, j, m) →
        (j < u.gen → ∃ t, exec (.barw d a b) s = .next t ∧ t.q.pc = s.q.pc + 1 ∧ t.q.wc = s.q.wc + 1 ∧
          (∀ b, b ∈ t.bars ↔ b ∈ s.bars ∧ b.pc ≠ s.q.pc) ∧
          MemoryKept s t ∧ (∀ i, t.barrier i = s.barrier i) ∧
          ∀ i, t.sval i = if i = 0 then 0 else if i = d then BitVec.ofNat 64 (j % 2 ^ 63 + if m then 2 ^ 63 else 0) else s.sval i) ∧
        (u.gen ≤ j → Waits (.barw d a b) s (.barrier v.toNat)))) ∧
    (∀ m c l, u.fills = (m, c) :: l → m ≤ c →
      ∃ t, exec (.barrierRelease k) s = .next t ∧ t = { s with tasks := t.tasks } ∧
        t.tasks = { s.tasks with barriers := t.tasks.barriers } ∧ (∀ j, j ≠ k → t.barrier j = s.barrier j) ∧
        t.barrier k = { gen := u.gen + 1, fills := l })


/-! ## Memory -/

/-- Loads of S and of the engines (R99, R149, R165, R169). From own scratchpad: the bytes at the sum of the base and the scaled
offset, sign- or zero-extended, with an access out of the partition, a misaligned one and a poisoned line trapped. From main
memory: through a cached translation, with its read permission checked. -/
def Obligations.ScalarLoads : Prop :=
  ∀ (s : State) (d a : BitVec 5) (c : BitVec 4) (z : BitVec 2) (sg : BitVec 1) (o : BitVec 7) (e : Eng) (g b : BitVec 4) (p : BitVec 11),
    let n := 2 ^ z.toNat
    let x := (s.sval a + BitVec.ofNat 64 (o.toNat * n)).toNat
    let y := (s.gval b + BitVec.ofNat 64 (8 * p.toNat)).toNat
    let ld := Instr.ld d a c z sg o
    let gld := Instr.gld e g b c p
    let ext (v : Nat) : W64 := if sg = 1 then ((BitVec.ofNat (8 * n) v).signExtend 64) else BitVec.ofNat 64 v
    let loadsG (v : W64) : Prop :=
      ∃ t, exec gld s = .next t ∧ Completes (s.q.pc + 1) s t ∧ WritesG s t g v ∧ Accesses [.g] s t ∧ MemoryKept s t
    (x % n ≠ 0 → Traps ld s 5 (BitVec.ofNat 64 x)) ∧ (y % 8 ≠ 0 → Traps gld s 5 (BitVec.ofNat 64 y)) ∧
    (x % n = 0 → 0x300000000 ≤ x → x < 0x400000000 → Traps ld s 7 (BitVec.ofNat 64 x)) ∧
    (∀ i, s.me.inst = some i → i.units ≤ 63 →
      (x % n = 0 → i.units * 0x10000 < x + n → x + n ≤ 0x400000 → Traps ld s 6 (BitVec.ofNat 64 x)) ∧
      (y % 8 = 0 → i.units * 0x10000 < y + 8 → y + 8 ≤ 0x400000 → Traps gld s 6 (BitVec.ofNat 64 y))) ∧
    (Unhindered s →
      (∀ loc v, x % n = 0 → OwnAt s x n loc → Clean s loc n → v < 2 ^ (8 * n) → Holds s 0 loc (leBytes n v) → LoadsS ld s d (ext v)) ∧
      (∀ loc, x % n = 0 → OwnAt s x n loc → s.poison.get false (loc / 128) = true →
        exec ld s = .next (raise (logPoison s s.curCore s.curEng loc) s.curCore s.curEng 0xB (BitVec.ofNat 64 x) false)) ∧
      (∀ loc v, y % 8 = 0 → OwnAt s y 8 loc → Clean s loc 8 → v < 2 ^ 64 → Holds s 0 loc (leBytes 8 v) → loadsG (BitVec.ofNat 64 v)) ∧
      (∀ ent v, s.curEng = .s → x % n = 0 → 0x10000000000 ≤ x → x < 0x10000000000000 →
        s.me.tlb.find? (fun t => t.hits s.ctxNow x) = some ent →
        let q := ent.place s x
        (ent.r = true → Clean s q.1 n → v < 2 ^ (8 * n) → Holds s q.2 q.1 (leBytes n v) → LoadsS ld s d (ext v)) ∧
        (ent.r = false → ∃ u, exec ld s = .next (raise u s.curCore .s 9 (BitVec.ofNat 64 x) false) ∧
          u = s.setMe { s.me with nfault := min (s.me.nfault + 1) (2 ^ 16 - 1) })))

/-- Stores of S and of the engines (R99, R149, R160, R169): the low bytes of the register at the address, and no other byte.
A store to main memory that no translation (0x0008) or no permission (0x0009) allows parks with its bytes and that cause, and the
word completes; where the queue was full, the store that stalls keeps its cause, parks with it once an entry has left, and translates no more, the model's choice (log 95). So does a store of C, the other sequencer that reaches main memory; C and M store nothing to transmit space (R148). -/
def Obligations.ScalarStores : Prop :=
  ∀ (s : State) (r a : BitVec 5) (c : BitVec 4) (z : BitVec 2) (o : BitVec 7) (e : Eng) (g b : BitVec 4) (p : BitVec 11),
    let n := 2 ^ z.toNat
    let x := (s.sval a + BitVec.ofNat 64 (o.toNat * n)).toNat
    let y := (s.gval b + BitVec.ofNat 64 (8 * p.toNat)).toNat
    let stores (i : Instr) (key loc k : Nat) (v : W64) : Prop :=
      ∃ t, exec i s = .next t ∧ Accesses [.rings] s t ∧ RingsKept s t ∧ t.q.pc = s.q.pc + 1 ∧ t.q.wc = s.q.wc + 1 ∧
        (∀ x, x ≠ s.curEng → t.me.seq x = s.me.seq x) ∧ Holds t key loc (leBytes k v.toNat)
    (x % n ≠ 0 → Traps (.st r a c z o) s 5 (BitVec.ofNat 64 x)) ∧ (y % 8 ≠ 0 → Traps (.gst e g b c p) s 5 (BitVec.ofNat 64 y)) ∧
    (s.curEng = .c ∨ s.curEng = .m → y % 8 = 0 → 0x300000000 ≤ y → y < 0x400000000 → Traps (.gst e g b c p) s 6 (BitVec.ofNat 64 y)) ∧
    (Unhindered s → s.q.wait.bind (·.kind.parkCause) = none →
      (∀ loc, x % n = 0 → OwnAt s x n loc → stores (.st r a c z o) 0 loc n (s.sval r) ∧
        ∀ t, exec (.st r a c z o) s = .next t → MemoryKeptBut ((List.range n).map (loc + ·)) s t) ∧
      (∀ loc, y % 8 = 0 → OwnAt s y 8 loc → stores (.gst e g b c p) 0 loc 8 (s.gval g) ∧
        ∀ t, exec (.gst e g b c p) s = .next t → MemoryKeptBut ((List.range 8).map (loc + ·)) s t) ∧
      (∀ en i w l v, (en, i, w, l, v) ∈ [(Eng.s, Instr.st r a c z o, x, n, s.sval r), (.c, .gst e g b c p, y, 8, s.gval g)] →
        s.curEng = en → w % l = 0 → 0x10000000000 ≤ w → w < 0x10000000000000 →
        let parks (cause : Nat) : Prop := ∃ t k, exec i s = .next t ∧ t.q.pc = s.q.pc + 1 ∧ t.q.wc = s.q.wc + 1 ∧ MemoryKept s t ∧
          t.me.replay = [k] ∧ k.va = BitVec.ofNat 64 w ∧ k.cls = c.toNat ∧ k.eng = en.tag ∧ k.cause = cause ∧
          k.bytes = locate 0 (leBytes l v.toNat) ∧ 2 ^ k.size = l ∧ k.failed = false ∧
          t.plinth.intPend = s.plinth.intPend ||| 2#8 ∧ (∀ m, t.sval m = s.sval m) ∧ ∀ m, t.gval m = s.gval m
        (∀ ent, s.me.tlb.find? (fun t => t.hits s.ctxNow w) = some ent →
          let q := ent.place s w
          (ent.w = true → q.2 ≠ deadKey → mainBase ≤ q.1 → q.1 % l = 0 → s.lineKey.get 0 (q.1 / 128) = q.2 + 1 →
            stores i q.2 q.1 l v ∧ ∀ t, exec i s = .next t → MemoryKeptBut ((List.range l).map (q.1 + ·)) s t) ∧
          (ent.w = false → parks 9)) ∧
        (s.me.tlb.find? (fun t => t.hits s.ctxNow w) = none → s.shared.find? (fun t => t.hits s.ctxNow w) = none →
          walk s s.ctxNow w = none → parks 8))) ∧
    (∀ en i w l v cause, (en, i, w, l, v) ∈ [(Eng.s, Instr.st r a c z o, x, n, s.sval r), (.c, .gst e g b c p, y, 8, s.gval g)] →
      s.curEng = en → w % l = 0 → 0x10000000000 ≤ w → w < 0x10000000000000 → slipHeld s (fun k => k = c.toNat) = false →
      (∀ k ∈ s.me.replay, k.owner = s.me.owner → k.cls = c.toNat → k.eng ≠ en.tag) → s.q.wait.bind (·.kind.parkCause) = some cause →
      let full := 16 ≤ (s.me.replay.filter (fun k => k.failed = false)).length
      (full → exec i s = .next s) ∧
      (¬full → ∃ t k, exec i s = .next t ∧ Completes (s.q.pc + 1) s t ∧ t.me.replay = s.me.replay ++ [k] ∧ k.va = BitVec.ofNat 64 w ∧
        k.cls = c.toNat ∧ k.eng = en.tag ∧ k.cause = cause ∧ k.bytes = locate 0 (leBytes l v.toNat) ∧ MemoryKept s t ∧
        t.me.nmiss = s.me.nmiss ∧ t.me.nwalk = s.me.nwalk ∧ t.me.nfault = s.me.nfault))

/-- Vector loads and stores of own scratchpad (R194–R196): contiguous, strided and indexed. A load writes the active lanes and
no other; a store writes the words of the active lanes, the highest lane last, and no other byte. The lowest misaligned address
traps, and for a contiguous access its address. -/
def Obligations.VectorMemory : Prop :=
  ∀ (s : State) (v : BitVec 5) (g : BitVec 4) (m : BitVec 3) (c : BitVec 4) (o : BitVec 8) (k : BitVec 4) (base : Nat),
    let on := fun l => (s.mask m).getLsbD l
    let line := (s.gval g + BitVec.ofNat 64 (128 * o.toNat)).toNat
    let own (f : Nat → Nat) : Prop := (∀ l, l < 256 → on l = true → OwnAt s (f l) 4 (base + f l))
    let loads (i : Instr) (f : Nat → Nat) : Prop :=
      own f → (∀ l, l < 256 → on l = true → f l % 4 = 0 ∧ Clean s (base + f l) 4) →
      ∃ t, exec i s = .next t ∧ Completes (s.q.pc + 1) s t ∧ Accesses [.v] s t ∧ MemoryKept s t ∧
        (∀ l, l < 256 → (t.vec v).lane l = if on l then BitVec.ofNat 32 (readNat s 0 (base + f l) 4) else (s.vec v).lane l) ∧
        ∀ n, phys n.toNat s.me.rrb ≠ phys v.toNat s.me.rrb → t.vec n = s.vec n
    let stores (i : Instr) (f : Nat → Nat) : Prop :=
      own f → (∀ l, l < 256 → on l = true → f l % 4 = 0) →
      ∃ t, exec i s = .next t ∧ Accesses [.rings] s t ∧ RingsKept s t ∧ t.q.pc = s.q.pc + 1 ∧ t.q.wc = s.q.wc + 1 ∧
        (∀ l, l < 256 → on l = true → (∀ j, l < j → j < 256 → on j = true → f j ≠ f l) →
          Holds t 0 (base + f l) (leBytes 4 ((s.vec v).lane l).toNat)) ∧
        ∀ key x, (∀ l, l < 256 → on l = true → x < base + f l ∨ base + f l + 4 ≤ x) → memRead t key x = memRead s key x
    let bad (i : Instr) (f : Nat → Nat) : Prop :=
      ∀ l, l < 256 → on l = true → f l % 4 ≠ 0 → (∀ j, j < 256 → on j = true → f j % 4 ≠ 0 → f l ≤ f j) →
        Traps i s 5 (BitVec.ofNat 64 (f l))
    let cont := fun l => line + 4 * l
    let str := fun l => (s.gval g + BitVec.ofNat 64 l * s.gval k).toNat
    let ind := fun l => (s.gval g + ((s.me.v k.toNat).lane l).setWidth 64).toNat
    s.curEng = .v → s.curCore < 128 →
    (line % 128 ≠ 0 → ∀ i ∈ [Instr.vld v g m c o, .vst v g m c o], Traps i s 5 (BitVec.ofNat 64 line)) ∧
    bad (.vlds v g m c k) str ∧ bad (.vsts v g m c k) str ∧ bad (.vgth v g m c k) ind ∧ bad (.vsct v g m c k) ind ∧
    (Unhindered s →
      (line % 128 = 0 → loads (.vld v g m c o) cont ∧ stores (.vst v g m c o) cont) ∧
      loads (.vlds v g m c k) str ∧ stores (.vsts v g m c k) str ∧ loads (.vgth v g m c k) ind ∧ stores (.vsct v g m c k) ind)

/-! ## Ordering, invalidation and performed accesses -/

/-- The class fence, translations and their invalidation (R154, R159, R170–R172). What a fence waits for is what was issued before it was first tried, by number, the model's choice (log 42). A fence with nothing outstanding or an empty mask
completes and writes nothing; one of core scope or wider that finds an own store of a class in its mask still to be performed
there waits, unless it is an acquire, and every fence waits for an own load; with an entry of a class in its mask in the replay queue a
fence that is no acquire waits too. One of engine scope that nothing holds puts the own stores
of its mask before what its sequencer issues from then on to their bytes (R365). TLBI queues an invalidation, but of no context above 63, and TLBSYNC waits until this core's are complete; outside privileged code they trap 0x0004.
A walk, here as an event of its own (log 20, the model's choice), that finds a leaf caches it in the core's TLB and in the shared cache, and one that does not caches nothing; an
invalidation's completion removes the entries it names from every cache, and no other, and waits while something translated through one of
them is in flight, be it one that a full cache has given up (log 21). That entries which the stop of another instance has saved hold no fence
is the model's reading (log 33). -/
def Obligations.FencesAndTranslations : Prop :=
  (∀ (s : State) (m : BitVec 16) (sc : BitVec 3) (k : BitVec 2) (c a : BitVec 5),
      let ctx := (s.sval c).toNat
      let sends (i : Instr) (kind x va : Nat) : Prop :=
        ∃ t, exec i s = .next t ∧ Completes (s.q.pc + 1) s t ∧ MemoryKept s t ∧ t.me.without [.seqs] = s.me.without [.seqs] ∧
          t = { s with cores := t.cores, nextId := s.nextId + 1, tlbis := t.tlbis } ∧
          t.tlbis = s.tlbis ++ [{ id := s.nextId, core := s.curCore, kind := kind, ctx := x, va := va }]
      let tlb : List Instr := [.tlbiVa c a, .tlbiCtx c, .tlbiAll, .tlbsync]
      (s.me.mode ≠ .handler → GoesTo (.cfence 0 sc k) s (s.q.pc + 1) ∧
        (Unhindered s → s.q.acq = [] → GoesTo (.cfence m sc k) s (s.q.pc + 1))) ∧
      (s.me.mode ≠ .handler → s.q.wait = none → s.me.replay = [] → (∃ x ∈ s.accs, x.n = s.curCore ∧ x.eng = s.curEng.tag ∧
        m.getLsbD x.cls = true ∧ x.atCore = false ∧ x.no < s.nextId ∧
        ((1 ≤ sc.toNat ∧ k ≠ 1 ∧ ∃ key bs, x.eff = .write key bs) ∨ ∃ d ls, x.eff = .read d ls)) →
        Waits (.cfence m sc k) s (.fence s.nextId)) ∧
      (s.me.mode ≠ .handler → s.q.wait = none → k ≠ 1 → (∀ p ∈ s.me.replay, p.failed = false) → (∃ p ∈ s.me.replay, m.getLsbD p.cls = true) →
        Waits (.cfence m sc k) s (.fence s.nextId)) ∧
      (s.me.mode ≠ .handler → s.me.replay = [] → sc = 0 → k ≠ 1 →
        fenceHeld s m.getLsbD 0 k.toNat s.fenceMark = false → ∃ t, exec (.cfence m sc k) s = .next t ∧ Completes (s.q.pc + 1) s t ∧
          t = { s with cores := t.cores, accs := t.accs } ∧ t.accs.length = s.accs.length ∧
          ∀ (j : Nat) (x : Access), s.accs[j]? = some x → t.accs[j]? = some (if x.n = s.curCore ∧ x.eng = s.curEng.tag ∧ m.getLsbD x.cls = true ∧
            x.fencedAt = none then { x with fencedAt := some s.nextId } else x)) ∧
      (s.me.priv s.curCore = false → ∀ i ∈ tlb, Traps i s 4 s.wordVal) ∧
      (s.me.priv s.curCore = true →
        (Unhindered s → (ctx < 64 → sends (.tlbiVa c a) 0 ctx (s.sval a).toNat ∧ sends (.tlbiCtx c) 1 ctx 0) ∧
          (64 ≤ ctx → GoesTo (.tlbiVa c a) s (s.q.pc + 1) ∧ GoesTo (.tlbiCtx c) s (s.q.pc + 1)) ∧
          sends .tlbiAll 2 0 0) ∧
        ((∀ t ∈ s.tlbis, t.core ≠ s.curCore) → GoesTo .tlbsync s (s.q.pc + 1)) ∧
        ((∃ t ∈ s.tlbis, t.core = s.curCore) → Waits .tlbsync s .tlbsync))) ∧
  ((∀ (s : State) (n x : Nat) (va : W64), let c := s.core n
      c.tlb.find? (fun t => t.hits x va.toNat) = none → s.shared.find? (fun t => t.hits x va.toNat) = none →
      ∃ t, exec (.tableWalk n x va) s = .next t ∧ t = { s with cores := t.cores, shared := t.shared, dropped := t.dropped } ∧
        (∀ e, (e ∈ c.tlb → e ∈ (t.core n).tlb ∨ e ∈ t.dropped) ∧ (e ∈ s.shared → e ∈ t.shared ∨ e ∈ t.dropped) ∧ (e ∈ s.dropped → e ∈ t.dropped)) ∧
        (∀ k, k ≠ n → t.core k = s.core k) ∧ (t.core n).nmiss = min (c.nmiss + 1) 0xFFFF ∧
        (t.core n).nwalk = min (c.nwalk + 1) 0xFFFF ∧
        (∀ e, walk s x va.toNat = some e → (t.core n).tlb.head? = some e ∧ t.shared.head? = some e ∧ (t.core n).nfault = c.nfault) ∧
        (walk s x va.toNat = none → (t.core n).tlb = c.tlb ∧ t.shared = s.shared ∧ (t.core n).nfault = min (c.nfault + 1) 0xFFFF)) ∧
    (∀ (s : State) (i : Tlbi), s.tlbis.find? (fun x => x.id = i.id) = some i → usedLocs s = [] →
      let names (e : TlbEnt) : Bool := match i.kind with
        | 0 => decide (e.ctx = i.ctx ∧ i.va / 2 ^ e.bits = e.va / 2 ^ e.bits)
        | 1 => decide (e.ctx = i.ctx)
        | _ => true
      ∃ t, exec (.tlbInvalidationComplete i.id) s = .next t ∧
        t = { s with cores := t.cores, shared := t.shared, dropped := t.dropped, tlbis := t.tlbis } ∧
        (∀ n e, e ∈ (t.core n).tlb ↔ e ∈ (s.core n).tlb ∧ names e = false) ∧
        (∀ e, e ∈ t.shared ↔ e ∈ s.shared ∧ names e = false) ∧ (∀ e, e ∈ t.dropped ↔ e ∈ s.dropped ∧ names e = false) ∧ (∀ x, x ∈ t.tlbis ↔ x ∈ s.tlbis ∧ x.id ≠ i.id) ∧
        ∀ n, t.core n = { s.core n with tlb := (t.core n).tlb }) ∧
    (∀ (s : State) (i : Tlbi) (e : TlbEnt), s.tlbis.find? (fun x => x.id = i.id) = some i → i.hits e = true →
      (e ∈ s.shared ∨ e ∈ s.dropped ∨ ∃ n, e ∈ (s.core n).tlb) → (∃ a ∈ usedLocs s, e.covers a = true) →
      exec (.tlbInvalidationComplete i.id) s = .next s))

/-- An issued access is performed once none that it follows is outstanding (R141, R165–R167), nor a store to one of its bytes that an
engine-scope fence has put before it (R170), what it follows being `precededBy`, with the order of stores to one byte as the model reads it (log 43): a load delivers its bytes, a store
is performed at core scope, where its core then finds it (R157: zero where its key slot is no longer valid), and at package scope, when memory holds its bytes, and a counter update
reaches its counter. Until then it stays as it is. -/
def Obligations.AccessesArePerformed : Prop :=
  ∀ (s : State) (a : Access), s.accs.find? (fun x => x.id = a.id) = some a →
    let rest := s.accs.filter (fun x => x.id ≠ a.id)
    let done (t : State) : Prop := exec (.accessPerformed a.id) s = .next t
    (∀ k add v, a.eff = .counter k add v → precededBy s a false = false → ∃ t, done t ∧ t.accs = rest ∧
      (∀ j, t.counter j = if j = k then (if add then s.counter k + v else v) else s.counter j) ∧
      t = { s with accs := t.accs, tasks := t.tasks }) ∧
    (∀ key bs, a.eff = .write key bs →
      (a.atCore = false → precededBy s a true = false → ∃ t, done t ∧ t = { s with accs := t.accs } ∧ MemoryKept s t ∧
        (∀ x, x ∈ t.accs ↔ x = { a with atCore := true } ∨ (x ∈ s.accs ∧ x.id ≠ a.id)) ∧
        ∀ e b, b ∈ bs → (bs.map (·.1)).Nodup →
          (∀ x ∈ s.accs, x.id ≠ a.id → x.n = a.n → x.eng = e.tag → x.atCore = false → b.1 ∉ x.bytes.map (·.1)) →
          parkedByte s a.n (s.core a.n).owner e b.1 = none →
          loadByte t a.n e key b.1 = if isMain b.1 ∧ key = deadKey then 0 else b.2) ∧
      (a.atCore = true → precededBy s a false = false → ∃ t, done t ∧ t.accs = rest ∧
        t = { s with accs := t.accs, mem := t.mem, lineKey := t.lineKey, poison := t.poison } ∧
        ((∀ b ∈ bs, isMain b.1 = false) → (bs.map (·.1)).Nodup → (∀ b ∈ bs, memRead t key b.1 = b.2) ∧
          MemoryKeptBut (bs.map (·.1)) s t))) ∧
    (∀ n k sg ls, k ≤ 8 → a.eff = .read (.sreg n k sg) ls → precededBy s a false = false → ∃ t, done t ∧ t.accs = rest ∧
      t = { s with accs := t.accs, cores := t.cores } ∧
      (∀ j, j < 32 → (t.core a.n).s j = if j = n ∧ n ≠ 0 then
          (let v := leNat (ls.map (fun l => loadByte s a.n (Eng.ofTag a.eng) l.2 l.1))
           if sg ∧ 2 ^ (8 * k - 1) ≤ v then BitVec.ofInt 64 ((v : Int) - 2 ^ (8 * k)) else BitVec.ofNat 64 v)
        else (s.core a.n).s j) ∧
      (∀ m, m ≠ a.n → t.core m = s.core m) ∧ ∀ e, (t.core a.n).seq e = (s.core a.n).seq e) ∧
    (∀ x ∈ s.accs, x.n = a.n → x.eng = a.eng → x.atCore = false → x.no < a.no → x.fencedAt.any (fun m => decide (m ≤ a.no)) = true →
      (∃ b ∈ x.bytes, b.1 ∈ a.bytes.map (·.1)) → exec (.accessPerformed a.id) s = .next s) ∧
    (precededBy s a true = true → exec (.accessPerformed a.id) s = .next s) ∧
    (precededBy s a false = true → (a.atCore = true ∨ ∀ key bs, a.eff ≠ .write key bs) → exec (.accessPerformed a.id) s = .next s)

/-! ## System registers, traps and returns -/

/-- System registers (R332–R337, with the chapters' own register tables): what SRD reads of every number that the chapters define, and
the trap 0x0001 of any other; SWR of a read-only or of a privileged register traps 0x0004 outside privileged code, and an
undefined one 0x0001; what it writes where it is allowed; on the service core a read-only register is not written. That SLC_SETS shows no cancelled set as open (log 16), and MODE the service core's handler
(log 28), is the model's reading. Register
writes as events do the same (R69, R108): SLIPW stores 1 for 0, a change of DET empties the region table, while a DET written as it was
keeps it, the model's choice (log 85), and a forbidden write changes nothing. -/
def Obligations.SystemRegisters : Prop :=
  (∀ (s : State) (d a : BitVec 5) (r : BitVec 12),
      let n := r.toNat
      let v := s.sval a
      let c := s.me
      let defined : Bool := [0, 1, 2, 0x10, 0x11, 0x12, 0x13, 0x14, 0x20, 0x21, 0x22, 0x23, 0x30, 0x31, 0x40, 0x41, 0x50, 0x60, 0x100, 0x101,
        0x102, 0x103, 0x104, 0x200, 0x201, 0x300, 0x301, 0x302, 0x400, 0x500, 0x501, 0x502, 0x600, 0x601, 0x708, 0x709, 0x710,
        0x711].contains n || (0x310 ≤ n && n < 0x330) || (0x700 ≤ n && n < 0x705)
      let open_ : Bool := [0x020, 0x030, 0x710].contains n
      let privileged_ : Bool := [0x001, 0x013, 0x014, 0x021, 0x100, 0x101, 0x102, 0x103, 0x302, 0x501, 0x708, 0x711].contains n ||
        (0x700 ≤ n && n < 0x705)
      let reads (k x : Nat) : Prop := n = k → GivesS (.srd d r) s d (BitVec.ofNat 64 x)
      let writes (k : Nat) (f : State → Prop) : Prop := n = k → ∃ t, exec (.swr a r) s = .next t ∧ t.q.pc = s.q.pc + 1 ∧
        t.q.wc = s.q.wc + 1 ∧ MemoryKept s t ∧ (∀ m, t.sval m = s.sval m) ∧ f t
      (defined = true → ∃ x, GivesS (.srd d r) s d x) ∧
      (defined = false → Traps (.srd d r) s 1 s.wordVal ∧ Traps (.swr a r) s 1 s.wordVal) ∧
      let fw : Bool := s.curCore = 128
      let bit (b : Bool) (k : Nat) : Nat := if b then 2 ^ k else 0
      let bits (g : Nat → Bool) (k : Nat) : Nat := ((List.range 16).map (fun j => bit (g j) (k + j))).foldl (· + ·) 0
      let waits (k : WaitKind) : Bool := Eng.all.any (fun e => (c.seq e).wait.any (fun w => w.kind = k))
      let parked := c.replay.filter (fun p => !p.failed)
      let stalled : Bool := Eng.all.any (fun e => (c.seq e).wait.any (fun w => w.kind.parkCause.isSome))
      let mode := match c.mode with
        | .run => 0
        | .stub => 1
        | .handler => 2
      (reads 0x000 s.curCore ∧ reads 0x001 (if fw then c.ctx.toNat else ((c.inst.map (·.ctx)).getD 0)) ∧
        reads 0x002 (bit (fw || c.mode = .handler) 0 + 2 * (if fw then bit c.fwHandler 1 else mode)) ∧
        reads 0x010 c.trapCause.toNat ∧ reads 0x011 c.trapAddr.toNat ∧ reads 0x012 c.trapEng.toNat ∧ reads 0x013 c.trapBase.toNat ∧
        reads 0x014 c.trapVec.toNat ∧ reads 0x020 c.slipw.toNat ∧ reads 0x021 c.spdmax ∧ reads 0x022 c.spdist ∧
        reads 0x023 (if fw then 0 else c.rrb.toNat) ∧ reads 0x030 (bit c.detmode 0) ∧
        reads 0x031 (min 64 c.regions.length + bit (waits (.quoin false)) 7 + bit (waits (.quoin true)) 8 + 2 ^ 16 * c.nfull +
          2 ^ 32 * c.nage) ∧
        reads 0x040 s.ftime ∧ reads 0x041 s.cycle ∧ reads 0x050 c.rfstat.toNat ∧
        reads 0x060 (min 16 parked.length + bit (stalled || c.copyStalled) 5 + bits (fun k => parked.any (fun p => p.cls = k)) 16 +
          2 ^ 32 * c.npark)) ∧
      (reads 0x100 s.tasks.preDrain ∧ reads 0x101 s.tasks.preKill.toNat ∧ reads 0x102 s.tasks.cl0Part ∧
        reads 0x103 (s.tasks.nckpt + 2 ^ 16 * s.tasks.nkill + 2 ^ 32 * s.tasks.nforce + 2 ^ 48 * s.tasks.cause.toNat) ∧
        (s.curCore < 128 → let free := 1024 - (s.tasks.pools.get [] (s.curCore / 32)).length
          reads 0x104 (free + bit (free ≤ 64) 11 + 2 ^ 32 * s.tasks.novf)) ∧
        reads 0x200 ((c.inst.map (fun i => i.base + 2 ^ 6 * i.units)).getD 0) ∧
        reads 0x201 (c.nmiss + 2 ^ 16 * c.nwalk + 2 ^ 32 * c.nfault) ∧ reads 0x300 (c.nser + 2 ^ 32 * c.nwait) ∧
        reads 0x301 (c.nmma + 2 ^ 32 * c.nmcast) ∧ reads 0x302 c.tileAbs.toNat ∧
        reads 0x400 (min 16 c.copies.length + 2 ^ 16 * c.npois + 2 ^ 32 * c.novf)) ∧
      (reads 0x500 (s.fabric.devid.toNat + bit s.fabric.slotMode 12 + 2 ^ 16 * (s.fabric.size % 2 ^ 16) + 2 ^ 32 * s.fabric.epoch.toNat) ∧
        reads 0x501 s.fabric.slotUsr.toNat ∧
        reads 0x502 (s.fabric.nrefused + 2 ^ 16 * s.fabric.nretry + 2 ^ 32 * s.fabric.ndrop + 2 ^ 48 * s.fabric.naband) ∧
        reads 0x600 s.sliceCnt.toNat ∧
        reads 0x601 (bits (fun k => (s.set k).state = 1 || (s.set k).state = 3) 0 + 2 ^ 16 * freeContexts s) ∧ reads 0x708 c.wdog ∧
        reads 0x709 (c.ntrap + 2 ^ 16 * c.nesc) ∧ reads 0x710 (if fw then s.plinth.intPend.toNat else 0) ∧
        reads 0x711 (if fw then s.plinth.intEn.toNat else 0) ∧
        (∀ k, k < 16 → reads (0x310 + k) (c.tileOwner.get 0 k % 64 + 2 ^ 6 * (match c.tileSt.get .free k with
            | .free => 0
            | .active => 1
            | .held => 2)) ∧ reads (0x320 + k) (c.fmtTab.get 0 k).toNat) ∧
        ∀ k, k < 5 → reads (0x700 + k) ((c.trapPc.get (0, 0) k).1.toNat + 2 ^ 16 * (c.trapPc.get (0, 0) k).2.toNat)) ∧
      (c.priv s.curCore = false → defined = true → open_ = false → Traps (.swr a r) s 4 s.wordVal) ∧
      writes 0x020 (fun t => t.me.slipw = if v.setWidth 4 = 0#4 then 1 else v.setWidth 4) ∧
      writes 0x030 (fun t => t.me.detmode = v.getLsbD 0 ∧ t.me.regions = if v.getLsbD 0 = c.detmode then c.regions else []) ∧
      (c.priv s.curCore = true →
        writes 0x013 (fun t => t.me.trapBase = v.setWidth 12 &&& 0xF80#12) ∧ writes 0x014 (fun t => t.me.trapVec = v.setWidth 32) ∧
        writes 0x021 (fun t => t.me.spdmax = min 65536 (max 1024 v.toNat)) ∧
        writes 0x708 (fun t => t.me.wdog = min 65536 (max 256 v.toNat)) ∧
        writes 0x302 (fun t => t.me.tileAbs = c.tileAbs &&& ~~~(v.setWidth 16)) ∧
        writes 0x100 (fun t => t.tasks.preDrain = min 65536 v.toNat) ∧ writes 0x101 (fun t => t.tasks.preKill = v.setWidth 16) ∧
        writes 0x103 (fun t => t.tasks.cause = s.tasks.cause &&& ~~~(v.extractLsb' 48 16) ∧ t.tasks.nckpt = s.tasks.nckpt) ∧
        (∀ k, k < 5 → writes (0x700 + k) (fun t => ∀ j, t.me.trapPc.get (0, 0) j =
          if j = k then (v.setWidth 16, (c.trapPc.get (0, 0) k).2) else c.trapPc.get (0, 0) j)) ∧
        writes 0x102 (fun t => t.tasks.cl0Part = min 16 (max 1 v.toNat)) ∧
        writes 0x501 (fun t => t.fabric.slotUsr = v.setWidth 7)) ∧
      (s.curCore = 128 → writes 0x711 (fun t => t.plinth.intEn = v.setWidth 8) ∧ writes 0x001 (fun t => t.me.ctx = v.setWidth 6) ∧
        writes 0x710 (fun t => t.plinth.intPend = s.plinth.intPend &&& ~~~(v.setWidth 8)) ∧
        (defined = true → open_ = false → privileged_ = false → GoesTo (.swr a r) s (s.q.pc + 1)))) ∧
  (∀ (s : State) (n : Nat) (v : W64),
      let c := s.core n
      let only (t : State) : Prop := t = { s with cores := t.cores } ∧ ∀ k, k ≠ n → t.core k = s.core k
      (∃ t, exec (.slipwWrite n v) s = .next t ∧ only t ∧
        t.core n = { c with slipw := if v.setWidth 4 = 0#4 then 1 else v.setWidth 4 }) ∧
      (∃ t, exec (.detmodeWrite n v) s = .next t ∧ only t ∧
        t.core n = { c with detmode := v.getLsbD 0, regions := if v.getLsbD 0 = c.detmode then c.regions else [] }) ∧
      (∃ t, exec (.registerWrite n 0x014 v) s = .next t ∧ only t ∧
        t.core n = { c with trapVec := if c.priv n then v.setWidth 32 else c.trapVec }) ∧
      ∀ r : BitVec 12, r = 0x022 ∨ r = 0x041 ∨ r = 0x7FF → exec (.registerWrite n r v) s = .next s)

/-- Taking a trap that the core's own handler gets (R331, R338, R339): once everything that was issued has been performed, the
trap registers hold the cause, the address, the trapping engine and every sequencer's saved pc and cc, a prefixed word's pc
being that of its first prefix (log 68) and 65,536 standing as 0 in the 16 bits (log 94), the model's readings; the core is in handler mode with empty banks, S and M at TRAP_BASE + 4·cause; and the
instance's registers stay as they are. Before that, the core waits with the trap pending. Where a sequencer of lower tag reaches the
watchdog's limit or the safe-point distance in the same cycle, its trap is the one taken (R338 step 3). -/
def Obligations.TakingATrap : Prop :=
  ∀ (s : State) (n : Nat) (e : Eng) (cause : Nat) (addr : W64),
    let c := s.core n
    let saved (p : Eng) : Nat := let q := c.seqs.get {} p.tag; if q.pfx = [] then q.pc else q.pfxPc
    let entered (t : State) : Prop :=
      let d := t.core n
      d.mode = .handler ∧ d.modeFrom = .run ∧ d.trapCause = BitVec.ofNat 16 cause ∧ d.trapAddr = addr ∧
      d.trapEng = BitVec.ofNat 4 e.tag ∧
      (∀ p : Eng, d.trapPc.get (0, 0) p.tag = (BitVec.ofNat 16 (saved p), (c.seqs.get {} p.tag).cc)) ∧
      (d.seq .s).pc = c.trapBase.toNat + 4 * cause ∧ (d.seq .m).pc = c.trapBase.toNat + 4 * cause ∧
      (∀ r, d.s r = 0) ∧ (∀ x r, d.g x r = 0) ∧ (∀ x, d.stk x = []) ∧ d.trapPend = none ∧
      d.ntrap = (if c.ntrap + 1 < 2 ^ 16 then c.ntrap + 1 else 2 ^ 16 - 1) ∧ d.handlerSince = s.cycle ∧
      { d with mode := c.mode, modeFrom := c.modeFrom, hsreg := c.hsreg, hgreg := c.hgreg, hstack := c.hstack, hseqs := c.hseqs
               handlerSince := c.handlerSince, trapPend := c.trapPend, ntrap := c.ntrap, trapCause := c.trapCause
               trapAddr := c.trapAddr, trapEng := c.trapEng, trapPc := c.trapPc, seqs := c.seqs } = c ∧
      t = { s with cores := t.cores } ∧ (∀ k, k ≠ n → t.core k = s.core k) ∧ MemoryKept s t
    (∀ p a, p ∈ team n → p.tag < e.tag → overdue s n p = some a → (∀ x ∈ team n, x.tag < p.tag → overdue s n x = none) →
      ∀ cw, raise s n e cause addr cw = raise s n p 0x17 a false) ∧
    (∀ p, (∀ x ∈ team n, x.tag < e.tag → overdue s n x = none) → tooFar s n = some p → p.tag < e.tag →
      ∀ cw, raise s n e cause addr cw = raise s n p 0xE (BitVec.ofNat 64 c.spdist) false) ∧
    ((∀ x ∈ team n, x.tag < e.tag → overdue s n x = none) → (∀ p, tooFar s n = some p → e.tag ≤ p.tag) →
    n < 128 → c.mode = .run → c.stopReq = none → cause ≤ 0x1F → c.trapVec.getLsbD (cause % 32) = true →
    (deferrable cause = true → provisional s n = none) →
    (drained s n = true → entered (raise s n e cause addr false)) ∧
    (drained s n = false → (raise s n e cause addr false).core n =
      { c.cutAll with trapPend := some ⟨cause, addr, e.tag, false⟩ }) ∧
    (drained s n = true → c.trapPend = some ⟨cause, addr, e.tag, false⟩ → (∀ p : Eng, (c.seqs.get {} p.tag).pfx = []) →
      ∃ t, exec (.trapEntry n) s = .next t ∧ entered t))

/-- Traps that events raise, at the word the sequencer stands at (R78, R336, R341): a handler without RTE for 65,536 cycles, a
limited wait that has lasted WDOG cycles, a TAWAIT's only where its timeout exceeds WDOG, and a safe-point distance that would exceed SPDMAX, on the leading sequencer, unless a
wait is overdue in the same cycle. The first halts the service core. Its address is the model's free value, and that S is its sequencer the model's choice (log 11). -/
def Obligations.LimitsRaiseTraps : Prop :=
  ∀ (s : State) (n : Nat) (e : Eng),
    let c := s.core n
    ((if n = 128 then c.fwHandler = true else c.mode = .handler) → c.halted = false → c.trapPend = none →
      c.handlerSince + 65536 ≤ s.cycle →
      (∃ a, exec (.handlerTimeout n) s = .next (raise s n .s 0x17 a false)) ∧
      (n = 128 → drained s n = true → ∃ t, exec (.handlerTimeout n) s = .next t ∧ (t.core n).halted = true ∧ t.plinth.fatal = true)) ∧
    (s.cycle < c.handlerSince + 65536 → exec (.handlerTimeout n) s = .next s) ∧
    (∀ k f o, n < 128 → canIssue s n e = true → c.mode ≠ .handler → (c.seq e).wait = some ⟨k, f, o⟩ →
      (∀ x z, (k, x, z) ∈ [(WaitKind.await z, 0, z), (.post z, 0, z), (.ring z true, 1, z), (.ring z false, 1, z), (.counter z, 2, z),
          (.barrier z, 3, z), (.sliceSet z, 4, z), (.wfi, 5, 0), (.slip, 6, 0), (.quoin true, 7, 0)] →
        (f + c.wdog ≤ s.cycle →
          exec (.watchdog n e) s = .next (raise s n e 0x17 (BitVec.ofNat 64 (x * 2 ^ 56 + z % 4096)) false)) ∧
        (s.cycle < f + c.wdog → exec (.watchdog n e) s = .next s)) ∧
      (∀ z l, k = .tawait z l →
        (f + c.wdog ≤ s.cycle → f + c.wdog < l →
          exec (.watchdog n e) s = .next (raise s n e 0x17 (BitVec.ofNat 64 (z % 4096)) false)) ∧
        (s.cycle < f + c.wdog ∨ l ≤ f + c.wdog → exec (.watchdog n e) s = .next s)) ∧
      (k = .rfence ∨ k = .rte ∨ k = .other → exec (.watchdog n e) s = .next s)) ∧
    (n < 128 → c.active = true → c.inst.isSome = true → c.mode ≠ .handler → c.trapPend = none → c.abandon = none →
      (∃ p : Eng, (c.seqs.get {} p.tag).ended = false) → c.leader = some e →
      ((∀ p : Eng, overdue s n p = none) → c.spdmax ≤ c.spdist →
        exec (.safePointDistance n) s = .next (raise s n e 0xE (BitVec.ofNat 64 c.spdist) false)) ∧
      (∀ p : Eng, overdue s n p ≠ none → exec (.safePointDistance n) s = .next s) ∧
      (c.spdist < c.spdmax → exec (.safePointDistance n) s = .next s))

/-- TRAP, BRK and WFI (R343), and RTE (R342): TRAP completes before it traps, so that the next word's pc is saved, and BRK does
not. WFI completes where a post or a stop request is pending, or an enabled source on the service core, and else waits. RTE traps
0x0004 in instance mode; in a handler it waits until M stands at an RTE too, and then discards the banks and restarts every
sequencer of the instance at its TRAP_PC, with the counts of S and M as the handler leaves them (R103), and S, resumed
elsewhere, waiting no longer on its arrival at a barrier, the model's choice (log 91); at the end of a rebuild
stub S goes on at its saved pc (R134); and in the service core's handler S and C go on at theirs. -/
def Obligations.SystemInstructions : Prop :=
  ∀ (s : State) (a n : BitVec 5),
    let c := s.me
    Traps (.brk n) s 0x15 (n.setWidth 64) ∧
    (∃ u, exec (.trap a) s = .next (raise u s.curCore s.curEng 0x14 (s.sval a) false) ∧ Completes (s.q.pc + 1) s u ∧
      Confined [] s u ∧ MemoryKept s u) ∧
    (s.curCore < 128 → ((∃ e ∈ c.events.entries, e.2 ≠ []) ∨ c.stopReq ≠ none → GoesTo .wfi s (s.q.pc + 1)) ∧
      ((∀ e ∈ c.events.entries, e.2 = []) → c.stopReq = none → Waits .wfi s .wfi)) ∧
    (s.curCore = 128 → (s.plinth.intPend &&& s.plinth.intEn ≠ 0 → GoesTo .wfi s (s.q.pc + 1)) ∧
      (s.plinth.intPend &&& s.plinth.intEn = 0 → Waits .wfi s .wfi)) ∧
    (s.curCore < 128 → c.mode = .run → Traps .rte s 4 s.wordVal) ∧
    (s.curCore < 128 → c.mode = .handler →
      let stands := (c.seq .m).pc = (c.seq .s).pc ∧ (c.seq .m).wait.any (fun w => w.kind = .rte) = true
      (¬stands → Waits .rte s .rte) ∧
      (stands → s.curEng = .s → c.modeFrom ≠ .stub → ∃ t, exec .rte s = .next t ∧ t.me.mode = .run ∧ t.me.hsreg = {} ∧ t.me.hgreg = {} ∧
        t.me.hstack = [] ∧ t.me.hseqs = {} ∧
        (∀ e : Eng, (t.me.seq e).pc = (c.trapPc.get (0, 0) e.tag).1.toNat ∧
          (t.me.seq e).wc = (if e = .s then (c.seq .s).wc + 1 else if e = .m then (c.seq .m).wc else (c.seqs.get {} e.tag).wc) ∧
          (t.me.seq e).cc = (c.seqs.get {} e.tag).cc ∧ (t.me.seq e).wait = none) ∧
        { { t.me with mode := c.mode, hsreg := c.hsreg, hgreg := c.hgreg, hstack := c.hstack } with
          hseqs := c.hseqs, seqs := c.seqs, stopReq := c.stopReq, inst := c.inst, barw := c.barw } = c ∧
        t.me.inst = c.inst.map (fun i => { i with barw := i.barw.filter (fun b => b.pc = (c.trapPc.get (0, 0) 0).1.toNat) }) ∧ (c.stopReq = none → t.me.stopReq = none) ∧
        (∀ k, k ≠ s.curCore → t.core k = s.core k) ∧ MemoryKept s t)) ∧
    (s.curCore < 128 → s.curEng = .s → c.mode = .stub → ∃ t, exec .rte s = .next t ∧ t.me.mode = .run ∧ t.me.spdist = 0 ∧
      (t.me.seq .s).pc = c.stubPc ∧ (t.me.seq .s).ended = c.stubEnded ∧ (t.me.seq .s).wc = s.q.wc + 1 ∧
      (∀ e : Eng, e ≠ .s → t.me.seq e = c.seq e) ∧ (∀ r, t.me.s r = c.s r) ∧ (∀ k, k ≠ s.curCore → t.core k = s.core k) ∧
      MemoryKept s t) ∧
    (s.curCore = 128 → c.fwHandler = false → Traps .rte s 4 s.wordVal) ∧
    (s.curCore = 128 → c.fwHandler = true → c.mode = .run → ∃ t, exec .rte s = .next t ∧ t.me.fwHandler = false ∧
      (∀ e, e ∈ [Eng.s, .c] → (t.me.seq e).pc = (c.trapPc.get (0, 0) e.tag).1.toNat ∧ (t.me.seq e).wait = none) ∧
      (∀ r, t.me.s r = c.s r) ∧ (∀ k, k ≠ s.curCore → t.core k = s.core k) ∧ MemoryKept s t)

/-! ## The matrix engine -/

/-- Tile arithmetic (R59, R199, R214, R218): the destination's cells under its direction get the value from the sources' cells as
they were. A tile that may not be touched traps 0x000F with the lowest such number. -/
def Obligations.TileArithmetic : Prop :=
  ∀ (s : State) (d a b : BitVec 6),
    let no (f : BitVec 6) : Nat := f.toNat % 16
    let x := fun i j => f32 (s.cell a i j)
    let gives (y : Instr) (pops : Nat) (ts : List Nat) (f : Nat → Nat → Word) : Prop :=
      MayTouch s ts → TileDone y s pops ts [no d] [] (fun t => ∀ i j, i < 32 → j < 32 → t.cell d i j = f i j)
    let had (k j : Nat) : Bool := (List.range 5).foldl (fun p n => p != (k.testBit n && j.testBit n)) false
    (∀ i j, s.cell d i j = (s.me.tile.get {} (no d)).get 0 (match d.toNat / 16 with
      | 0 => 32 * i + j
      | 1 => 32 * j + i
      | 2 => 32 * i + (i + j) % 32
      | _ => 32 * i + (j + 32 - i) % 32)) ∧
    gives (.mzero d) 0 [no d] (fun _ _ => 0) ∧ gives (.mmov d a) 0 [no d, no a] (fun i j => s.cell a i j) ∧
    gives (.maddt d a b) 0 [no d, no a, no b] (fun i j => encF32 (rne (fadd (x i j) (f32 (s.cell b i j))))) ∧
    gives (.maddtI d a b) 0 [no d, no a, no b] (fun i j => s.cell a i j + s.cell b i j) ∧
    gives (.mhad d a) 0 [no d, no a] (fun i j => encF32 ((pairTree 5 ((List.range 32).map (fun k =>
      if had k j then (x i k).neg else x i k))).headD (.fin false 0 0 false))) ∧
    (∀ v r, s.stk = v :: r → v.toNat < 2 ^ 32 → gives (.mscl d a) 1 [no d, no a] (fun i j =>
      encF32 (rne (fmul (x i j) (f32 (v.setWidth 32)))))) ∧
    (∀ v r, s.stk = v :: r → MayTouch s [no d, no a] → 2 ^ 32 ≤ v.toNat → Traps (.mscl d a) s 1 s.wordVal) ∧
    (s.stk = [] → Traps (.mscl d a) s 0x10 0) ∧
    (∀ n, n = no d ∨ n = no a → ¬MayTouch s [n] → (∀ k, k < n → k = no d ∨ k = no a → MayTouch s [k]) →
      Traps (.mmov d a) s 0xF (BitVec.ofNat 64 n))

/-- Tile loads and stores of own scratchpad (R201, R202, R211, R213, R214): MLD takes an operand image, MLD.ACC and MST move 32 rows of
cells under the layout word's stride and swizzle, MSCL.COL and MSCL.ROW scale by 32 values, and MFMT loads the format table.
The layout word w has a span, and for accumulators a stride of at least a row. That MLD, MLD.ACC and MST complete at any alignment is the
model's reading (log 39). -/
def Obligations.TileLoadsAndStores : Prop :=
  ∀ (s : State) (e : BitVec 4) (d a : BitVec 6) (p w : W64) (r : List W64) (loc : Nat),
    let no (f : BitVec 6) : Nat := f.toNat % 16
    let span := w.toNat % 8
    let st := if w.toNat / 2 ^ 16 = 0 then 128 else w.toNat / 2 ^ 16
    let at_ (i j b : Nat) : Nat := loc + swz (i * st + 4 * j + b) span
    let offs := (List.range 32).flatMap (fun i => (List.range 128).map (fun b => swz (i * st + b) span))
    let rows := w.toNat < 2 ^ 32 ∧ w.toNat / 2 ^ 8 % 2 ^ 8 = 0 ∧ w.toNat / 8 % 2 = 0 ∧ 128 ≤ st
    let word (l : Nat) : Word := BitVec.ofNat 32 (readNat s 0 l 4)
    Unhindered s →
    (∀ q loc2, s.stk = p :: q :: w :: r → MayTouch s [e.toNat] → w.toNat < 2 ^ 8 → w.toNat / 8 % 2 = 0 →
      CleanArea s p.toNat ((List.range 2048).map (swz · span)) loc → CleanArea s q.toNat (List.range 128) loc2 →
      TileDone (.mld e) s 3 [e.toNat] [e.toNat] [] (fun t =>
        (∀ o, o < 2048 → t.me.tileByte e.toNat o = memRead s 0 (loc + swz o span)) ∧
        (∀ o, o < 128 → t.me.tileByte e.toNat (2048 + o) = memRead s 0 (loc2 + o)) ∧
        ∀ o, 2176 ≤ o → o < 4096 → t.me.tileByte e.toNat o = 0)) ∧
    (s.stk = p :: w :: r → MayTouch s [no d] → rows → CleanArea s p.toNat offs loc →
      TileDone (.mldAcc d) s 2 [no d] [no d] [] (fun t => ∀ i j, i < 32 → j < 32 → ∀ k, k < 4 →
        (t.cell d i j).extractLsb' (8 * k) 8 = memRead s 0 (at_ i j k))) ∧
    (s.stk = p :: w :: r → MayTouch s [no d] → rows → AreaAt s p.toNat offs loc →
      ∃ t, exec (.mst d) s = .next t ∧ t.q.pc = s.q.pc + 1 ∧ t.q.wc = s.q.wc + 1 ∧ Accesses [.tiles, .stack, .rings] s t ∧
        RingsKept s t ∧ StackIs s t r ∧ Touched s t [no d] [] ∧ MemoryKeptBut (offs.map (loc + ·)) s t ∧
        ∀ i j k, i < 32 → j < 32 → k < 4 → memRead t 0 (at_ i j k) = (s.cell d i j).extractLsb' (8 * k) 8) ∧
    (s.stk = p :: r → p.toNat % 128 = 0 → MayTouch s [no d, no a] → CleanArea s p.toNat (List.range 128) loc →
      ∀ y ∈ [(Instr.msclCol d a, false), (.msclRow d a, true)], TileDone y.1 s 1 [no d, no a] [no d] [] (fun t =>
        ∀ i j, i < 32 → j < 32 →
          t.cell d i j = encF32 (rne (fmul (f32 (s.cell a i j)) (f32 (word (loc + 4 * (if y.2 then i else j)))))))) ∧
    (s.stk = p :: r → p.toNat % 64 = 0 → CleanArea s p.toNat (List.range 64) loc →
      TileDone .mfmt s 1 [] [] [.formats] (fun t => ∀ k, k < 16 → t.me.fmtTab.get 0 k = word (loc + 4 * k))) ∧
    (s.stk = p :: w :: r → MayTouch s [no d] → 2 ^ 32 ≤ w.toNat → ∀ y ∈ [Instr.mldAcc d, .mst d], Traps y s 1 s.wordVal)

/-- The multiply-accumulate (R55, R203–R206, R210): for each row of A and each column of B, the groups in order, each the exact sum
of its products under both scales rounded once, then added and rounded; INT adds the exact integer sum modulo 2^32. The sign of an exact sum of 0 is
the model's reading (log 67). A pair from the format table that may not be used traps 0x0019 with the entry's number. -/
def Obligations.MultiplyAccumulate : Prop :=
  ∀ (s : State) (d : BitVec 6) (b : BitVec 4) (f g : BitVec 3) (p q w : W64) (r : List W64) (fa fb loc loc2 : Nat),
    let ts := [d.toNat % 16, b.toNat]
    let k := pairK fa fb
    let len := k * mxWidth fa / 8
    let gs := if fa = 5 then 16 else 32
    let span := w.toNat % 8
    let int := w.toNat / 8 % 2 = 1
    let st := if w.toNat / 2 ^ 16 = 0 then len else w.toNat / 2 ^ 16
    let offs := (List.range 32).flatMap (fun i => (List.range len).map (fun x => swz (i * st + x) span))
    let row (i : Nat) : Nat := leNat ((List.range len).map (fun x => memRead s 0 (loc + swz (i * st + x) span)))
    let ea (i n : Nat) : Nat := (memRead s 0 (loc2 + i * (k / gs) + n)).toNat
    let tb := s.me.tile.get {} b.toNat
    let eb (n j : Nat) : Nat := tileBits tb (8 * (2048 + 32 * n + j)) 8
    let av (i x : Nat) : Nat := bitsOf (row i) (mxWidth fa * x) (mxWidth fa)
    let bv (x j : Nat) : Nat := tileBits tb ((x * 32 + j) * mxWidth fb) (mxWidth fb)
    let prods (i n j : Nat) : List FVal := (List.range gs).map (fun e => fmul (mxElem fa (av i (gs * n + e))) (mxElem fb (bv (gs * n + e) j)))
    let does (h : State → Prop) : Prop := TileDone (.mma d b f g) s 3 ts [d.toNat % 16] [.counts] (fun t =>
      t.me.nmma = (if s.me.nmma + 1 < 2 ^ 32 then s.me.nmma + 1 else 2 ^ 32 - 1) ∧ t.me.nmcast = s.me.nmcast ∧ t.me.nser = s.me.nser ∧ t.me.nwait = s.me.nwait ∧
      h t)
    let cells (h : Nat → Nat → Word) (t : State) : Prop := ∀ i j, i < 32 → j < 32 → t.cell d i j = h i j
    s.stk = p :: q :: w :: r → MayTouch s ts →
    (resolvePair s f.toNat g.toNat = .ok (fa, fb) → k ≠ 0 → Unhindered s → w.toNat < 2 ^ 32 → w.toNat / 2 ^ 8 % 2 ^ 8 = 0 → len ≤ st →
      p.toNat % 128 = 0 → CleanArea s p.toNat offs loc →
      (int → fa ≤ 2 → fb ≤ 2 → does (cells (fun i j => s.cell d i j + BitVec.ofInt 32 (((List.range k).map (fun x =>
        sextNat (mxWidth fa) (av i x) * sextNat (mxWidth fb) (bv x j))).foldl (· + ·) 0)))) ∧
      (int → 2 < fa ∨ 2 < fb → Traps (.mma d b f g) s 1 s.wordVal) ∧
      (¬int → fa ≠ 5 → q.toNat % 32 = 0 → CleanArea s q.toNat (List.range (32 * (k / gs))) loc2 →
        does (cells (fun i j => encF32 ((List.range (k / gs)).foldl (fun acc n => rne (fadd acc
          (if ea i n = 255 ∨ eb n j = 255 then .nan
           else rne (scale2 ((ea i n : Int) + eb n j - 254) (exactSum (prods i n j)))))) (f32 (s.cell d i j)))))) ∧
      (¬int → fa = 5 → does (cells (fun i j => encF32 ((List.range (k / gs)).foldl (fun acc n =>
        rne (fadd acc (rne (scale2 0 (exactSum (prods i n j)))))) (f32 (s.cell d i j))))))) ∧
    (∀ e, f.toNat = 6 → e = (s.me.seqs.get {} 2).iter.toNat % 16 → (s.me.fmtTab.get 0 e).getLsbD 31 = false →
      Traps (.mma d b f g) s 0x19 (BitVec.ofNat 64 e))

/-- Outliers and the drain (R56, R210, R215, R216): MOUTL adds each listed value times the stationary tile's row that it names, in list
order, and leaves the cells of other rows as they are; MDRAIN multiplies by a power of two, converts each row, stores it and
its scale, and with z clears the tile. That MDRAIN completes at any alignment of its data and scale addresses is the model's reading
(log 39). -/
def Obligations.OutliersAndDrain : Prop :=
  ∀ (s : State) (d : BitVec 6) (b : BitVec 4) (f g : BitVec 3) (z : BitVec 1) (p q w : W64) (r : List W64) (fa fb loc loc2 : Nat),
    let n := q.toNat
    let es := (List.range n).map (fun i => readNat s 0 (loc + 4 * i) 4)
    let tb := s.me.tile.get {} b.toNat
    let gs := if fb = 5 then 16 else 32
    let bval (x j : Nat) : FVal := mxValue fb (tileBits tb (8 * (2048 + 32 * (x / gs) + j)) 8) (tileBits tb ((x * 32 + j) * mxWidth fb) (mxWidth fb))
    let span := w.toNat % 8
    let adj := (w.extractLsb' 8 8).toInt
    let val (i j : Nat) : FVal := scale2 adj (f32 (s.cell d i j))
    let drains (len : Nat) (one : Bool) (h : State → (Nat → Nat → Byte) → Prop) : Prop :=
      let st := if w.toNat / 2 ^ 16 = 0 then len else w.toNat / 2 ^ 16
      let offs := (List.range 32).flatMap (fun i => (List.range len).map (fun x => swz (i * st + x) span))
      len ≤ st → AreaAt s p.toNat offs loc → (one = true → AreaAt s q.toNat (List.range 32) loc2 ∧
        ∀ x ∈ offs, ∀ y, y < 32 → loc + x ≠ loc2 + y) →
      ∃ t, exec (.mdrain d z f) s = .next t ∧ t.q.pc = s.q.pc + 1 ∧ t.q.wc = s.q.wc + 1 ∧ StackIs s t r ∧
        Accesses [.tiles, .stack, .rings] s t ∧ RingsKept s t ∧ Touched s t [d.toNat % 16] (if z = 1 then [d.toNat % 16] else []) ∧
        (z = 1 → ∀ i j, i < 32 → j < 32 → t.cell d i j = 0) ∧
        MemoryKeptBut (offs.map (loc + ·) ++ if one then (List.range 32).map (loc2 + ·) else []) s t ∧
        h t (fun i x => memRead t 0 (loc + swz (i * st + x) span))
    (s.stk = p :: q :: r → MayTouch s [d.toNat % 16, b.toNat] → resolvePair s f.toNat g.toNat = .ok (fa, fb) → Unhindered s →
      0 < n → n ≤ 256 → p.toNat % 4 = 0 → CleanArea s p.toNat (List.range (4 * n)) loc →
      (∀ e ∈ es, e / 2 ^ 28 = 0 ∧ e / 2 ^ 16 % 2 ^ 7 < pairK fa fb) →
      TileDone (.moutl d b f g) s 2 [d.toNat % 16, b.toNat] [d.toNat % 16] [] (fun t => ∀ i j, i < 32 → j < 32 →
        let mine := es.filter (fun e => e / 2 ^ 23 % 2 ^ 5 = i)
        t.cell d i j = if mine = [] then s.cell d i j else encF32 (mine.foldl (fun acc e =>
          rne (fadd acc (fmul (fval fmtBf16 (e % 2 ^ 16)) (bval (e / 2 ^ 16 % 2 ^ 7) j)))) (f32 (s.cell d i j))))) ∧
    (s.stk = p :: q :: r → MayTouch s [d.toNat % 16, b.toNat] → resolvePair s f.toNat g.toNat = .ok (fa, fb) → 256 < n →
      Traps (.moutl d b f g) s 1 s.wordVal) ∧
    (s.stk = p :: q :: w :: r → MayTouch s [d.toNat % 16] → Unhindered s → w.toNat < 2 ^ 32 → w.toNat / 8 % 2 = 0 →
      (f = 7 → drains 128 false (fun _ m => ∀ i j x, i < 32 → j < 32 → x < 4 →
        m i (4 * j + x) = (encF32 (rne (val i j))).extractLsb' (8 * x) 8)) ∧
      (f = 5 → drains 64 false (fun _ m => ∀ i j x, i < 32 → j < 32 → x < 2 →
        m i (2 * j + x) = BitVec.ofNat 8 (bitsOf (enc fmtBf16 (rnd fmtBf16 0 (val i j))) (8 * x) 8))) ∧
      (f.toNat ≤ 4 → drains (4 * mxWidth f.toNat) true (fun t m => ∀ i, i < 32 →
        let y := quantMx f.toNat ((List.range 32).map (val i))
        memRead t 0 (loc2 + i) = BitVec.ofNat 8 y.1 ∧ ∀ j x, j < 32 → x < mxWidth f.toNat →
          let k := mxWidth f.toNat * j + x
          (m i (k / 8)).getLsbD (k % 8) = (y.2.getD j 0).testBit x)))

/-- Tiles moved by privileged code and by firmware (R217, R221, R222): MSAVE stores a tile's image at a 4 KiB offset of the core's
scratchpad and frees it, MREST loads one with an owner and a state, as M finds its bytes, and a command of firmware does the same with the
transfer area once it completes. That it does so with its fields as they were when it was accepted, and that an accepted one clears
REFUSED, is the model's reading (log 82); one that is not accepted only says so. A save follows the stores to its bytes that M has
issued and those that the core has seen, the model's choice (log 87); that a poisoned line of the transfer area does not stop a restore by firmware, and that an
instance whose text is still being staged makes a command be refused, are the model's choice, too (log 93). Outside privileged code the words trap 0x0004. -/
def Obligations.TileTransfers : Prop :=
  ∀ (s : State) (d : BitVec 4) (n : Nat),
    let c := s.core n
    let x := d.toNat
    let freed (t : State) (m k : Nat) : Prop := (t.core m).tile.get {} k = {} ∧ (t.core m).tileSt.get .free k = .free ∧
      ∀ j, j ≠ k → (t.core m).tile.get {} j = (s.core m).tile.get {} j ∧ (t.core m).tileSt.get .free j = (s.core m).tileSt.get .free j
    let image (t : State) (m k loc : Nat) : Prop := (∀ o, o < 4096 → memRead t 0 (loc + o) = (s.core m).tileByte k o) ∧
      MemoryKeptBut ((List.range 4096).map (loc + ·)) s t
    let loaded (t : State) (m k loc : Nat) (own : Nat) (st : TileSt) : Prop :=
      (∀ o, o < 4096 → (t.core m).tileByte k o = loadByte s m .m 0 (loc + o)) ∧ (t.core m).tileOwner.get 0 k = own ∧
      (t.core m).tileSt.get .free k = st ∧ MemoryKept s t ∧
      ∀ j, j ≠ k → (t.core m).tile.get {} j = (s.core m).tile.get {} j ∧ (t.core m).tileSt.get .free j = (s.core m).tileSt.get .free j
    let held (m loc : Nat) : Prop := ∃ x ∈ s.accs, x.n = m ∧ (x.eng = 2 ∨ x.atCore = true) ∧ (∃ key bs, x.eff = .write key bs ∧
      ∃ b ∈ bs, loc ≤ b.1 ∧ b.1 < loc + 4096)
    (s.me.priv s.curCore = false → Traps (.msave d) s 4 s.wordVal ∧ Traps (.mrest d) s 4 s.wordVal) ∧
    (∀ a l, s.me.priv s.curCore = true → s.curCore ≤ 128 → s.stk = a :: l → a.toNat % 4096 = 0 → a.toNat + 4096 ≤ 0x400000 →
      (a.toNat = 0x3FF000 → s.me.tfull = false) →
      (held s.curCore (spLoc s.curCore a.toNat) → Waits (.msave d) s .other) ∧
      (s.me.detmode = false → ¬held s.curCore (spLoc s.curCore a.toNat) → ∃ t, exec (.msave d) s = .next t ∧ t.q.pc = s.q.pc + 1 ∧ t.q.wc = s.q.wc + 1 ∧ StackIs s t l ∧ freed t s.curCore x ∧
        image t s.curCore x (spLoc s.curCore a.toNat) ∧ t.me.tfull = (s.me.tfull || decide (a.toNat = 0x3FF000)))) ∧
    (∀ a l own st, s.me.priv s.curCore = true → s.curCore ≤ 128 → s.me.detmode = false → s.stk = a :: BitVec.ofNat 64 (own + 64 * st) :: l → own < 64 → (st = 1 ∨ st = 2) →
      a.toNat % 4096 = 0 → a.toNat + 4096 ≤ 0x400000 → Clean s (spLoc s.curCore a.toNat) 4096 →
      ∃ t, exec (.mrest d) s = .next t ∧ t.q.pc = s.q.pc + 1 ∧ t.q.wc = s.q.wc + 1 ∧ StackIs s t l ∧
        loaded t s.curCore x (spLoc s.curCore a.toNat) own (if st = 1 then .active else .held) ∧
        t.me.tfull = (s.me.tfull && decide (a.toNat ≠ 0x3FF000))) ∧
    (let only (i : Instr) (d : Core) : Prop := ∃ t, exec i s = .next t ∧ t.core n = d ∧ t = { s with cores := t.cores } ∧
        ∀ k, k ≠ n → t.core k = s.core k
      let takes (w : BitVec 17) : Core := { c with tbusy := true, trefused := false, ctile := w, tjob := w }
      let idle := c.inst = none ∧ c.tbusy = false
      let valid := c.ctile.extractLsb' 14 2 = 1#2 ∨ c.ctile.extractLsb' 14 2 = 2#2
      (idle → c.tfull = false → only (.tileSaveGo n) (takes (c.ctile &&& 0x1FFEF#17))) ∧
      (idle → valid → only (.tileRestoreGo n) (takes (c.ctile ||| 0x10#17))) ∧
      (¬(idle ∧ c.tfull = false) → only (.tileSaveGo n) { c with trefused := true }) ∧
      (¬(idle ∧ valid) → only (.tileRestoreGo n) { c with trefused := true })) ∧
    (c.tbusy = true → n < 128 →
      let k := (c.tjob.extractLsb' 0 4).toNat
      (c.tjob.getLsbD 4 = false → held n (spLoc n 0x3FF000) → exec (.tileTransferComplete n) s = .next s) ∧
      ((c.tjob.getLsbD 4 = false → ¬held n (spLoc n 0x3FF000)) → ∃ t, exec (.tileTransferComplete n) s = .next t ∧ (t.core n).tbusy = false ∧
        (c.tjob.getLsbD 4 = false → freed t n k ∧ image t n k (spLoc n 0x3FF000) ∧ (t.core n).tfull = true) ∧
        (c.tjob.getLsbD 4 = true → (t.core n).tfull = false ∧ loaded t n k (spLoc n 0x3FF000) (c.tjob.extractLsb' 8 6).toNat
          (if c.tjob.extractLsb' 14 2 = 1#2 then .active else .held))))

/-! ## Bank products and copies -/

/-- The bank-side product (R55, R223–R226): a value outside the limits of its operands traps 0x0001, an address outside the range that
R223 names for it among them as the model reads it (log 40); else BMV pops its six operands and, for a matrix within one cached page, takes the rows, the
page, the values read at issue and the slot, on which M's clock stands from then on (R103); each row's write is the sum of its groups in order, rounded, as one 4-byte write
that the slot counts, and a poisoned weight line makes it the canonical NaN and sets the slot's error flag. That a row waits for a store to its bytes that the
core has seen (log 43), and the sign of an exact sum of 0 (log 67), are the model's readings. -/
def Obligations.BankProducts : Prop :=
  (∀ (s : State) (w r n f x d : W64) (l : List W64) (ent : TlbEnt) (xl dl j : Nat),
    let da := d.toNat % 2 ^ 24
    let k := d.toNat / 2 ^ 24
    let stride := (n.toNat * mxWidth f.toNat / 8 + (if f = 5 then 0 else n.toNat / 32) + 127) / 128 * 128
    s.curEng = .m → Unhindered s → s.stk = w :: r :: n :: f :: x :: d :: l → 1 ≤ r.toNat → r.toNat ≤ 16384 → 32 ≤ n.toNat →
    n.toNat ≤ 65536 → n.toNat % 32 = 0 → f.toNat ≤ 5 → d.toNat < 2 ^ 32 → w.toNat % 0x10000 = 0 → 0x10000000000 ≤ w.toNat →
    s.me.tlb.find? (fun t => t.hits s.ctxNow w.toNat) = some ent → ent.r = true → 16 ≤ ent.bits → w.toNat % 2 ^ ent.bits = 0 →
    w.toNat + 2 ^ ent.bits ≤ 0x10000000000000 → r.toNat * stride ≤ 2 ^ ent.bits → ent.layout = (if f.toNat ≤ 2 then 1 else 2) →
    x.toNat % 128 = 0 → OwnAt s x.toNat (2 * n.toNat) xl → Clean s xl (2 * n.toNat) → da % 4 = 0 → OwnAt s da (4 * r.toNat) dl →
    (s.me.rings.get {} k).filling da (4 * r.toNat) = some j →
    ∃ t o, exec .bmv s = .next t ∧ Completes (s.q.pc + 1) s t ∧ StackIs s t l ∧ MemoryKept s t ∧
      Accesses [.stack, .operations, .rings] s t ∧ RingsKept s t ∧
      (let k' := s.q.vclk.set .m (s.q.wc + 1)
       ((t.me.rings.get {} k).slot j).clk = some (match ((s.me.rings.get {} k).slot j).clk with
        | none => k'
        | some b => b.merge k')) ∧ t.me.copies = [] ∧ t.me.replay = [] ∧ t.me.bmvs = [o] ∧ o.owner = s.me.owner ∧
      o.fmt = f.toNat ∧ o.cols = n.toNat ∧ o.stride = stride ∧ o.pages = [ent.place s w.toNat] ∧ o.rows = List.range r.toNat ∧
      o.dest = dl ∧ o.count = ⟨s.curCore, k, j, s.me.owner.1, s.me.owner.2⟩ ∧
      ∀ i, i < n.toNat → o.xs.getD i 0 = readNat s 0 (xl + 2 * i) 2) ∧
  (∀ (s : State) (w r n f x d : W64) (l : List W64), s.stk = w :: r :: n :: f :: x :: d :: l →
    (r = 0 ∨ 16384 < r.toNat ∨ n.toNat < 32 ∨ 65536 < n.toNat ∨ n.toNat % 32 ≠ 0 ∨ 5 < f.toNat ∨ 2 ^ 32 ≤ d.toNat ∨
      w.toNat < 0x10000000000 ∨ 0x10000000000000 ≤ w.toNat ∨ 0x400000 ≤ x.toNat ∨ 0x400000 ≤ d.toNat % 2 ^ 24) →
    Traps .bmv s 1 s.wordVal) ∧
  (∀ (s : State) (n r : Nat) (o : BmvOp),
    let ct := o.count
    let c := s.core ct.core
    let x := (c.rings.get {} ct.ring).slot ct.slot
    let gs := if o.fmt = 5 then 16 else 32
    let p := o.pages.getD (r / o.perPage) (0, 0)
    let at_ := p.1 + r % o.perPage * o.stride
    let row := readNat s p.2 at_ o.stride
    let eb (g : Nat) : Nat := if o.fmt = 5 then 127 else bitsOf row (8 * (o.cols * mxWidth o.fmt / 8) + 8 * g) 8
    let prods (g : Nat) : List FVal := (List.range gs).map (fun e =>
      fmul (mxElem 5 (o.xs.getD (gs * g + e) 0)) (mxElem o.fmt (bitsOf row (mxWidth o.fmt * (gs * g + e)) (mxWidth o.fmt))))
    let y := (List.range (o.cols / gs)).foldl (fun acc g =>
      rne (fadd acc (if eb g = 255 then .nan else rne (scale2 ((127 : Int) + eb g - 254) (exactSum (prods g)))))) (.fin false 0 0 false)
    let bad := ∃ i, i < o.stride / 128 ∧ s.poison.get false (at_ / 128 + i) = true
    (s.core n).bmvs = [o] → r ∈ o.rows → isMain (o.dest + 4 * r + 3) = false → c.owner = (ct.launch, ct.inst) →
    let held := countHeld s (some ct) || seenOver s n ((List.range 4).map (o.dest + 4 * r + ·))
    (held = true → exec (.bmvRowWrite n o.id r) s = .next s) ∧
    (x.tag = 1 → x.a + 4 ≤ x.x → held = false →
    ∃ t v, exec (.bmvRowWrite n o.id r) s = .next t ∧ Holds t 0 (o.dest + 4 * r) (leBytes 4 v) ∧
      MemoryKeptBut ((List.range 4).map (o.dest + 4 * r + ·)) s t ∧ (¬bad → v = (encF32 y).toNat) ∧ (bad → v = 0x7FC00000) ∧
      (let z := ((t.core ct.core).rings.get {} ct.ring).slot ct.slot
       z.a = x.a + 4 ∧ z.b = x.b + 4 ∧ z.x = x.x ∧ z.tag = (if x.x ≤ x.a + 4 then 2 else 1) ∧ (bad → z.err = true) ∧
       (¬bad → z.err = x.err)) ∧
      (o.rows = [r] → (t.core n).bmvs = []) ∧
      ∀ b ∈ (t.core n).bmvs, b = { o with rows := o.rows.filter (· ≠ r) }))

/-- Copies are issued (R229–R236, R247–R251): each instruction pops its operands and hands the engine an operation with its class,
its ring slot, if any, on which C's clock stands from then on (R103), and for every destination byte, word or element where its value
comes from. Shown for own scratchpad, and COPY for a record of rank 1: an element out of bounds is skipped where the record permits it, and traps 0x000A where it does not. -/
def Obligations.CopiesAreIssued : Prop :=
  ∀ (s : State) (rw : W64) (l : List W64) (n cls dst dl : Nat) (ct : Option Count),
    let cw : W64 := BitVec.ofNat 64 (n + 2 ^ 32 * cls)
    let da : W64 := BitVec.ofNat 64 dst
    let issued (i : Instr) (rest : List W64) (f : CopyOp → Prop) : Prop :=
      ∃ t o, exec i s = .next t ∧ Completes (s.q.pc + 1) s t ∧ StackIs s t rest ∧ MemoryKept s t ∧
        Accesses [.stack, .operations, .rings] s t ∧ RingsKept s t ∧ t.me.bmvs = [] ∧ t.me.replay = [] ∧ t.me.copies = [o] ∧
        o.id = s.nextId ∧ o.cls = cls ∧ o.owner = s.me.owner ∧ o.count = ct ∧ o.report = none ∧ f o ∧
        let k' := s.q.vclk.set .c (s.q.wc + 1)
        ∀ x, ct = some x → ((t.me.rings.get {} x.ring).slot x.slot).clk =
          some (match ((s.me.rings.get {} x.ring).slot x.slot).clk with
            | none => k'
            | some b => b.merge k')
    let slot (a m j : Nat) (k : BitVec 8) : Prop := (s.me.rings.get {} k.toNat).filling a m = some j ∧
      ct = some ⟨s.curCore, k.toNat, j, s.me.owner.1, s.me.owner.2⟩
    let counts (a m : Nat) : Prop := (rw = 0x100 ∧ ct = none) ∨ ∃ j k, rw = k.setWidth 64 ∧ slot a m j k
    let names (m : Nat) : Prop := (rw = 0x100 ∧ ct = none) ∨
      ∃ a j k, a < 0x400000 ∧ rw = BitVec.ofNat 64 (k.toNat + 2 ^ 16 * a) ∧ slot a m j k
    let moves (o : CopyOp) (i : Nat) (x : Src) : Prop :=
      ∃ u ∈ o.units, ∃ mv k, u = .line ((dl + i) / 128 * 128) 0 mv k ∧ ((dl + i) % 128, x) ∈ mv
    let skips (o : CopyOp) (i : Nat) : Prop :=
      ∀ mv k, Unit_.line ((dl + i) / 128 * 128) 0 mv k ∈ o.units → ∀ x, ((dl + i) % 128, x) ∉ mv
    s.curEng = .c → s.curCore < 128 → Unhindered s → cls < 16 → 1 ≤ n → n ≤ 16777216 →
    (∀ (src : W64) sl, OwnAt s src.toNat n sl → OwnAt s dst n dl → counts dst n → s.stk = src :: da :: rw :: cw :: l →
      issued .copyl l (fun o => ∀ i, i < n → moves o i (.loc (sl + i) 0))) ∧
    (∀ p : W64, OwnAt s dst n dl → dst % 8 = 0 → n % 8 = 0 → counts dst n → s.stk = da :: rw :: cw :: p :: l →
      issued .cfill l (fun o => ∀ i, i < n → moves o i (.const (p.extractLsb' (8 * (i % 8)) 8)))) ∧
    (∀ (src : W64) sl lo, OwnAt s src.toNat n sl → src.toNat % 4 = 0 → n % 4 = 0 → dst = 0x200000000 + 4 * lo → lo + n / 4 ≤ 65536 →
      (∀ e ∈ team s.curCore, ∀ i, i < n / 4 → inSlipWindow s (s.me.seqs.get {} e.tag) (lo + i) = false) →
      names n → s.stk = src :: da :: rw :: cw :: l → issued .copyi l (fun o => o.text = some (lo, n / 4) ∧ ∀ i, i < n →
        ∃ a bs, Unit_.text a bs ∈ o.units ∧ 4 * a ≤ 4 * lo + i ∧ bs[4 * lo + i - 4 * a]? = some (.loc (sl + i) 0))) ∧
    (∀ (base ia va oa : W64) (op bl il vl ol : Nat),
      let e (j : Nat) : Nat := readNat s 0 (il + 4 * j) 4
      let accs (o : CopyOp) (out : Nat → Option Nat) : Prop :=
        ∀ j, j < n → ∃ es, Unit_.accum (bl + 4 * e j) op es ∈ o.units ∧ (vl + 4 * j, out j) ∈ es
      let ow : W64 := BitVec.ofNat 64 (op + 2 ^ 4 * cls + 2 ^ 8 * n)
      op ≤ 5 → n ≤ 65536 → base.toNat % 4 = 0 → ia.toNat % 4 = 0 → va.toNat % 4 = 0 → OwnAt s ia.toNat (4 * n) il →
      OwnAt s va.toNat (4 * n) vl → (∀ j, j < n → OwnAt s (base.toNat + 4 * e j) 4 (bl + 4 * e j)) →
      (names (4 * n) → s.stk = ow :: base :: ia :: va :: rw :: l → issued .scacc l (fun o => accs o (fun _ => none))) ∧
      (oa.toNat % 4 = 0 → OwnAt s oa.toNat (4 * n) ol → counts oa.toNat (4 * n) → s.stk = ow :: base :: ia :: va :: rw :: oa :: l →
        issued .sfacc l (fun o => accs o (fun j => some (ol + 4 * j))))) ∧
    (∀ (ra x : W64) (rl base bl code d0 b0 permit : Nat),
      let sz := 2 ^ code
      let inb (j : Nat) : Prop := 0 ≤ x.toInt + j ∧ x.toInt + j < d0
      let at_ (j : Nat) : Nat := (x.toInt + j).toNat * sz
      ra.toNat % 64 = 0 → OwnAt s ra.toNat 64 rl → Clean s rl 64 → code ≤ 3 → 1 ≤ d0 → d0 < 2 ^ 32 → 1 ≤ b0 → b0 < 2 ^ 16 → permit ≤ 1 →
      base < 2 ^ 64 →
      Holds s 0 rl (leBytes 8 base ++ leBytes 1 code ++ leBytes 1 1 ++ leBytes 2 (permit + 2 ^ 8 * cls) ++ leBytes 4 0 ++ leBytes 4 d0 ++
        leBytes 16 0 ++ leBytes 2 b0 ++ leBytes 26 0) →
      OwnAt s dst (b0 * sz) dl → (∀ j, j < b0 → inb j → OwnAt s (base + at_ j) sz (bl + at_ j)) → s.stk = ra :: da :: rw :: x :: l →
      (permit = 1 ∨ (∀ j, j < b0 → inb j) → counts dst (b0 * sz) → issued .copy l (fun o => ∀ i, i < b0 * sz →
        (inb (i / sz) → moves o i (.loc (bl + at_ (i / sz) + i % sz) 0)) ∧ (¬inb (i / sz) → skips o i))) ∧
      (permit = 0 → counts dst (b0 * sz) → (∃ j, j < b0 ∧ ¬inb j) → Traps .copy s 0xA ra))

/-- What the copy engine writes (R237–R239, R242, R250, R251): a line's bytes together, and no other byte, counted toward the slot,
which becomes full with its last byte, in memory at once or, left to the schedule, at core scope first; instruction words, the first of which sets OVERLAY, as the model reads it (log 53); an element and the values from before each entry. Where the operation has overwritten a source, it takes what is
there or what was there before it, byte by byte, the model's choice (log 74). A combine's line gets, element by element, coarse new and the correction of the fine result by coarse
old, each rounded, or the fine result as it is, and the norm and DIFF of its part's report (R252). A poisoned source, once the
earlier lines of the operation are in memory, poisons the line, ends the operation, and makes the slot full with its error flag set; a
combine still reports. -/
def Obligations.CopyLinesAreWritten : Prop :=
  ∀ (s : State) (n : Nat) (o : CopyOp) (u : Unit_) (us : List Unit_),
    let does (f : State → Prop) : Prop := ∃ t, exec (.copyLineWrite n o.id) s = .next t ∧ f t
    let found (key a : Nat) (b : Byte) : Prop := b = loadByteOf s n o.owner .c key a ∨ o.before.get none a = some b
    let source (x : Src) (b : Byte) : Prop := match x with
      | .loc a k => found k a b
      | .const c => b = c
    let left (t : State) : Prop := (us = [] → o.report = none → (t.core n).copies = []) ∧
      (us ≠ [] → o.report = none → ∃ m, (t.core n).copies = [{ o with units := us, before := m }] ∧
        ∀ a b, m.get none a = some b → o.before.get none a = some b ∨ (u.stores a = true ∧ ∃ k, b = loadByteOf s n o.owner .c k a))
    let clean := ∀ a ∈ u.reads, poisonSeen s n o.owner .c (a / 128) = false
    (s.core n).copies = [o] → o.units = u :: us → (copyMay s n o u = false → exec (.copyLineWrite n o.id) s = .next s) ∧ (copyMay s n o u = true →
    (∀ loc mv k, u = .line loc 0 mv k → loc % 128 = 0 → isMain (loc + 127) = false → mv ≠ [] → (mv.map (·.1)).Nodup →
      (∀ m ∈ mv, m.1 < 128) → clean →
      let later := lineLater s n o u
      does (fun t => left t ∧
        (later = false → (∀ m ∈ mv, source m.2 (memRead t 0 (loc + m.1))) ∧ MemoryKeptBut (mv.map (loc + ·.1)) s t ∧ t.accs = s.accs) ∧
        (later = true → MemoryKept s t ∧ ∃ bs, (∀ m ∈ mv, ∃ b, (loc + m.1, b) ∈ bs ∧ source m.2 b) ∧ bs.map (·.1) = mv.map (loc + ·.1) ∧
          let a : Access := { id := s.nextId, op := some o.id, n := n, eng := 3, owner := o.owner, cls := o.cls, eff := .write 0 bs }
          t.accs = s.accs.filter (·.atCore) ++ [{ a with atCore := true }] ++ s.accs.filter (fun x => !x.atCore)) ∧
        ∀ ct, o.count = some ct → (s.core ct.core).owner = (ct.launch, ct.inst) →
          let x := ((s.core ct.core).rings.get {} ct.ring).slot ct.slot
          let y := ((t.core ct.core).rings.get {} ct.ring).slot ct.slot
          x.tag = 1 → x.a + mv.length + k ≤ x.x → y.a = x.a + mv.length + k ∧ y.b = x.b + mv.length ∧ y.x = x.x ∧
            y.tag = if x.x ≤ x.a + mv.length + k then 2 else 1)) ∧
    (¬clean → (∃ a ∈ s.accs, a.op = some o.id) → exec (.copyLineWrite n o.id) s = .next s) ∧
    (∀ loc va exact es r, u = .comb loc 0 va none exact es → loc % 128 = 0 → isMain (loc + 127) = false → (es.map (·.1)).Nodup →
      (∀ e ∈ es, e.1 % 4 = 0 ∧ e.1 < 128) → o.count = none → o.report = some r →
      let word (p : Nat × Nat) (w : Word) : Prop := ∀ i, i < 4 → found p.2 (p.1 + i) (w.extractLsb' (8 * i) 8)
      let next (t : State) (l : List Unit_) (x : Report) : Prop := ∃ m, (t.core n).copies = [{ o with units := l, report := some x, before := m }]
      (clean → does (fun t => MemoryKeptBut (es.flatMap (fun e => (List.range 4).map (loc + e.1 + ·))) s t ∧
        ∃ vals : List (Word × Word), vals.length = es.length ∧
          (∀ (k : Nat) e, es[k]? = some e → ∃ gnew fold gold : Word, word e.2.1 gnew ∧ word e.2.2.1 fold ∧ word e.2.2.2 gold ∧
            let old : Word := BitVec.ofNat 32 (leNat ((List.range 4).map (fun i => loadByteOf s n o.owner .c 0 (loc + e.1 + i))))
            let new : Word := if exact then fold else encF32 (rne (fadd (f32 gnew) (rne (fsub (f32 fold) (f32 gold)))))
            vals[k]? = some (new, old) ∧ Holds t 0 (loc + e.1) (leBytes 4 new.toNat)) ∧
          next t us { r with
            norm := vals.foldl (fun a v => normMax a (encF32 (rne (fsub (f32 v.1) (f32 v.2))).abs)) r.norm
            differs := r.differs || vals.any (fun v => v.1 ≠ v.2) })) ∧
      (¬clean → (∀ a ∈ s.accs, a.op ≠ some o.id) → does (fun t => t.poison.get false (loc / 128) = true ∧
        next t [] { r with norm := 0x7FC00000#32, differs := true, settled := false }))) ∧
    (∀ loc mv k, u = .line loc 0 mv k → loc % 128 = 0 → isMain (loc + 127) = false → mv ≠ [] → ¬clean →
      (∀ a ∈ s.accs, a.op ≠ some o.id) → o.report = none →
      does (fun t => (t.core n).copies = [] ∧ t.poison.get false (loc / 128) = true ∧
        (t.core n).npois = (if (s.core n).npois + 1 < 2 ^ 16 then (s.core n).npois + 1 else 2 ^ 16 - 1) ∧
        ∀ ct, o.count = some ct → (s.core ct.core).owner = (ct.launch, ct.inst) →
          (((s.core ct.core).rings.get {} ct.ring).slot ct.slot).tag = 1 →
          let y := ((t.core ct.core).rings.get {} ct.ring).slot ct.slot
          y.tag = 2 ∧ y.err = true)) ∧
    (∀ w srcs, u = .text w srcs → clean → o.count = none → does (fun t => left t ∧ MemoryKept s t ∧
      (∀ k, k < srcs.length / 4 → ∀ j x, j < 4 → srcs[4 * k + j]? = some x →
        source x ((t.imem.get 0 (65536 * n + w + k)).extractLsb' (8 * j) 8)) ∧
      (∀ a, (a < 65536 * n + w ∨ 65536 * n + w + srcs.length / 4 ≤ a) → t.imem.get 0 a = s.imem.get 0 a) ∧
      (t.core n).inst = (s.core n).inst.map (fun i => if (i.launch, i.placed) = o.owner then { i with overlay := true } else i))) ∧
    (∀ loc op v out, u = .accum loc op [(v, some out)] → clean → isMain (loc + 3) = false → isMain (out + 3) = false →
      (loc + 4 ≤ out ∨ out + 4 ≤ loc) → o.count = none →
      let old : Word := BitVec.ofNat 32 (leNat ((List.range 4).map (fun i => loadByteOf s n o.owner .c 0 (loc + i))))
      let new (val : Word) : Word := match op with
        | 0 => encF32 (rne (fadd (f32 old) (f32 val)))
        | 1 => old + val
        | 2 => encF32 (fmax (f32 old) (f32 val))
        | 3 => encF32 (fmin (f32 old) (f32 val))
        | 4 => old ||| val
        | _ => val
      does (fun t => left t ∧ Holds t 0 out (leBytes 4 old.toNat) ∧
        (∃ val : Word, (∀ i, i < 4 → found 0 (v + i) (val.extractLsb' (8 * i) 8)) ∧ Holds t 0 loc (leBytes 4 (new val).toNat)) ∧
        MemoryKeptBut ((List.range 4).flatMap (fun i => [loc + i, out + i])) s t)))


/-! ## Fabric sends -/

/-- The sending instructions of F (R274, R278, R282–R285): FSEND and FQSEND pop a source, a transmit address and a count word, and hand the
fabric an operation or a queue entry under the map entry that covers the whole range; a range that no entry covers traps
0x0018, at its first byte outside one; sixteen operations make the word wait, and so do accesses of its class that it follows by slip, as the model reads R66 (log 88). That the traps come whatever is in flight, and that an
operation counts until its sends are performed, is the model's reading (log 48). FQSEND traps 0x0001 under an entry of more than one
destination or with loop-back, and gives 1 on a full queue. FSACC joins a reduction: with no other contributor
its result goes to this device's own window; an odd node's value goes to the owner of its sibling, and an even node waits for
its sibling's partial, unless the context that it joins holds all of it already: the two are combined, and the root's value goes to every
participant. A participation of which a packet was refused here before it joined has failed with that status (R388), as the model
reads it (log 47). A BF16 input is widened, and a NaN of a float operation is the canonical one (R39, R46). It gives 1 where an owner is no member of the group, and abandons
what has arrived of the reduction (R279), the model's reading for a context of partials alone (log 47), and 2 where no context is free. -/
def Obligations.FabricSends : Prop :=
  (∀ (s : State) (g : BitVec 4) (src ta cw : W64) (r : List W64) (k loc x : Nat) (m : TxMap),
      let off := ta.toNat - 0x300000000
      let q := s.fabric.bulks.filter (fun b => b.queued ∧ b.dev = (m.dests.headD (0, 0)).1 ∧ b.lines ≠ 0 ∧ b.st = 0)
      let b : Bulk := { id := s.nextId, core := s.curCore, owner := s.me.owner, ctx := s.ctxNow, cls := m.cls, queued := false, idx := x
                        ver := m, src := loc, t := off, lines := k }
      let does (i : Instr) (zs : List Zone) (f : State → Prop) : Prop :=
        ∃ t, exec i s = .next t ∧ Completes (s.q.pc + 1) s t ∧ StackIs s t r ∧ OnFabric (.stack :: zs) s t ∧ MemoryKept s t ∧ f t
      s.me.detmode = false → s.stk = src :: ta :: cw :: r → cw = BitVec.ofNat 64 (128 * k) → 1 ≤ k → k ≤ 131072 → src.toNat % 128 = 0 →
      OwnAt s src.toNat (128 * k) loc → ta.toNat % 128 = 0 → 0x300000000 ≤ ta.toNat → ta.toNat < 0x400000000 →
      let single := m.loop = false ∧ m.dests.length = 1
      (txFind s s.ctxNow off = none → ∀ i ∈ [Instr.fsend, .fqsend g], Traps i s 0x18 ta) ∧
      (txFind s s.ctxNow off = some (x, m) →
        (¬single → Traps (.fqsend g) s 1 s.wordVal) ∧
        (m.w + 2 ^ m.z < off + 128 * k → let first : W64 := BitVec.ofNat 64 (0x300000000 + m.w + 2 ^ m.z)
          Traps .fsend s 0x18 first ∧ (single → Traps (.fqsend g) s 0x18 first)) ∧
        (off + 128 * k ≤ m.w + 2 ^ m.z →
          (16 ≤ (bulkOps s s.curCore).length → Waits .fsend s .sendPlaces ∧ (single → Waits (.fqsend g) s .sendPlaces)) ∧
          ((bulkOps s s.curCore).length < 16 → slipHeld s (fun c => c = m.cls) = true →
            Waits .fsend s .held ∧ (single → Waits (.fqsend g) s .held)) ∧
          ((bulkOps s s.curCore).length < 16 → slipHeld s (fun c => c = m.cls) = false →
            does .fsend [] (fun t => t.fabric = { s.fabric with bulks := s.fabric.bulks ++ [b] } ∧ t.nextId = s.nextId + 1) ∧
            (single → q.length < 64 → does (.fqsend g) [.g] (fun t => WritesG s t g 0 ∧ t.nextId = s.nextId + 1 ∧ t.fabric =
              { s.fabric with bulks := s.fabric.bulks ++ [{ b with queued := true, dev := (m.dests.headD (0, 0)).1, ver := {}, w := m.w }] })) ∧
            (single → 64 ≤ q.length → does (.fqsend g) [.g] (fun t => WritesG s t g 1 ∧ t.fabric = s.fabric)))))) ∧
  (∀ (s : State) (g : BitVec 4) (ra sa : W64) (r : List W64) (rl sl tl win op cls a n tab seq d : Nat) (bf : Bool) (sib : Option Nat),
      let es := if bf then 2 else 4
      let me := s.fabric.devid.toNat
      let val (j : Nat) : Word :=
        let v := readNat s 0 (sl + es * j) es
        if bf then encF32 (fval fmtBf16 v) else if op = 1 ∨ op = 3 then encF32 (f32 (BitVec.ofNat 32 v)) else BitVec.ofNat 32 v
      let words (k : Nat) : List Word := (List.range 32).map (fun i => val (32 * k + i))
      let send (k dev : Nat) (l : Payload) : Send :=
        { id := s.nextId + 1 + k, acc := s.nextId, core := s.curCore, eng := 4, owner := s.me.owner, ctx := s.ctxNow, cls := cls, dev := dev
          win := win, loopb := decide (dev = me), load := l }
      let does (v : W64) (f : State → Prop) : Prop :=
        ∃ t, exec (.fsacc g) s = .next t ∧ Completes (s.q.pc + 1) s t ∧ StackIs s t r ∧ OnFabric [.stack, .g] s t ∧ MemoryKept s t ∧
          WritesG s t g v ∧ f t
      let joined (t : State) (x : Red) (ended : Bool) (v : List Word) : Prop := ∃ p, t.fabric.reds = [{ x with part := some p }] ∧ p.ended = ended ∧
        p.core = s.curCore ∧ p.owner = s.me.owner ∧ p.cls = cls ∧ p.acc = s.nextId ∧ p.bad = s.fabric.refusedWith win (seq % 256) ∧ p.v = v
      let all : List Word := (List.range n).map val
      Unhindered s → s.stk = ra :: sa :: r → ra.toNat % 64 = 0 → OwnAt s ra.toNat 64 rl → Clean s rl 64 → OwnAt s tab 8192 tl →
      Clean s tl 8192 → OwnAt s sa.toNat (n * es) sl → Clean s sl (n * es) → sa.toNat % 4 = 0 → win < 1024 → 1 ≤ op → op ≤ 4 →
      (bf = true → op = 1 ∨ op = 3) → cls < 16 → a < 4096 → n % 32 = 0 → 32 ≤ n → n ≤ 8192 → tab % 128 = 0 → seq < 2 ^ 64 → d < 4096 → d ≠ me →
      Holds s 0 rl (leBytes 2 win ++ leBytes 1 (op + (if bf then 8 else 0) + 16 * cls) ++ leBytes 1 0 ++ leBytes 2 a ++ leBytes 2 0 ++
        leBytes 4 n ++ leBytes 4 0 ++ leBytes 8 tab ++ leBytes 8 seq ++ leBytes 32 0) →
      (∀ v, v < 4096 → readNat s 0 (tl + 2 * v) 2 = if v = a then 2 ^ 15 + me else if sib = some v then 2 ^ 15 + d else 0) →
      (∀ x, sib = some x → x < 4096 ∧ x ≠ a) →
      let old := s.fabric.red? win (seq % 256)
      (sib.isSome → s.fabric.member d = false →
        ((∀ x, old = some x → x.part.isSome = true) → does 1 (fun t => t.fabric = s.fabric)) ∧
        ∀ x, old = some x → x.part = none → does 1 (fun t => t.fabric.naband = min (s.fabric.naband + 1) 0xFFFF ∧
          t.fabric.red? win (seq % 256) = none ∧ (win, seq % 256) ∈ t.fabric.gone ∧ t.fabric.sends = s.fabric.sends)) ∧
      ((∀ x, sib = some x → s.fabric.member d = true) → s.fabric.red? win (seq % 256) = none → 8 ≤ s.fabric.reds.length →
        does 2 (fun t => t.fabric = s.fabric)) ∧
      (∀ x, (s.fabric.reds = [] ∧ x = { win := win, seq := seq % 256 }) ∨
          (s.fabric.reds = [x] ∧ x.win = win ∧ x.seq = seq % 256 ∧ x.part = none) →
        (sib = none → does 0 (fun t => joined t x true all ∧
          t.fabric.sends = (List.range (n / 32)).map (fun k => send k me (.result (seq % 256) k (words k))))) ∧
        (a % 2 = 1 → sib = some (a - 1) → s.fabric.member d = true → does 0 (fun t => joined t x true all ∧
          t.fabric.sends = (List.range (n / 32)).map (fun k => send k d (.partial_ (seq % 256) 0 a k (words k))))) ∧
        (a % 2 = 0 → sib = some (a + 1) → s.fabric.member d = true →
          ((∃ k, k < n / 32 ∧ ∀ e ∈ x.partials, e.1 ≠ (0, a + 1, k)) → does 0 (fun t => joined t x false all ∧ t.fabric.sends = [])) ∧
          ∀ ws : Nat → List Word, (∀ k, k < n / 32 → (ws k).length = 32 ∧
              x.partials.find? (fun e => e.1 = (0, a + 1, k)) = some ((0, a + 1, k), ws k)) →
            let v (k : Nat) : List Word := List.zipWith (redOp op) (words k) (ws k)
            does 0 (fun t =>
              joined t { x with partials := x.partials.filter (fun e => !(decide (e.1.1 = 0) && decide (e.1.2.1 = a + 1))) } true
                ((List.range (n / 32)).flatMap v) ∧
              t.fabric.sends = (List.range (n / 32)).map (fun k => send k (min me d) (.result (seq % 256) k (v k))) ++
                (List.range (n / 32)).map (fun k => send (n / 32 + k) (max me d) (.result (seq % 256) k (v k)))))))

/-- Packets leave and are acknowledged, and the reflection fence (R256, R263, R264, R267, R268, R273–R276). A waiting send that nothing
older holds leaves on its path's fibre; without a member, a path or a working fibre it fails with its status, and while the
device is quiesced, or the fibre paused or untrained, it waits. A send to this device's own window is written there, behind those issued before it. The next part
of a queue entry leaves under the version in force, with the bytes that F finds, or all that is left of it fails without one that covers
it, once it is a time at which the queue drains, its next line's path not waiting and the slot's budget not spent, and no line of a copy to
that device is still to be handed over (R276). A packet that is passed on leaves for a device joined to this one in phase mode, behind what came on its
path before it (log 45), or is dropped and its sender told why (R259, log 90), and an acknowledgement for another device is passed on too. An acknowledgement gives a send its status, a
performed send is forgotten, and a packet that sealing does not admit is refused (R258). A resend counts, and after fifteen of
one packet the path has failed; those that the receiver's pause causes do not count, and have failed it after more than 10 ms (R294).
That an acknowledgement is a packet of its own is the model's reading (log 80), and so is that a send to this device's own window does not
wait for QUIESCE (log 45). RFENCE waits, also where a checkpoint has fixed its cut before the word (R130), and traps where another sequencer stalls at an RFENCE elsewhere as the same common word (R65, log 48); once every member of W is performed
or failed, every sequencer counts the word, only then, as the model reads it (log 48), and with no entry of its mask in the queue (log 33), S gets the status of the member issued earliest, 6 where
that is what was left of a queue entry, of which window the model leaves free (log 47), and RFSTAT names it. -/
def Obligations.PacketsAndTheFence : Prop :=
  (∀ (s : State) (d : Send) (o op : Nat) (en : List Nat) (bs : List Byte),
      let f := s.fabric
      let x (b : Nat) := f.fibres.get {} b
      let waits : Prop := exec (.packetLaunch d.id) s = .next s
      let sends (l : List Send) : Prop := exec (.packetLaunch d.id) s = .next { s with fabric := { f with sends := l } }
      let fails (st : Nat) : Prop := sends (f.sends.map (fun y => if y.id = d.id then { y with st := 3, status := st } else y))
      f.sends.find? (fun y => y.id = d.id ∧ y.st = 0) = some d → d.load = .line o op en bs →
      (∀ src rx y, d.fwd = some (src, rx) → y ∈ f.sends → y.id < d.id → y.st = 0 → y.dev = d.dev → (∃ src', y.fwd = some (src', rx)) → waits) ∧
      (∀ src rx, d.fwd = some (src, rx) → d.loopb = false → sendBlocked s d = false →
        let drops (st : Nat) : Prop := exec (.packetLaunch d.id) s = .next { s with nextId := s.nextId + 1, fabric := { f with
          sends := f.sends.filter (fun y => y.id ≠ d.id) ++ [{ id := s.nextId, acc := s.nextId, core := 0xFF, eng := 7, owner := (0, 0), ctx := 0, cls := 0, dev := src, win := 0, load := .ack st }] } }
        (f.quiesce = true ∨ f.retraining = true → waits) ∧
        (f.quiesce = false → f.retraining = false → (f.slotMode = true ∨ f.isDirect d.dev = false → drops 1) ∧
          (f.slotMode = false → f.isDirect d.dev = true → ∀ b, f.pathFor d.dev o = some b → ((x b).failed = true → drops 2) ∧
            ((x b).failed = false → (x b).paused = true ∨ (x b).up = false → waits) ∧
            ((x b).failed = false → (x b).paused = false → (x b).up = true →
              sends (f.sends.map (fun y => if y.id = d.id then { y with st := 1, fibre := b } else y)))))) ∧
      (d.loopb = true → ∀ y ∈ f.sends, y.acc < d.acc → y.st = 0 → y.dev = d.dev → waits) ∧
      (sendBlocked s d = true → waits) ∧ (d.fwd = none →
      (sendBlocked s d = false → d.loopb = false → (f.quiesce = true ∨ f.retraining = true → waits) ∧
        (f.quiesce = false → f.retraining = false → (f.member d.dev = false → fails 1) ∧
          (f.member d.dev = true → f.seal_ = true → (∀ k, keyValid s k = true → (f.lkey.get {} k).peer.toNat ≠ d.dev) → fails 4) ∧
          (f.member d.dev = true → f.seal_ = false → f.slotMode = false → (f.pathFor d.dev o = none → fails 1) ∧
            ∀ b, f.pathFor d.dev o = some b → ((x b).failed = true → fails 2) ∧
              ((x b).failed = false → (x b).paused = true ∨ (x b).up = false → waits) ∧
              ((x b).failed = false → (x b).paused = false → (x b).up = true →
                sends (f.sends.map (fun y => if y.id = d.id then { y with st := 1, fibre := b } else y)))))) ∧
      (sendBlocked s d = false → d.loopb = true → d.poison = false → op = 0 →
        ∀ w, f.rxwin.get none d.win = some w → w.off = false → w.bound = false → w.base.toNat < 0x10000000000 → o + 128 ≤ 2 ^ w.z →
          let a := w.base.toNat + o
          a % 128 = 0 → a + 128 ≤ 2 ^ 60 → en.Nodup → (∀ i ∈ en, i < 128) →
          (arrivalHeld s d.win o = true → waits) ∧ (arrivalHeld s d.win o = false →
          ∃ t, exec (.packetLaunch d.id) s = .next t ∧ (∀ i ∈ en, memRead t 0 (a + i) = bs.getD i 0) ∧
            MemoryKeptBut (en.map (a + ·)) s t ∧ t.cores = s.cores ∧
            t.fabric = { f with sends := f.sends.filter (fun y => y.id ≠ d.id) })))) ∧
  (∀ (s : State) (b : Bulk) (m : TxMap) (win fb : Nat),
      let f := s.fabric
      let put (y : Bulk) : List Bulk := f.bulks.map (fun z => if z.id = b.id then y else z)
      f.sends.find? (fun y => y.id = b.id ∧ y.st = 0) = none → f.bulks.find? (fun y => y.id = b.id ∧ y.queued ∧ y.lines ≠ 0 ∧ y.st = 0) = some b →
      (f.queue b.dev).head?.map (·.id) = some b.id → (∀ y ∈ f.sends, y.dev = b.dev → y.st ≠ 0) →
      (∀ y ∈ f.bulks, y.queued = false → y.lines ≠ 0 → y.st = 0 → ∀ z ∈ y.ver.dests, z.1 ≠ b.dev) →
      let o := match f.txmap.get none b.idx with
        | some m => if m.ctx = b.ctx ∧ m.w ≤ b.t ∧ b.t < m.w + 2 ^ m.z then b.t - m.w else b.t - b.w
        | none => b.t - b.w
      let drains := f.quiesce = false ∧ f.retraining = false ∧ (b.dev = f.devid.toNat ∨ (f.slotMode = false ∧ f.paths b.dev = []) ∨
        (∃ p, f.pathFor b.dev o = some p ∧ let y := f.fibres.get {} p; y.failed = true ∨ (y.paused = false ∧ y.up = true)) ∧
          f.budgetLeft s.ftime b.dev 128 = true)
      let ends : Prop := copyFor s b.dev = false →
        (drains → exec (.packetLaunch b.id) s = .next { s with fabric := { f with bulks := put { b with st := 3 } } }) ∧
        (¬drains → exec (.packetLaunch b.id) s = .next s)
      (copyFor s b.dev = true → exec (.packetLaunch b.id) s = .next s) ∧
      (f.txmap.get none b.idx = none → ends) ∧
      (f.txmap.get none b.idx = some m → (m.ctx ≠ b.ctx ∨ m.loop = true ∨ m.dests.map (·.1) ≠ [b.dev] ∨ b.t < m.w ∨
        m.w + 2 ^ m.z < b.t + 128 * b.lines) → ends) ∧
      (f.txmap.get none b.idx = some m → m.ctx = b.ctx → m.loop = false → m.dests = [(b.dev, win)] → m.w ≤ b.t → b.t + 128 * b.lines ≤ m.w + 2 ^ m.z →
        copyFor s b.dev = false → b.dev ≠ f.devid.toNat → s.poison.get false (b.src / 128) = false → f.quiesce = false → f.retraining = false → f.member b.dev = true →
        f.seal_ = false → f.slotMode = false → f.pathFor b.dev (b.t - m.w) = some fb → (f.fibres.get {} fb).failed = false →
        (f.fibres.get {} fb).paused = false → (f.fibres.get {} fb).up = true →
        exec (.packetLaunch b.id) s = .next { s with nextId := s.nextId + 1, fabric := { f with
          bulks := (put { b with src := b.src + 128, t := b.t + 128, w := m.w, lines := b.lines - 1 }).filter (fun y => y.lines ≠ 0 ∨ y.st = 3)
          sends := f.sends ++ [{ id := s.nextId, acc := b.id, core := b.core, eng := 4, owner := b.owner, ctx := b.ctx, cls := m.cls,
                                 dev := b.dev, win := win, st := 1, fibre := fb, bulk := true,
                                 load := .line (b.t - m.w) m.op (List.range 128) ((List.range 128).map (fun i => loadByte s b.core .f 0 (b.src + i))) }] } })) ∧
  (∀ (s : State) (d : Send) (o op st b : Nat) (en : List Nat) (bs : List Byte) (sealed auth : Bool),
      let f := s.fabric
      let x := f.fibres.get {} d.fibre
      let onFibre (y : Send) : Prop := y.st = 1 ∧ y.fibre = d.fibre ∧ y.loopb = false
      let deaf := (f.fibres.get {} b).paused = true ∨ (f.fibres.get {} b).up = false
      let ack : Instr := .acknowledgementArrival d.id ⟨f.devid.toNat, st, sealed, auth, b⟩
      let admits : Prop := if f.seal_ then sealed = true ∧ auth = true ∧
          ∃ k, 448 ≤ k ∧ k < 512 ∧ keyValid s k = true ∧ (f.lkey.get {} k).peer.toNat = d.dev
        else sealed = false
      let acked (y : Send) : Bool := (y.load.isAck || y.fwd.isSome) && decide (y.st = 1) && decide (y.fibre = d.fibre) && decide (y.id < d.id)
      let resent (k : Nat) (g : Fibre) : State := { s with fabric := { f with
        nretry := min (f.nretry + 1) 0xFFFF
        fibres := if g = x then f.fibres else f.fibres.set {} d.fibre g
        sends := f.sends.map (fun y => if y.id = d.id then { y with resends := y.resends + k } else y) } }
      let fails (i : Instr) : Prop := (∀ y ∈ f.sends, onFibre y → y.fwd = none ∧ ∃ o op en bs, y.load = .line o op en bs) → ∃ t, exec i s = .next t ∧
        (t.fabric.fibres.get {} d.fibre).failed = true ∧ (t.fabric.fibres.get {} d.fibre).up = false ∧
        ∀ y ∈ f.sends, onFibre y → { y with st := 3, status := 2 } ∈ t.fabric.sends
      (d.load = .line o op en bs → f.sends.find? (fun y => y.id = d.id ∧ y.st = 1 ∧ y.load.isAck = false ∧ y.fwd = none) = some d →
        (deaf → exec ack s = .next s) ∧
        (¬deaf → admits → x.deafAt = none →
          let known := if st = 0 then f.sends.filter (fun y => y.id ≠ d.id)
            else f.sends.map (fun y => if y.id = d.id then { y with st := 3, status := st } else y)
          exec ack s =
            .next { s with fabric := { f with sends := known.filter (fun y => !acked y) } }) ∧
        (¬deaf → ¬admits → exec ack s =
          .next { s with fabric := { f with nrefused := min (f.nrefused + 1) 0xFFFF } })) ∧
      (f.sends.find? (fun y => y.id = d.id ∧ y.st = 1 ∧ y.loopb = false) = some d →
        (d.resends < 15 → exec (.packetResend ⟨d.id, false⟩) s = .next (resent 1 { x with deafAt := none })) ∧
        (15 ≤ d.resends → fails (.packetResend ⟨d.id, false⟩)) ∧
        (x.deafAt = none → exec (.packetResend ⟨d.id, true⟩) s = .next (resent 0 { x with deafAt := some s.ftime })) ∧
        (∀ t, x.deafAt = some t → (s.ftime ≤ t + 10000000 → exec (.packetResend ⟨d.id, true⟩) s = .next (resent 0 x)) ∧
          (t + 10000000 < s.ftime → fails (.packetResend ⟨d.id, true⟩)))) ∧
      (∀ k, k ≠ f.devid.toNat → let other : Instr := .acknowledgementArrival d.id ⟨k, st, sealed, auth, b⟩
        (deaf → exec other s = .next s) ∧
        (¬deaf → ∃ t src, exec other s = .next t ∧ t = { s with nextId := s.nextId + 1, fabric := { f with sends := f.sends ++ [
          { id := s.nextId, acc := s.nextId, core := 0xFF, eng := 7, owner := (0, 0), ctx := 0, cls := 0, dev := k, win := 0, load := .ack st, fwd := some (src, b) }] } })) ∧
      (deaf → exec (.reservedPacket ⟨o, b⟩) s = .next s) ∧
      (¬deaf → exec (.reservedPacket ⟨o, b⟩) s = .next { s with fabric := { f with ndrop := min (f.ndrop + 1) 0xFFFF } }) ∧
      exec (.packetCrcFailure b) s = .next s) ∧
  (∀ (s : State) (r : BitVec 5) (p : BitVec 3) (m : BitVec 16) (n : Nat),
      let c := s.core n
      let mine (core : Nat) (owner : Nat × Nat) (cls : Nat) : Prop := core = n ∧ owner = c.owner ∧ m.getLsbD cls = true
      let bad (z : Nat) : List (Nat × Nat × Nat × Nat) :=
        (s.fabric.sends.filter (fun d => d.core = n ∧ d.owner = c.owner ∧ m.getLsbD d.cls ∧ d.st = 3)).map (fun d =>
          (d.acc, d.status, d.dev, d.win)) ++
        s.fabric.reds.filterMap (fun r => r.part.bind (fun p =>
          if p.core = n ∧ p.owner = c.owner ∧ m.getLsbD p.cls ∧ p.bad ≠ 0 ∧ p.told = false then
            some (p.acc, p.bad, p.badDev, r.win) else none)) ++
        (s.fabric.bulks.filter (fun b => b.core = n ∧ b.owner = c.owner ∧ m.getLsbD b.cls ∧ b.st = 3)).map (fun b => (b.id, 6, b.dev, z))
      let cut := ∃ x k, c.stopReq = some x ∧ x.k = some k ∧ ∃ e ∈ team n, k.toNat ≤ (c.seq e).cc.toNat
      let there := (n = 128 → c.halted = false ∧ c.fwHandler = false) ∧ c.mode = .run ∧ c.active = true ∧ c.trapPend = none ∧ c.abandon = none ∧ c.copyStalled = false ∧
        (∀ e ∈ team n, (c.seq e).ended = false) ∧
        (∀ e ∈ team n, (c.seqs.get {} e.tag).wait.any (fun w => w.kind = .rfence) = true ∧ (c.seqs.get {} e.tag).pc = (c.seqs.get {} 0).pc) ∧
        decode (wordAt s n (c.seqs.get {} 0).pc) = .ok (.rfence r p m)
      let does (st : Nat) (w : W64) : Prop := ∃ t, exec (.rfenceComplete n) s = .next t ∧ (t.core n).rfstat = w ∧
        (∀ k, k < 32 → (t.core n).s k = if k = 0 then 0 else if k = r.toNat then BitVec.ofNat 64 st else c.s k) ∧
        (∀ e ∈ team n, let q := c.seq e; ((t.core n).seq e).pc = q.pc + 1 ∧ ((t.core n).seq e).wc = q.wc + 1 ∧
          ((t.core n).seq e).cc = q.cc + 1 ∧ ((t.core n).seq e).wait = none) ∧ (∀ k, k ≠ n → t.core k = s.core k) ∧ MemoryKept s t ∧
        t.fabric.sends = s.fabric.sends.filter (fun d => !(decide (d.core = n) && decide (d.owner = c.owner) && m.getLsbD d.cls)) ∧
        t.fabric.bulks = s.fabric.bulks.filter (fun d => !(decide (d.core = n) && decide (d.owner = c.owner) && m.getLsbD d.cls))
      let elsewhere := ∃ p ∈ team s.curCore, p ≠ s.curEng ∧ (s.me.seq p).wait.any (fun w => w.kind = .rfence) = true ∧
        (s.me.seq p).cc = s.q.cc ∧ (s.me.seq p).pc ≠ s.q.pc
      (s.me.mode = .run → elsewhere → Traps (.rfence r p m) s 1 s.wordVal) ∧
      (s.me.mode = .run → s.me.replay = [] → ¬elsewhere →
        (∀ a, s.me.cwRec[s.q.cc.toNat - s.me.cwBase]? = some a → a = s.q.pc) →
        (∀ p ∈ team s.curCore, (s.me.seq p).ended = false →
          s.q.cc.toNat + 1 ≤ (s.me.seq p).cc.toNat - (s.me.seq p).unpassed.length + s.me.slipw.toNat) → Waits (.rfence r p m) s .rfence) ∧
      (n ≠ 128 → c.mode = .run → cut → exec (.rfenceComplete n) s = .next s) ∧
      (there → (∃ d ∈ s.fabric.sends, mine d.core d.owner d.cls ∧ d.st < 2) → exec (.rfenceComplete n) s = .next s) ∧
      (there → (∀ x, c.stopReq = some x → x.cut = false ∧ ∀ k, x.k = some k → ∀ e ∈ team n, (c.seq e).cc.toNat < k.toNat) →
        fenceOpen s n m = false → ∃ z, z < 1024 ∧ (bad z = [] → does 0 0) ∧
        (∀ a st dev win, (a, st, dev, win) ∈ bad z → (∀ y ∈ bad z, y ≠ (a, st, dev, win) → a < y.1) → does st
          (BitVec.ofNat 64 (st + 2 ^ 16 * dev + 2 ^ 32 * win + 2 ^ 48 * min (bad z).length 0xFFFF)))))

/-- The maps of the fabric and its state (R265, R269, R286–R288, R291). WMAPW reads a record of 128 bytes: it writes the entry and
gives 0, gives 1 where the window overlaps another entry of the context and 2 where the entry is another context's, and then
writes nothing; 1 before 2 where both hold, and a count of 0 or RXWW's size of 0, which release the entry whatever the record's other bytes, are the
model's readings (log 49); a record that breaks a rule traps 0x0001. WMAPR stores the current version of an
own entry, or zeros, to own scratchpad, and elsewhere traps 0x0006; its trap 0x0001 at an index above 1,023 is the model's choice (log 90). RXWW writes a receive window of main memory or of a scratchpad's shared units, gives 1 for another
context's window and 2 for units that another context has; the model notes its units as last this context's (log 19), and
a window that a recomputation has made invalid counts as its writer's still, so that another context gets 1: the model's choice
(log 90). FGRP, FPATH and FQST read membership, paths and queues; a device above
4,095 traps 0x0001. -/
def Obligations.FabricMaps : Prop :=
  (∀ (s : State) (g : BitVec 4) (a kw : W64) (r : List W64) (loc w z op cls lw : Nat) (loop : Bool) (ds : List (Nat × Nat)),
      let k := kw.toNat
      let fields (m : TxMap) (n : Nat) : List Byte := leBytes 8 m.w ++ leBytes 1 m.z ++ leBytes 1 n ++
        leBytes 2 ((if m.loop then 1 else 0) + 2 * m.op + 2 ^ 8 * m.cls) ++ leBytes 2 m.loopWin ++ leBytes 2 0 ++
        (List.range 16).flatMap (fun i => leBytes 4 (match m.dests[i]? with
          | some d => d.1 + 2 ^ 12 * d.2
          | none => 0)) ++ leBytes 48 0
      let m : TxMap := { ctx := s.ctxNow, w := w, z := z, loop := loop, op := op, cls := cls, loopWin := lw, dests := ds }
      let old := s.fabric.txmap.get none k
      let answers (v : W64) (f : State → Prop) : Prop :=
        ∃ t, exec (.wmapw g) s = .next t ∧ Completes (s.q.pc + 1) s t ∧ StackIs s t r ∧ OnFabric [.stack, .g] s t ∧ MemoryKept s t ∧
          WritesG s t g v ∧ f t
      let writes (e : Option TxMap) : Prop := answers 0 (fun t => t.fabric = { s.fabric with txmap := t.fabric.txmap } ∧
        ∀ j, t.fabric.txmap.get none j = if j = k then e else s.fabric.txmap.get none j)
      Unhindered s → s.stk = a :: kw :: r →
      (1023 < k → Traps (.wmapw g) s 1 s.wordVal ∧ Traps (.wmapr g) s 1 s.wordVal) ∧
      (k ≤ 1023 → a.toNat % 128 = 0 → ownBytes s < a.toNat + 128 → Traps (.wmapr g) s 6 a) ∧
      (k ≤ 1023 → a.toNat % 128 = 0 → OwnAt s a.toNat 128 loc →
        (Clean s loc 128 → w < 2 ^ 64 → z < 256 → op < 8 → cls < 16 → lw < 2 ^ 16 → ds.length ≤ 16 → (∀ d ∈ ds, d.1 < 4096 ∧ d.2 < 1024) →
          Holds s 0 loc (fields m ds.length) →
          let valid := 7 ≤ z ∧ z ≤ 32 ∧ w % 2 ^ z = 0 ∧ w + 2 ^ z ≤ 2 ^ 32 ∧ op ≤ 4 ∧ lw ≤ 1023 ∧ (loop = false → lw = 0)
          let meets := ∃ j y, (j, some y) ∈ s.fabric.txmap.entries ∧ j ≠ k ∧ y.ctx = s.ctxNow ∧ y.w < w + 2 ^ z ∧ w < y.w + 2 ^ y.z
          (ds ≠ [] → valid → meets → answers 1 (fun t => t.fabric = s.fabric)) ∧
          (ds ≠ [] → valid → ¬meets → (∃ y, old = some y ∧ y.ctx ≠ s.ctxNow) → answers 2 (fun t => t.fabric = s.fabric)) ∧
          (ds ≠ [] → valid → ¬meets → (∀ y, old = some y → y.ctx = s.ctxNow) → writes (some m)) ∧
          (ds ≠ [] → ¬valid → Traps (.wmapw g) s 1 s.wordVal) ∧
          (ds = [] → (∀ y, old = some y → y.ctx = s.ctxNow) → writes none)) ∧
        ∃ t, exec (.wmapr g) s = .next t ∧ Completes (s.q.pc + 1) s t ∧ StackIs s t r ∧ Accesses [.stack, .g, .rings] s t ∧ RingsKept s t ∧
          (∀ y, old = some y → y.ctx = s.ctxNow → WritesG s t g 1 ∧ Holds t 0 loc (fields y y.dests.length)) ∧
          ((∀ y, old = some y → y.ctx ≠ s.ctxNow) → WritesG s t g 0 ∧ ∀ i, i < 128 → memRead t 0 (loc + i) = 0) ∧
          MemoryKeptBut ((List.range 128).map (loc + ·)) s t)) ∧
  (∀ (s : State) (g : BitVec 4) (a kw : W64) (r : List W64) (loc b z ring fl : Nat),
      let k := kw.toNat
      let bound := decide (fl % 2 = 1)
      let w : RxWin := { ctx := s.ctxNow, base := BitVec.ofNat 64 b, z := z, bound := bound, groupOnly := decide (fl / 2 = 1), ring := ring }
      let old := s.fabric.rxwin.get none k
      let own := ∀ y, old = some y → y.ctx = s.ctxNow
      let main := 0x10000000000 ≤ b ∧ b + 2 ^ z ≤ 0x10000000000000 ∧ bound = false
      let pad := 0x100000000 ≤ b ∧ b < 0x100000000 + 128 * 0x400000 ∧ (b - 0x100000000) % 0x400000 + 2 ^ z ≤ (63 - s.tasks.cl0Part) * 0x10000
      let valid := 7 ≤ z ∧ z ≤ 39 ∧ b % 128 = 0 ∧ ring < 256 ∧ (bound = false → ring = 0) ∧ (main ∨ pad)
      let answers (v : W64) (f : State → Prop) : Prop :=
        ∃ t, exec (.rxww g) s = .next t ∧ Completes (s.q.pc + 1) s t ∧ StackIs s t r ∧ OnFabric [.stack, .g] { s with unitLast := t.unitLast } t ∧
          MemoryKept s t ∧ WritesG s t g v ∧ f t
      let holds (j : Nat) : Prop := pad ∧ b / 0x10000 ≤ j + 0x10000 ∧ j + 0x10000 < (b + 2 ^ z + 0xFFFF) / 0x10000
      let writes (e : Option RxWin) (l : Nat → Nat) : Prop := answers 0 (fun t => t.fabric = { s.fabric with rxwin := t.fabric.rxwin } ∧
        (∀ j, t.fabric.rxwin.get none j = if j = k then e else s.fabric.rxwin.get none j) ∧ ∀ j, t.unitLast.get 0 j = l j)
      let kept (j : Nat) : Nat := s.unitLast.get 0 j
      Unhindered s → s.stk = a :: kw :: r → k ≤ 1023 → a.toNat % 32 = 0 → OwnAt s a.toNat 32 loc → Clean s loc 32 → b < 2 ^ 64 → z < 256 →
      fl < 4 → ring < 2 ^ 16 → Holds s 0 loc (leBytes 8 b ++ leBytes 1 z ++ leBytes 1 fl ++ leBytes 2 ring ++ leBytes 20 0) →
      (z ≠ 0 → ¬valid → Traps (.rxww g) s 1 s.wordVal) ∧
      (valid → ¬own → answers 1 (fun t => t.fabric = s.fabric ∧ t.unitLast = s.unitLast)) ∧
      (valid → own → rxTaken s s.ctxNow k w = true → answers 2 (fun t => t.fabric = s.fabric ∧ t.unitLast = s.unitLast)) ∧
      (valid → own → rxTaken s s.ctxNow k w = false → writes (some w) (fun j => if holds j then s.ctxNow + 1 else kept j)) ∧
      (z = 0 → own → writes none kept)) ∧
  (∀ (s : State) (g : BitVec 4) (dw jw : W64) (r : List W64),
      let d := dw.toNat
      let f := s.fabric
      let q := s.fabric.bulks.filter (fun b => b.queued ∧ b.dev = d ∧ b.lines ≠ 0 ∧ b.st = 0)
      let reads (i : Instr) (l : List W64) (h : W64 → Prop) : Prop :=
        ∃ t v, exec i s = .next t ∧ Completes (s.q.pc + 1) s t ∧ StackIs s t l ∧ Confined [.stack, .g] s t ∧ MemoryKept s t ∧ WritesG s t g v ∧
          h v
      (s.stk = dw :: jw :: r →
        (4095 < d → ∀ i ∈ [Instr.fgrp g, .fpath g, .fqst g], Traps i s 1 s.wordVal) ∧
        (d ≤ 4095 →
          ((f.paths d).length < 64 → (f.forwarder d).getD 0 < 4096 → reads (.fgrp g) (jw :: r) (fun v => v.getLsbD 0 = f.member d ∧
            v.getLsbD 1 = f.isDirect d ∧ v.extractLsb' 2 6 = BitVec.ofNat 6 (f.paths d).length ∧
            v.extractLsb' 8 12 = BitVec.ofNat 12 ((f.forwarder d).getD 0) ∧ v.extractLsb' 32 32 = f.epoch)) ∧
          (∀ b, f.member d = true → (f.paths d)[jw.toNat]? = some b → b < 64 → reads (.fpath g) r (fun v =>
            v.extractLsb' 0 6 = BitVec.ofNat 6 b ∧ v.getLsbD 6 = (f.fibres.get {} b).up ∧ v.getLsbD 7 = (f.fibres.get {} b).paused ∧
            v.extractLsb' 32 32 = BitVec.ofNat 32 (f.fibres.get {} b).nretrain)) ∧
          (f.member d = false ∨ (f.paths d).length ≤ jw.toNat → reads (.fpath g) r (fun v => v = 0)) ∧
          (q.length < 2 ^ 16 → reads (.fqst g) (jw :: r) (fun v => v.extractLsb' 0 16 = BitVec.ofNat 16 q.length ∧
            v.extractLsb' 16 32 = BitVec.ofNat 32 ((q.map (·.lines)).foldl (· + ·) 0))))))

/-- Arrivals (R61, R241, R256, R258, R270–R272, R278, R294): a line is written at its offset of the window under its byte enables, or
combined element by element, and counted toward its slot where the window is bound to a ring. In main memory it is translated under the
window's context: absent, or without W, it is refused and logged, and else it is written under the page's key. One without a window, beyond it,
with part of an element, or for a full slot is refused and counted, and so is an unsealed packet on a sealing device; a fibre that
is paused or untrained hears nothing. A packet for another device is queued to be passed on as it came, with nothing written or checked
here (R259, log 90). Another packet that has been dealt with is answered: an acknowledgement with its status waits to leave
(log 80). A reduction partial is held, the context's eight places permitting; the one that the climb
waits for is combined, and the value at the root goes to every participant. A result fills the participation's slot and ends it. A
reduction packet that is refused fails a participation in flight with its status (R388), and one that sealing refuses before that is kept
for the participation that is still to come (log 47). An accumulate op leaves a poisoned line poisoned, as a read-modify-write of each
element does (R164). That the enabled bytes alone count toward a slot, and that an arrival in main memory is translated by a walk
of its own, never by a cached translation, are the model's readings (log 51). -/
def Obligations.FabricArrivals : Prop :=
  (∀ (s : State) (p : Arrival) (w : RxWin),
      let f := s.fabric
      let en := p.enables.getD (List.range 128)
      let o := 128 * p.line
      let a := w.base.toNat + o
      let old (k : Nat) : Word := BitVec.ofNat 32 (readNat s 0 (a + 4 * k) 4)
      let new (k : Nat) : Word := BitVec.ofNat 32 (leNat ((p.bytes.drop (4 * k)).take 4))
      let joined (k : Nat) : Word := match p.op with
        | 1 => encF32 (rne (fadd (f32 (old k)) (f32 (new k))))
        | 2 => old k + new k
        | 3 => encF32 (fmax (f32 (old k)) (f32 (new k)))
        | _ => old k ||| new k
      let fresh := p.op = 0 ∧ ∀ i, i < 128 → i ∈ en
      let whole := ∀ k, k < 32 → (∀ i, i < 4 → 4 * k + i ∈ en) ∨ ∀ i, i < 4 → 4 * k + i ∉ en
      let ack (st : Nat) : Send := { id := s.nextId, acc := s.nextId, core := 0xFF, eng := 7, owner := (0, 0), ctx := 0, cls := 0, dev := p.src
                                     win := 0, load := .ack st }
      let answer (st : Nat) : List Send := f.sends ++ [ack st]
      let refused (st : Nat) : Prop := exec (.lineArrival p) s = .next { s with nextId := s.nextId + 1, fabric := { f with
        nrefused := min (f.nrefused + 1) 0xFFFF, sends := answer st } }
      let admits : Prop := if f.seal_ then p.isSealed = true ∧ p.authOk = true ∧
          ∃ k, 448 ≤ k ∧ k < 512 ∧ keyValid s k = true ∧ (f.lkey.get {} k).peer.toNat = p.src
        else p.isSealed = false
      let written (t : State) : Prop := exec (.lineArrival p) s = .next t ∧ MemoryKeptBut (en.map (a + ·)) s t ∧
        t = { s with cores := t.cores, mem := t.mem, lineKey := t.lineKey, poison := t.poison, nextId := s.nextId + 1, fabric := t.fabric } ∧
        t.fabric = { f with sends := answer 0 } ∧
        t.poison.get false (a / 128) = (p.poison || (s.poison.get false (a / 128) && !decide fresh)) ∧
        (∀ k, k ≠ a / 128 → t.poison.get false k = s.poison.get false k) ∧
        (p.op = 0 → ∀ i ∈ en, memRead t 0 (a + i) = p.bytes.getD i 0) ∧
        (p.op ≠ 0 → ∀ i ∈ en, memRead t 0 (a + i) = (joined (i / 4)).extractLsb' (8 * (i % 4)) 8)
      ((f.fibres.get {} p.fibre).paused = true ∨ (f.fibres.get {} p.fibre).up = false → exec (.lineArrival p) s = .next s) ∧
      ((f.fibres.get {} p.fibre).paused = false → (f.fibres.get {} p.fibre).up = true → p.dest ≠ f.devid.toNat →
        exec (.lineArrival p) s = .next { s with nextId := s.nextId + 1, fabric := { f with sends := f.sends ++ [
          { id := s.nextId, acc := s.nextId, core := 0xFF, eng := 7, owner := (0, 0), ctx := 0, cls := 0, dev := p.dest, win := p.win, poison := p.poison, load := .line o p.op en p.bytes, fwd := some (p.src, p.fibre) }] } }) ∧
      ((f.fibres.get {} p.fibre).paused = false → (f.fibres.get {} p.fibre).up = true → p.dest = f.devid.toNat →
        (¬admits → refused 4) ∧
        (admits → arrivalHeld s p.win o = true → exec (.lineArrival p) s = .next s) ∧
        (admits → arrivalHeld s p.win o = false →
          (f.rxwin.get none p.win = none → refused 3) ∧
          (f.rxwin.get none p.win = some w → (w.off = true → refused 3) ∧ (w.off = false → 2 ^ w.z < o + 128 → refused 3)) ∧
          (f.rxwin.get none p.win = some w → w.off = false → w.bound = false → 0x10000000000 ≤ w.base.toNat → o + 128 ≤ 2 ^ w.z →
            let faulted : Prop := ∃ t, exec (.lineArrival p) s = .next t ∧ MemoryKept s t ∧
              t = { s with nextId := s.nextId + 1, plinth := t.plinth, fabric := { f with
                nrefused := min (f.nrefused + 1) 0xFFFF, sends := answer 3 } } ∧ t.plinth.butLog = s.plinth.butLog ∧
              Logged s t 7 0xFF 0 0xFFFF (BitVec.ofNat 64 o) (BitVec.ofNat 64 (p.src + 2 ^ 16 * p.win))
            (walk s w.ctx a = none → faulted) ∧
            ∀ e, walk s w.ctx a = some e → (e.w = false → faulted) ∧ (e.w = true →
              let q := e.place s a
              (p.op ≠ 0 → mainBase ≤ q.1 → refused 4) ∧
              (p.op = 0 → q.2 ≠ deadKey → mainBase ≤ q.1 → q.1 % 128 = 0 → s.lineKey.get 0 (q.1 / 128) = q.2 + 1 → en.Nodup → (∀ i ∈ en, i < 128) →
                ∃ t, exec (.lineArrival p) s = .next t ∧ (∀ i ∈ en, memRead t q.2 (q.1 + i) = p.bytes.getD i 0) ∧
                  MemoryKeptBut (en.map (q.1 + ·)) s t ∧ (p.poison = true → t.poison.get false (q.1 / 128) = true) ∧
                  t = { s with mem := t.mem, lineKey := t.lineKey, poison := t.poison, nextId := s.nextId + 1, fabric := { f with sends := answer 0 } }))) ∧
          (f.rxwin.get none p.win = some w → w.off = false → w.base.toNat < 0x10000000000 → o + 128 ≤ 2 ^ w.z → a % 128 = 0 → a + 128 ≤ 2 ^ 60 →
            en.Nodup → (∀ i ∈ en, i < 128) → p.op ≤ 4 →
            (w.bound = false → p.op ≠ 0 → ¬whole → refused 4) ∧
            (w.bound = false → p.op = 0 ∨ whole → ∃ t, written t ∧ t.cores = s.cores) ∧
            (∀ i j, w.bound = true →
              let n := (w.base.toNat - 0x100000000) / 0x400000
              let c := s.core n
              let r := c.rings.get {} w.ring
              let x := r.slot j
              c.inst = some i → i.ctx = w.ctx → r.valid = true → r.fabric = true → slotOfLine n i r a = some j →
              (2 ≤ x.tag → refused 4) ∧
              (p.op = 0 ∨ whole → x.tag < 2 → (x.tag = 1 → x.a + en.length ≤ x.x) → (x.tag = 0 → en.length ≤ r.size) → ∃ t, written t ∧
                let y := ((t.core n).rings.get {} w.ring).slot j
                let x1 := if x.tag = 0 then r.size else x.x
                let a1 := (if x.tag = 0 then 0 else x.a) + en.length
                y.x = x1 ∧ y.a = a1 ∧ y.err = x.err ∧ y.tag = (if x1 ≤ a1 then 2 else 1) ∧ (∀ k, k ≠ j → ((t.core n).rings.get {} w.ring).slot k = r.slot k) ∧
                ∀ k, k ≠ n → t.core k = s.core k)))))) ∧
  (∀ (s : State) (p : RedArrival),
      let f := s.fabric
      let admits : Prop := if f.seal_ then p.isSealed = true ∧ p.authOk = true ∧
          ∃ k, 448 ≤ k ∧ k < 512 ∧ keyValid s k = true ∧ (f.lkey.get {} k).peer.toNat = p.src
        else p.isSealed = false
      let ack (st id : Nat) : Send := { id := id, acc := id, core := 0xFF, eng := 7, owner := (0, 0), ctx := 0, cls := 0, dev := p.src
                                        win := 0, load := .ack st }
      let refused (i : Instr) (st : Nat) : Prop := exec i s = .next { s with nextId := s.nextId + 1, fabric := { f with
        nrefused := min (f.nrefused + 1) 0xFFFF, sends := f.sends ++ [ack st s.nextId] } }
      let kept : List (Nat × Nat × Nat) :=
        if (p.win, p.seq8) ∈ f.gone ∨ (∃ e ∈ f.refused, e.1 = p.win ∧ e.2.1 = p.seq8 ∧ e.2.2 ≠ 0) then f.refused
        else f.refused ++ [(p.win, p.seq8, 4)]
      let unsealed (i : Instr) : Prop := exec i s = .next { s with nextId := s.nextId + 1, fabric := { f with
        nrefused := min (f.nrefused + 1) 0xFFFF, refused := kept, sends := f.sends ++ [ack 4 s.nextId] } }
      let holds (l : List Red) : Prop := exec (.reductionPartialArrival p) s = .next { s with nextId := s.nextId + 1, fabric := { f with
        reds := l, sends := f.sends ++ [ack 0 s.nextId] } }
      let fails (i : Instr) (st : Nat) (r : Red) (x : Part) : Prop := x.bad = 0 → x.told = false → ∃ t, exec i s = .next t ∧
        t = { s with nextId := s.nextId + 1, fabric := t.fabric } ∧
        t.fabric = { f with nrefused := min (f.nrefused + 1) 0xFFFF, reds := t.fabric.reds, gone := t.fabric.gone, refused := t.fabric.refused,
                             sends := t.fabric.sends } ∧ (∀ e, e.1 ≠ p.win ∨ e.2.1 ≠ p.seq8 → (e ∈ t.fabric.refused ↔ e ∈ f.refused)) ∧
        ((x.ended = false ∨ x.got < x.v.length / 32 ∧ ∃ d ∈ f.sends, d.acc = x.acc) →
          t.fabric.red? p.win p.seq8 = some { r with part := some { x with bad := st, badDev := f.devid.toNat } } ∧
          t.fabric.sends = f.sends ++ [ack st s.nextId]) ∧
        (x.ended = true → (∀ d ∈ f.sends, d.acc ≠ x.acc) → t.fabric.red? p.win p.seq8 = none ∧
          t.fabric.sends = f.sends ++ [x.failure p.win st f.devid.toNat, ack st s.nextId])
      let part : Instr := .reductionPartialArrival p
      let res : Instr := .reductionResultArrival p
      let red := f.reds.find? (fun r => r.win = p.win ∧ r.seq = p.seq8)
      let entry := ((p.level, p.pos, p.line), p.ws)
      ((f.fibres.get {} p.fibre).paused = true ∨ (f.fibres.get {} p.fibre).up = false → exec part s = .next s ∧ exec res s = .next s) ∧
      ((f.fibres.get {} p.fibre).paused = false → (f.fibres.get {} p.fibre).up = true → p.dest ≠ f.devid.toNat →
        let on (i : Instr) (l : Payload) : Prop := exec i s = .next { s with nextId := s.nextId + 1, fabric := { f with sends := f.sends ++ [
          { id := s.nextId, acc := s.nextId, core := 0xFF, eng := 7, owner := (0, 0), ctx := 0, cls := 0, dev := p.dest, win := p.win, load := l, fwd := some (p.src, p.fibre) }] } }
        on part (.partial_ p.seq8 p.level p.pos p.line p.ws) ∧ on res (.result p.seq8 p.line p.ws)) ∧
      (p.dest = f.devid.toNat → (f.fibres.get {} p.fibre).paused = false → (f.fibres.get {} p.fibre).up = true → ¬admits →
        ((∀ e ∈ f.refused, e.2.2 ≠ 0) → red = none ∨ (∃ r, red = some r ∧ r.part = none) → unsealed part ∧ unsealed res) ∧
        ∀ r x, red = some r → r.part = some x → fails part 4 r x ∧ fails res 4 r x) ∧
      (p.dest = f.devid.toNat → (f.fibres.get {} p.fibre).paused = false → (f.fibres.get {} p.fibre).up = true → admits →
        (red = none → (p.win, p.seq8) ∈ f.gone → refused part 3) ∧
        (arrivalHeld s p.win (128 * p.line) = true → exec res s = .next s) ∧
        ((p.win, p.seq8) ∉ f.gone →
          (red = none → 8 ≤ f.reds.length → exec part s = .next s) ∧
          (red = none → f.reds.length < 8 → 
            holds (f.reds ++ [{ win := p.win, seq := p.seq8, partials := [entry], senders := [p.src] }])) ∧
          (∀ r, red = some r → r.part = none → holds (f.reds.map (fun x => if x.win = p.win ∧ x.seq = p.seq8 then
              { r with partials := r.partials ++ [entry], senders := if p.src ∈ r.senders then r.senders else r.senders ++ [p.src] }
            else x))) ∧
          (∀ r x, red = some r → r.part = some x → x.ended = true → fails part 3 r x) ∧
          (∀ r x d, red = some r → r.part = some x → x.ended = false → r.partials = [] → x.level = 11 → x.pos = 0 → x.v.length = 32 →
            x.combiner 11 1 = some d → p.level = 11 → p.pos = 1 → p.line = 0 → p.ws.length = 32 → 1 ≤ x.op → x.op ≤ 4 →
            let v := List.zipWith (redOp x.op) x.v p.ws
            ∃ t new id, exec part s = .next t ∧ t.fabric.sends = f.sends ++ new ++ [ack 0 id] ∧
              new.map (fun d => (d.dev, d.win, d.cls, d.acc, d.load)) = x.devices.map (fun d => (d, p.win, x.cls, x.acc, Payload.result p.seq8 0 v)) ∧
              t = { s with fabric := { f with sends := t.fabric.sends, reds := t.fabric.reds }, nextId := t.nextId })) ∧
        (arrivalHeld s p.win (128 * p.line) = false → (red = none ∨ (∃ r, red = some r ∧ r.part = none) → refused res 3)) ∧
        (∀ w x i j rs ds, arrivalHeld s p.win 0 = false → f.rxwin.get none p.win = some w → red = some ⟨p.win, p.seq8, some x, rs, ds⟩ → x.ended = true → x.got = 0 → x.bad = 0 →
          x.v.length = 32 → p.line = 0 → p.ws.length = 32 → w.off = false → w.bound = true →
          w.base.toNat < 0x10000000000 → 7 ≤ w.z → w.base.toNat % 128 = 0 →
          let n := (w.base.toNat - 0x100000000) / 0x400000
          let r := (s.core n).rings.get {} w.ring
          (s.core n).inst = some i → i.ctx = w.ctx → r.valid = true → r.fabric = true → r.size = 128 →
          slotOfLine n i r w.base.toNat = some j → (r.slot j).tag = 0 →
          ∃ t, exec res s = .next t ∧ MemoryKeptBut ((List.range 128).map (w.base.toNat + ·)) s t ∧
            (∀ k, k < 32 → readNat t 0 (w.base.toNat + 4 * k) 4 = (p.ws.getD k 0).toNat) ∧
            (((t.core n).rings.get {} w.ring).slot j).tag = 2 ∧ t.fabric.sends = f.sends ++ [ack 0 s.nextId] ∧ t.fabric.nrefused = f.nrefused ∧
            t.fabric.reds = f.reds.filter (fun r => !(decide (r.win = p.win) && decide (r.seq = p.seq8))) ∧
            (p.win, p.seq8) ∈ t.fabric.gone)))

/-- Slots and reconfiguration (R258–R260, R262, R289–R291): FSLOTW writes a slot table entry, for an entry of the running rotation as the
version that its next slot takes up; FSLOTGO starts a rotation at least 1,000 ns ahead, or stops the running one at its end; both need
privilege or FAB_SLOTUSR, else they trap 0x0004. At its start time the device enters slot mode and the group is recomputed; slots
follow one another as their durations pass, each ending in its guard interval, and after the last slot of a stopped rotation the
device is alone, and versions that no slot has begun with stand for the next rotation. QUIESCE is set and cleared, and once the links
are trained the group is recomputed under a new epoch; no reduction with a participant outside the new group is left in flight. A fibre
that retrains by itself after a pause is trained alone (log 46). A version that takes a device out of the group abandons its reductions,
with no epoch (log 47), and FSLOTST's fields are 0 beside the count where no rotation runs (log 50): the model's readings. A rotation armed and not
yet at its start counts as not running (log 65). STAGE 0xF at the end of the training (log 61), and that a transmit fibre of no
phase circuit is not trained then, whatever slot's mask names it (log 90), are the model's choice. -/
def Obligations.SlotsAndGroup : Prop :=
  (∀ (s : State) (g : BitVec 4) (aw kw : W64) (r : List W64) (loc dur guard : Nat) (ds : List (Nat × Nat × BitVec 64)),
      let f := s.fabric
      let k := kw.toNat
      let usr := f.slotUsr
      let allowed := s.me.priv s.curCore = true ∨ (usr.getLsbD 6 = true ∧ (usr.extractLsb' 0 6).toNat = s.ctxNow)
      let entry : FSlot := { dur := dur, guard := guard, dests := ds }
      let valid := 1000 ≤ dur ∧ dur ≤ 1000000 ∧ 500 ≤ guard ∧ guard + 500 ≤ dur ∧ ds.Pairwise (fun x y => x.1 ≠ y.1 ∧ x.2.2 &&& y.2.2 = 0) ∧
        ∀ d ∈ ds, d.2.1 % 128 = 0 ∧ 1 ≤ (bitList d.2.2).length ∧ (bitList d.2.2).length ≤ 16
      let does (i : Instr) (h : State → Prop) : Prop := ∃ t, exec i s = .next t ∧ Completes (s.q.pc + 1) s t ∧ StackIs s t r ∧
        OnFabric [.stack] s t ∧ t.nextId = s.nextId ∧ MemoryKept s t ∧ h t
      let goes (x : Option Rotation) : Prop := does .fslotgo (fun t => t.fabric = { f with rot := x })
      let running := ∃ x, f.rot = some x ∧ x.running = true
      (s.stk = aw :: kw :: r →
      (¬allowed → ∀ i ∈ [Instr.fslotw, .fslotgo], Traps i s 4 s.wordVal) ∧
      (allowed → Unhindered s →
        (63 < k → Traps .fslotw s 1 s.wordVal) ∧
        (k ≤ 63 → aw.toNat % 16 = 0 → OwnAt s aw.toNat 272 loc → Clean s loc 272 → dur < 2 ^ 32 → guard < 2 ^ 32 → ds.length ≤ 16 →
          (∀ d ∈ ds, d.1 < 4096 ∧ d.2.1 < 2 ^ 32) →
          Holds s 0 loc (leBytes 4 dur ++ leBytes 4 guard ++ leBytes 1 ds.length ++ leBytes 7 0 ++ (List.range 16).flatMap (fun i =>
            match ds[i]? with
            | some d => leBytes 2 d.1 ++ leBytes 2 0 ++ leBytes 4 d.2.1 ++ leBytes 8 d.2.2.toNat
            | none => leBytes 16 0)) →
          (¬valid → Traps .fslotw s 1 s.wordVal) ∧
          (valid → (∀ x, f.rot = some x → x.running = true → x.count ≤ k) → does .fslotw (fun t =>
            t.fabric = { f with fslot := t.fabric.fslot, fslotNext := t.fabric.fslotNext } ∧
            ∀ j, t.fabric.fslot.get {} j = (if j = k then entry else f.fslot.get {} j) ∧
              t.fabric.fslotNext.get none j = if j = k then none else f.fslotNext.get none j)) ∧
          (∀ x, valid → f.rot = some x → x.running = true → k < x.count → does .fslotw (fun t =>
            t.fabric = { f with fslotNext := t.fabric.fslotNext } ∧
            ∀ j, t.fabric.fslotNext.get none j = if j = k then some entry else f.fslotNext.get none j)))) ∧
      (allowed →
        (64 < k → Traps .fslotgo s 1 s.wordVal) ∧
        (0 < k → k ≤ 64 → running ∨ aw.toNat < s.ftime + 1000 ∨ (∃ i, i < k ∧ (f.fslot.get {} i).dur = 0) → Traps .fslotgo s 1 s.wordVal) ∧
        (0 < k → k ≤ 64 → ¬running → s.ftime + 1000 ≤ aw.toNat → (∀ i, i < k → (f.fslot.get {} i).dur ≠ 0) →
          goes (some { start := aw.toNat, count := k })) ∧
        (∀ x, k = 0 → f.rot = some x → x.running = true → goes (some { x with stopping := true })) ∧
        (k = 0 → ¬running → goes f.rot))) ∧
      (∀ v : W64, (∀ x, f.rot = some x → x.running = true → x.cur < 64 ∧ v = BitVec.ofNat 64 (x.cur + 2 ^ 6 + (if x.inGuard then 2 ^ 7 else 0) +
          2 ^ 32 * f.rotsDone.toNat)) → (¬running → v = BitVec.ofNat 64 (2 ^ 32 * f.rotsDone.toNat)) → GivesG (.fslotst g) s g v)) ∧
  (∀ (s : State) (r : Rotation),
      let f := s.fabric
      let e := f.fslot.get {} r.cur
      let at_ := r.curStart + e.dur
      let steps (i : Instr) (h : Fabric → Prop) : Prop := ∃ t, exec i s = .next t ∧ t = { s with fabric := t.fabric } ∧ h t.fabric
      let takes (u : Fabric) (k : Nat) : Prop := u.fslotNext.get none k = none ∧
        ∀ j, u.fslot.get {} j = if j = k then (f.fslotNext.get none k).getD (f.fslot.get {} k) else f.fslot.get {} j
      let left (u : Fabric) : Prop := ∀ x ∈ u.reds, x ∈ f.reds ∧
        (∀ p, x.part = some p → ∀ d ∈ p.devices, u.member d = true) ∧ ∀ d ∈ x.senders, u.member d = true
      let regrouped (u : Fabric) : Prop := u.epoch = f.epoch + 1 ∧ left u ∧
        ∀ j, u.rxwin.get none j = (f.rxwin.get none j).map (fun w => { w with off := w.off || w.groupOnly })
      f.rot = some r →
      (r.running = false → s.ftime < r.start → exec .rotationStart s = .next s) ∧
      (r.running = false → r.start ≤ s.ftime → steps .rotationStart (fun u => u.slotMode = true ∧ regrouped u ∧ takes u 0 ∧
        u.rot = some { r with running := true, cur := 0, curStart := r.start })) ∧
      (r.running = true →
        (s.ftime < at_ → exec .slotStart s = .next s) ∧
        (at_ ≤ s.ftime → r.cur + 1 < r.count → steps .slotStart (fun u => takes u (r.cur + 1) ∧ u.rotsDone = f.rotsDone ∧ u.epoch = f.epoch ∧ left u ∧
          u.rot = some { r with cur := r.cur + 1, curStart := at_, inGuard := false, budget := [] })) ∧
        (at_ ≤ s.ftime → r.count ≤ r.cur + 1 → r.stopping = false → steps .slotStart (fun u => takes u 0 ∧ u.rotsDone = f.rotsDone + 1 ∧ left u ∧
          u.rot = some { r with cur := 0, curStart := at_, inGuard := false, budget := [] })) ∧
        (at_ ≤ s.ftime → r.count ≤ r.cur + 1 → r.stopping = true → steps .slotStart (fun u => u.rot = none ∧ u.slotMode = false ∧
          (∀ j, u.fslotNext.get none j = none ∧ u.fslot.get {} j = (f.fslotNext.get none j).getD (f.fslot.get {} j)) ∧
          u.circuits = [] ∧ u.rotsDone = f.rotsDone + 1 ∧ regrouped u ∧ u.size = 1)) ∧
        (r.inGuard = false → r.curStart + (e.dur - e.guard) ≤ s.ftime → exec .guardIntervalStart s = .next { s with fabric := { f with
          rot := some { r with inGuard := true } } }) ∧
        (s.ftime < r.curStart + (e.dur - e.guard) → exec .guardIntervalStart s = .next s))) ∧
  (∀ (s : State) (cs : List (Nat × List Nat × List Nat)),
      let f := s.fabric
      exec .quiesceSet s = .next { s with fabric := { f with quiesce := true } } ∧
      exec .quiesceClear s = .next { s with fabric := { f with quiesce := false, retraining := f.retraining || f.quiesce } } ∧
      (f.quiesce = true → exec (.linkRetrainComplete cs) s = .next s) ∧
      (f.quiesce = false → f.retraining = false → ∃ t, exec (.linkRetrainComplete cs) s = .next t ∧ t = { s with fabric := t.fabric } ∧
        t.fabric = { f with fibres := t.fabric.fibres } ∧ ∀ b, let x := f.fibres.get {} b; t.fabric.fibres.get {} b =
          if x.retrain = true ∧ x.paused = false then
            { x with up := true, failed := false, retrain := false, nretrain := min (x.nretrain + 1) 0xFFFF }
          else x) ∧
      (f.quiesce = false → f.retraining = true → ∃ t, exec (.linkRetrainComplete cs) s = .next t ∧
        t = { s with fabric := t.fabric, plinth := t.plinth } ∧ t.fabric.retraining = false ∧ t.fabric.circuits = cs ∧
        t.fabric.epoch = f.epoch + 1 ∧ (∀ x ∈ t.fabric.reds, x ∈ f.reds ∧
          (∀ p, x.part = some p → ∀ d ∈ p.devices, t.fabric.member d = true) ∧ ∀ d ∈ x.senders, t.fabric.member d = true) ∧ (∀ b, b < 128 → let x := f.fibres.get {} b; let y := t.fabric.fibres.get {} b
          y.failed = false ∧ y.retrain = false ∧ y.up = decide (64 ≤ b ∨ ∃ c ∈ cs, b ∈ c.2.1) ∧
          (y.up = true → y.nretrain = min (x.nretrain + 1) 0xFFFF) ∧ y.paused = x.paused) ∧
        t.plinth = { s.plinth with stage := if s.plinth.powered = true ∧ s.plinth.stage.toNat < 0xE then 0xF else s.plinth.stage }))

/-- Ring heaters and wavelengths (R281, R292–R294): a heater code is stored, and an end of its range sets the ring's saturation bit, the
fibre's interrupt bit and the optics interrupt. A wavelength assignment that is not whole pauses the fibre; 1 µs after it is
whole again the fibre resumes, and a pause of more than 10 ms fails a transmit fibre and every packet launched on it, and the fibre
retrains; a receive fibre hears again when it resumes, however long its pause, which is noted and logged (log 90).
Where no packet is in flight the record names the device that the fibre's circuit joins, of which window the model leaves free (log 93).
An update of the monitor samples the ring as its code and the engine's temperature leave it; the reading does not rise as the ring
goes away from its wavelength (R293), and how it falls is the model's choice (log 81). MON shows the latest update, and from 1,000 ns
after it on one of the present (R292). -/
def Obligations.RingHeaters : Prop :=
  ∀ (s : State) (b r : Nat) (code : BitVec 12) (l : BitVec 4) (en : Bool) (temp : BitVec 16),
    let f := s.fabric
    let k := 32 * b + r
    let x := f.rings.get {} k
    let y := f.fibres.get {} b
    let only (u : Fabric) (v : OptRing) : Prop := ∀ j, u.rings.get {} j = if j = k then v else f.rings.get {} j
    let other (u : Fabric) : Prop := ∀ j, j ≠ b → u.fibres.get {} j = f.fibres.get {} j
    let steps (i : Instr) (h : Fabric → Prop) : Prop := ∃ t, exec i s = .next t ∧ t = { s with fabric := t.fabric } ∧ h t.fabric
    b < 128 → r < 17 →
    (code ≠ 0 → code ≠ 4095 → steps (.heatWrite b r code) (fun u => only u { x with heat := code } ∧ u = { f with rings := u.rings })) ∧
    (code = 0 ∨ code = 4095 → ∃ t, exec (.heatWrite b r code) s = .next t ∧ only t.fabric { x with heat := code } ∧ other t.fabric ∧
      t.fabric.fibres.get {} b = { y with sat := t.fabric.fibres.get {} b |>.sat } ∧
      (∀ i, (t.fabric.fibres.get {} b).sat.getLsbD i = (y.sat.getLsbD i || decide (i = r))) ∧
      (∀ i, t.fabric.optIrq0.getLsbD i = (f.optIrq0.getLsbD i || decide (i = b ∧ b < 64))) ∧
      (∀ i, t.fabric.optIrq1.getLsbD i = (f.optIrq1.getLsbD i || decide (64 ≤ b ∧ i + 64 = b))) ∧
      t = { s with fabric := t.fabric, plinth := { s.plinth with intPend := s.plinth.intPend ||| 4#8 } }) ∧
    steps (.assignWrite b r l en) (fun u =>
      let whole := ∀ w, w < 16 → ((List.range 17).filter (fun n => (u.ring b n).en && decide ((u.ring b n).lambda.toNat = w))).length = 1
      let z := u.fibres.get {} b
      only u { x with lambda := l, en := en, touched := true } ∧ other u ∧ u = { f with rings := u.rings, fibres := u.fibres } ∧
      (whole → y.paused = false → z = y) ∧ (whole → y.paused = true → z = { y with wholeAt := some (y.wholeAt.getD s.ftime) }) ∧
      (¬whole → z = { y with paused := true, wholeAt := none, pausedAt := if y.paused then y.pausedAt else s.ftime })) ∧
    (∀ t0, y.paused = true → y.wholeAt = some t0 →
      (t0 + 1000 ≤ s.ftime → steps (.fibreResume b) (fun u => u = { f with fibres := u.fibres } ∧ other u ∧
        u.fibres.get {} b = { y with paused := false, wholeAt := none, failed := y.failed && decide (b < 64) })) ∧
      (s.ftime < t0 + 1000 → exec (.fibreResume b) s = .next s)) ∧
    (y.paused = true → y.failed = false →
      (s.ftime ≤ y.pausedAt + 10000000 → exec (.fibrePauseTimeout b) s = .next s) ∧
      (y.pausedAt + 10000000 < s.ftime → 64 ≤ b → ∃ t, exec (.fibrePauseTimeout b) s = .next t ∧
        t = { s with fabric := { f with fibres := t.fabric.fibres }, plinth := t.plinth } ∧ other t.fabric ∧ t.plinth.butLog = s.plinth.butLog ∧
        t.fabric.fibres.get {} b = { y with failed := true }) ∧
      (y.pausedAt + 10000000 < s.ftime → b < 64 → (∀ d ∈ f.sends, d.st = 1 → d.fibre = b → d.loopb = false → d.fwd = none ∧ ∃ o op en bs, d.load = .line o op en bs) →
        ∃ t, exec (.fibrePauseTimeout b) s = .next t ∧ (t.fabric.fibres.get {} b).failed = true ∧ (t.fabric.fibres.get {} b).up = false ∧ (t.fabric.fibres.get {} b).retrain = true ∧
          other t.fabric ∧ ∀ d ∈ f.sends, d.st = 1 → d.fibre = b → d.loopb = false → { d with st := 3, status := 2 } ∈ t.fabric.sends) ∧
      (y.pausedAt + 10000000 < s.ftime → f.slotMode = false → (∀ d ∈ f.sends, d.st = 1 → d.fibre ≠ b) →
        ∀ c, f.circuits.find? (fun c => c.2.1.contains b) = some c → ∃ t w, exec (.fibrePauseTimeout b) s = .next t ∧ w < 2 ^ 10 ∧
          Logged s t 6 0xFF 0 b 0 (BitVec.ofNat 64 (c.1 + 2 ^ 16 * w)))) ∧
    steps (.monUpdate b r temp) (fun u => only u { x with mon := f.monNow b r temp, monAt := s.ftime } ∧ u = { f with rings := u.rings }) ∧
    f.monRead s.ftime b r = (if s.ftime < x.monAt + 1000 then x.mon else f.monNow b r f.optTemp) ∧
    (f.monNow b r temp = BitVec.ofNat 12 (monReading k (f.offTune b r temp)) ∧ ∀ i j, i ≤ j → monReading k j ≤ monReading k i ∧ monReading k i < 4096) ∧
    exec (.optTempUpdate temp) s = .next { s with fabric := { f with optTemp := temp } }

/-! ## Slices -/

/-- Slice sets, seeding and fine solves (R296–R303, R306, R315–R317, R320–R325): SSOPEN gives the lowest free set a parameter block's
shape, and 9 where there is none or too few contexts; SSCLOSE closes a set without outstanding tokens, and SCANCEL cancels an open
one; SSEED seeds a slice under a new generation; SFBEG hands out the lowest candidate, and SFEND takes its result, where its
generation is still current; SJUMP ends a sweep; SPFX reads the prefix. A token with a foreign bit traps 0x0001, a set that is not found
answers 3, and what releases waits for its release step. That a word's own check of the set's mode comes before its answer about a set
that is not open, as SJUMP's on a cancelled set, is the model's reading (log 15), and so is that SSOPEN accepts a table anywhere in own
scratchpad's range, also beyond the opener's partition (log 56). -/
def Obligations.SliceSets : Prop :=
  (∀ (s : State) (d a b : BitVec 5),
      let tok := s.sval a
      let v := (s.sval b).toNat
      let k := tokSet tok
      let n := tokN tok
      let g := tokG tok
      let x := s.set k
      let c := x.slice n
      let status (m : Nat) : W64 := BitVec.ofNat 64 (2 ^ 63 + m)
      let token (m : Nat) (h : BitVec 16) : W64 := BitVec.ofNat 64 (h.toNat * 2 ^ 32 + m * 2 ^ 16 + k)
      let found := x.state ≠ 0 ∧ x.ctx = s.ctxNow
      let isOpen := x.state = 1 ∧ x.ctx = s.ctxNow
      let tells (i : Instr) (m : Nat) : Prop := AnswersS i s d (status m) [] (SetsKept s)
      let ready := released s s.curCore s.curEng = true
      s.me.mode ≠ .handler →
      (tokBad tok = true → ∀ i ∈ [Instr.ssclose d a, .scancel d a, .sseed d a b, .sfbeg d a b, .sfend d a b, .sjump d a, .spfx d a, .swaitp d a b,
        .swaitf d a, .srecyc d a, .saccept d a b, .sresid d a b, .sflt d a b], Traps i s 1 tok) ∧
      (tokBad tok = false →
        (¬ready → v = 0 → ∀ i ∈ [Instr.ssclose d a, .scancel d a, .sseed d a b, .srecyc d a], Waits i s .release) ∧
        (ready → ¬found → v = 0 → ∀ i ∈ [Instr.ssclose d a, .scancel d a, .sseed d a b, .sjump d a, .spfx d a, .swaitp d a b, .swaitf d a,
          .srecyc d a, .saccept d a b, .sresid d a b, .sflt d a b], tells i 3) ∧
        (ready → found →
          (x.out = [] → AnswersS (.ssclose d a) s d 0 [] (fun t => OnlySet s t k {})) ∧
          (x.out ≠ [] → tells (.ssclose d a) 6) ∧
          (x.state ≠ 1 → AnswersS (.scancel d a) s d (BitVec.ofNat 64 x.out.length) [] (SetsKept s)) ∧
          (x.state = 1 → ∃ t, exec (.scancel d a) s = .next t ∧ Completes (s.q.pc + 1) s t ∧ MemoryKept s t ∧
            (∀ m, t.sval m = if m = 0 then 0 else if m = d then BitVec.ofNat 64 x.out.length else s.sval m) ∧
            t = { s with cores := t.cores, slices := t.slices, sliceCnt := t.sliceCnt } ∧ (∀ j, j ≠ k → t.set j = s.set j) ∧
            (t.set k).state = 2 ∧ (t.set k).out = x.out ∧
            (∀ m, x.base ≤ m → m < x.h → ∀ r, ((t.set k).slice m).frec = some r → r.delivered = true) ∧
            ∀ m, m < 128 → m ≠ s.curCore → t.core m = { s.core m with cancel := (
              if (s.core m).cancel = none ∧ (s.core m).inst.any (fun i => i.bind.any (fun y => y.set = k)) = true then
                some (((s.core m).leader.map Eng.tag).getD 0) else (s.core m).cancel) })) ∧
        (ready → isOpen →
          let y (t : State) : Slice := (t.set k).slice n
          let bumped (t : State) (z : Slice) : Prop := OnlySet s t k (x.putSlice n (y t)) ∧ (y t).gen = c.gen + 1 ∧ (y t).seeded = true ∧
            (y t).ist = (c.ist || c.infl) ∧ (y t).infl = c.infl ∧ (y t).fine ≠ 1 ∧ (y t).value = z.value ∧ (y t).parent = z.parent ∧ (y t).verdict = z.verdict
          (x.token = false → v ≠ 0 → Traps (.sseed d a b) s 1 tok) ∧
          (v = 0 → ¬(x.base ≤ n ∧ n < x.h) → tells (.sseed d a b) 4) ∧
          (x.token = false → v = 0 → x.base ≤ n → n < x.h → x.h ≤ n + 1 ∨ (n < x.p ∧ c.seeded = true) → tells (.sseed d a b) 6) ∧
          (x.token = false → v = 0 → x.base ≤ n → n + 1 < x.h → (n < x.p → c.seeded = false) →
            AnswersS (.sseed d a b) s d (token n (c.gen + 1)) [] (fun t => bumped t c)) ∧
          (x.token = true → x.tree = false → v < 2 ^ 32 → x.base ≤ n → n < x.h → (n = 0 ∨ n < x.p → tells (.sseed d a b) 6) ∧
            (n ≠ 0 → x.p ≤ n → AnswersS (.sseed d a b) s d (token n (c.gen + 1)) [] (fun t =>
              bumped t { c with value := BitVec.ofNat 32 v, parent := 0, verdict := 0 }))) ∧
          (x.token = true → x.tree = true → v < 2 ^ 44 →
            let parent := v / 2 ^ 32
            let barred := n = 0 ∨ n ∈ x.path ∨ n ≤ parent ∨ parent < x.base ∨ x.h ≤ parent
            (¬(x.base ≤ n ∧ n < x.h) → tells (.sseed d a b) 4) ∧ (x.base ≤ n → n < x.h → barred → tells (.sseed d a b) 6) ∧
            (x.base ≤ n → n < x.h → ¬barred → AnswersS (.sseed d a b) s d (token n (c.gen + 1)) [] (fun t =>
              bumped t { c with value := BitVec.ofNat 32 v, parent := parent, verdict := 0 })))) ∧
        (2 ^ 44 ≤ v ∨ (found ∧ x.token = true ∧ x.tree = false ∧ 2 ^ 32 ≤ v) → Traps (.sseed d a b) s 1 tok) ∧
        (found → x.state ≠ 1 → (ready → v = 0 → tells (.sseed d a b) 3) ∧ (x.token = false → tells (.sjump d a) 3)) ∧
        (2 ^ 17 ≤ v → Traps (.sfbeg d a b) s 1 tok) ∧ (v < 2 ^ 17 → textWords s ≤ v % 2 ^ 16 → Traps (.sfbeg d a b) s 1 s.wordVal) ∧
        (v < 2 ^ 17 → v % 2 ^ 16 < textWords s → ¬isOpen → tells (.sfbeg d a b) 3) ∧
        (isOpen → v < 2 ^ 17 → v % 2 ^ 16 < textWords s →
          let takes (m : Nat) : Prop := (x.slice m).seeded = true ∧ (x.slice m).fine ≠ 1 ∧ (x.slice m).infl = false ∧
            if x.token then 1 ≤ m ∧ (x.slice m).verdict = 0 ∧ x.onPath m = false else m + 2 ≤ x.h
          let free := (∀ i, s.me.inst = some i → i.bind = none)
          (¬free → tells (.sfbeg d a b) 8) ∧ (free → x.h ≤ x.p → tells (.sfbeg d a b) 2) ∧
          (free → x.p < x.h → x.exhausted = true → tells (.sfbeg d a b) 7) ∧
          (free → x.p < x.h → x.exhausted = false →
            ((∀ m, x.base ≤ m → m < x.h → ¬takes m) → tells (.sfbeg d a b) 1) ∧
            ∀ m, x.base ≤ m → m < x.h → takes m → (∀ l, x.base ≤ l → l < m → ¬takes l) →
              AnswersS (.sfbeg d a b) s d (token m (x.slice m).gen) [.instance_] (fun t =>
                OnlySet s t k { x.putSlice m { x.slice m with infl := true, ist := false } with
                  out := x.out ++ [(m, (x.slice m).gen.toNat + if s.me.inst = none then 65536 else 0)] } ∧
                (∀ i, s.me.inst = some i → t.me.inst = some { i with
                  tokens := i.tokens ++ [(k, m, (x.slice m).gen)]
                  bind := if 2 ^ 16 ≤ v then some ⟨k, m, (x.slice m).gen, d.toNat, v % 2 ^ 16⟩ else none })))) ∧
        (ready → v ≤ 1 → (holdsToken s tok = false ∨ ¬found → Traps (.sfend d a b) s 1 s.wordVal) ∧
          (holdsToken s tok = true →
            let gone (f : Slice) : SliceSet := { x.putSlice n { f with infl := false } with out := x.out.filter (fun e => e.1 ≠ n) }
            let ends (w : W64) (f : State → Prop) : Prop := AnswersS (.sfend d a b) s d w [.instance_] (fun t => f t ∧
              ∀ i, s.me.inst = some i → ∃ j, t.me.inst = some j ∧ j.tokens = i.tokens.filter (fun y => y ≠ (k, n, g)) ∧
                j.bind = i.bind.filter (fun y => !(decide (y.set = k) && decide (y.n = n))))
            (isOpen → c.ist = true ∨ g ≠ c.gen → ends (status 5) (fun t => OnlySet s t k (gone { c with fine := 2 }))) ∧
            (isOpen → c.ist = false → g = c.gen → v = 0 → ends 0 (fun t => OnlySet s t k (gone { c with fine := 1, fg := g }))) ∧
            (isOpen → c.ist = false → g = c.gen → v = 1 → ends 0 (fun t => ∃ r, r.program = true ∧ r.delivered = false ∧ r.gen = g ∧
              r.core = s.curCore ∧ r.pc = s.q.pc ∧ OnlySet s t k (gone { c with fine := 3, frec := some r }))) ∧
            (found → x.state = 2 ∨ (x.state = 3 ∧ ∃ e ∈ x.out, e.1 ≠ n) → ends (status 3) (fun t => OnlySet s t k (gone c))))) ∧
        (found → x.token = true → Traps (.sjump d a) s 1 tok) ∧
        (isOpen → x.token = false → x.sweeps < 2 ^ 16 - 1 →
          let ns := (List.range (x.h - 1 - (x.p - 1))).map (· + (x.p - 1))
          let conv : Bool := ns.all (fun m => (x.slice m).swept && fleVal (f32 (x.slice m).jump) (f32 x.tol))
          let out := x.exhausted || (decide (x.maxSweeps ≠ 0 ∧ x.maxSweeps ≤ x.sweeps + 1) && !(conv || decide (x.h ≤ x.p)))
          ∃ w : W64, AnswersS (.sjump d a) s d w [] (fun t => t.sliceCnt = s.sliceCnt ∧ (∀ j, j ≠ k → t.set j = s.set j) ∧
              (t.set k).p = (if conv then x.h else x.p) ∧ (t.set k).sweeps = x.sweeps + 1 ∧ (t.set k).exhausted = out ∧
              (∀ m, x.base ≤ m → m < x.h → (t.set k).slice m = { x.slice m with swept := false }) ∧
              (t.set k).out = x.out ∧ (t.set k).state = 1) ∧
            w.extractLsb' 0 32 = ns.foldl (fun z m => normMax z (x.slice m).jump) 0 ∧ w.extractLsb' 32 16 = BitVec.ofNat 16 (x.sweeps + 1) ∧
            w.getLsbD 48 = conv ∧ w.getLsbD 49 = out ∧ w.getLsbD 50 = ns.any (fun m => !(x.slice m).swept)) ∧
        (found → ∃ w : W64, AnswersS (.spfx d a) s d w [] (SetsKept s) ∧ w.extractLsb' 0 13 = BitVec.ofNat 13 x.p ∧
          w.extractLsb' 16 13 = BitVec.ofNat 13 x.h ∧ w.extractLsb' 32 12 = BitVec.ofNat 12 x.pt ∧ w.getLsbD 48 = decide (x.state = 1) ∧
          w.getLsbD 49 = decide (x.state ≠ 1) ∧ w.getLsbD 50 = decide (x.h ≤ x.p) ∧ w.getLsbD 51 = x.exhausted ∧
          w.extractLsb' 52 7 = BitVec.ofNat 7 (min x.out.length 127)))) ∧
  (∀ (s : State) (d a : BitVec 5) (loc mode tree w parts tol ms first tab tl k : Nat),
      let ba := s.sval a
      let toks := decide (mode = 1)
      let fits := 2 ≤ w ∧ w ≤ 64 ∧ (mode = 0 ∨ mode = 1) ∧ (tree = 0 ∨ mode = 1) ∧ 1 ≤ parts ∧ parts ≤ (if mode = 1 then 1 else 128) ∧
        if mode = 1 then tol = 0 else tol < 0x7F800000 ∧ tab % 32 = 0 ∧ (tab < (if s.curCore = 128 then 0x100000 else 0x400000) ∨ (0x10000000000 ≤ tab ∧ tab < 0x10000000000000))
      s.me.mode ≠ .handler → Unhindered s →
      (ba.toNat % 32 ≠ 0 → Traps (.ssopen d a) s 5 ba) ∧
      (ba.toNat % 32 = 0 → 0x300000000 ≤ ba.toNat → ba.toNat < 0x400000000 → Traps (.ssopen d a) s 7 ba) ∧
      (ba.toNat % 32 = 0 → OwnAt s ba.toNat 32 loc → Clean s loc 32 → mode < 2 ^ 8 → tree ≤ 1 → w < 2 ^ 32 → parts < 2 ^ 32 → tol < 2 ^ 32 → ms < 2 ^ 32 →
        first < 2 ^ 32 → tab < 2 ^ 64 →
        Holds s 0 loc (leBytes 4 (mode + 2 ^ 8 * tree) ++ leBytes 4 w ++ leBytes 4 parts ++ leBytes 4 tol ++ leBytes 4 ms ++ leBytes 4 first ++
          leBytes 8 tab) →
        (¬fits → Traps (.ssopen d a) s 1 ba) ∧
        (fits → (mode = 0 → tab < 0x400000 ∧ tl = ownLoc s tab) → released s s.curCore s.curEng = false → Waits (.ssopen d a) s .release) ∧
        (fits → (mode = 0 → tab < 0x400000 ∧ tl = ownLoc s tab) → released s s.curCore s.curEng = true →
          ((∀ j, j < 16 → (s.set j).state ≠ 0) → AnswersS (.ssopen d a) s d (BitVec.ofNat 64 (2 ^ 63 + 9)) [] (SetsKept s)) ∧
          (k < 16 → (s.set k).state = 0 → (∀ j, j < k → (s.set j).state ≠ 0) →
            (freeContexts s < w → AnswersS (.ssopen d a) s d (BitVec.ofNat 64 (2 ^ 63 + 9)) [] (SetsKept s)) ∧
            (w ≤ freeContexts s → AnswersS (.ssopen d a) s d (BitVec.ofNat 64 k) [] (fun t => t.sliceCnt = s.sliceCnt ∧
              OnlySet s t k { (t.set k) with
                state := 1, ctx := s.ctxNow, opener := (s.curCore, s.me.owner), token := toks, tree := decide (tree = 1), w := w, base := 0, h := w
                parts := parts, tol := BitVec.ofNat 32 tol, maxSweeps := ms, sweeps := 0, exhausted := false, first := first
                tab := if mode = 1 then (t.set k).tab else tl, p := 1, pt := 0, slices := {}, out := [] }))))))

/-- Waiting for slices, recycling, drafts, fault records and abandonment (R301, R304, R309, R311–R313, R318, R325–R328): SWAITP and SWAITF
answer at once where the condition holds, and wait else; SRECYC moves the window; SACCEPT commits the draft under test where
q times u does not exceed p, and else invalidates what is above it; that it traps, and SRESID, on a numeric set even where the set is
cancelled is the model's reading (log 15); SRESID commits the corrected value. In a tree the draft under test is the lowest child of PT that
is not rejected, a commit invalidates the other children of PT with their descendants, that far the model's reading (log 56), and a
rejection invalidates descendants. SFLT reads a record's words.
An abandonment whose writes are performed restarts every sequencer at the abandon word, in its kernel and past its latest SAFEPT, and
returns the token, with which a closing set closes; a checkpoint under way chooses its cut anew, the model's choice (log 85). -/
def Obligations.SliceResults : Prop :=
  (∀ (s : State) (d a b : BitVec 5),
      let tok := s.sval a
      let w := s.sval b
      let v := w.toNat
      let k := tokSet tok
      let n := tokN tok
      let g := tokG tok
      let x := s.set k
      let c := x.slice n
      let status (m : Nat) : W64 := BitVec.ofNat 64 (2 ^ 63 + m)
      let token (m : Nat) (h : BitVec 16) : W64 := BitVec.ofNat 64 (h.toNat * 2 ^ 32 + m * 2 ^ 16 + k)
      let found := x.state ≠ 0 ∧ x.ctx = s.ctxNow
      let isOpen := x.state = 1 ∧ x.ctx = s.ctxNow
      let inside := x.base ≤ n ∧ n < x.h
      let tells (i : Instr) (m : Nat) : Prop := AnswersS i s d (status m) [] (SetsKept s)
      let met := v ≤ x.p ∨ x.h ≤ x.p ∨ x.exhausted = true ∨ (x.state ≠ 1 ∧ x.out = [])
      let q : FVal := rne (fmul (f32 ((s.sval d).setWidth 32)) (f32 (w.extractLsb' 32 32)))
      let p : FVal := f32 (w.setWidth 32)
      let passes : Bool := !p.isNan && !q.isNan && fleVal q p
      let tested : Prop := if x.tree = true then n ≠ 0 ∧ c.seeded = true ∧ c.parent = x.pt ∧ ∀ m, x.base ≤ m → m < n → m ≠ 0 →
          (x.slice m).seeded = true → (x.slice m).parent = x.pt → (x.slice m).verdict = 2
        else n = x.p
      let under (m : Nat) : Prop := x.base ≤ m ∧ m < x.h ∧ x.below n m = true
      let loses (m : Nat) : Prop := x.tree = true ∧ x.base ≤ m ∧ m < x.h ∧ x.below x.pt m = true ∧ m ≠ n ∧ x.below n m = false ∧ m ≠ 0 ∧
        (x.slice m).seeded = true
      let changes (t : State) (y : SliceSet) (z : Slice) (gone : Nat → Prop) : Prop := (∀ j, j ≠ k → t.set j = s.set j) ∧
        t.set k = { y with slices := (t.set k).slices } ∧ (t.set k).slice n = z ∧ ∀ m, m ≠ n →
          (¬gone m → (t.set k).slice m = x.slice m) ∧ (gone m → let u := (t.set k).slice m
            u.gen = (x.slice m).gen + 1 ∧ u.seeded = false ∧ u.verdict = 0 ∧ u.fine ≠ 1 ∧ u.value = (x.slice m).value)
      let committed (t : State) (z : Word) : Prop :=
        changes t { x with p := x.p + 1, pt := n, path := if x.tree then x.path ++ [n] else x.path } { c with verdict := 1, value := z } loses
      s.me.mode ≠ .handler → tokBad tok = false →
      (2 ^ 13 ≤ v → Traps (.swaitp d a b) s 1 tok) ∧ (2 < v → Traps (.sflt d a b) s 1 s.wordVal) ∧
      (found → v < 2 ^ 13 → (met → ∃ y : W64, AnswersS (.swaitp d a b) s d y [] (SetsKept s) ∧ AnswersS (.spfx d a) s d y [] (SetsKept s)) ∧
        (¬met → Waits (.swaitp d a b) s (.sliceSet k))) ∧
      (isOpen → (¬inside → tells (.swaitf d a) 4) ∧ (inside → c.fine = 1 → AnswersS (.swaitf d a) s d (token n c.fg) [] (SetsKept s)) ∧
        (inside → c.fine ≠ 1 → Waits (.swaitf d a) s (.sliceSet k))) ∧
      (x.tree = false → ∀ m, x.below n m = decide (n < m)) ∧
      (found → x.state ≠ 1 → tells (.swaitf d a) 3 ∧ (released s s.curCore s.curEng = true → tells (.srecyc d a) 3 ∧
        (x.token = true → tells (.saccept d a b) 3 ∧ (v < 2 ^ 33 → tells (.sresid d a b) 3)))) ∧
      (found → v ≤ 2 → (c.frec = none → AnswersS (.sflt d a b) s d 0 [] (SetsKept s)) ∧
        ∀ r, c.frec = some r → AnswersS (.sflt d a b) s d (BitVec.ofNat 64 (match v with
          | 0 => r.cause + 2 ^ 16 * r.eng + 2 ^ 19 + (if r.delivered then 2 ^ 20 else 0) + (if r.program then 2 ^ 21 else 0) + 2 ^ 32 * r.gen.toNat
          | 1 => r.addr.toNat
          | _ => r.pc % 2 ^ 16 + 2 ^ 16 * r.core + 2 ^ 32 * ((x.first + n) % 2 ^ 32))) [] (SetsKept s)) ∧
      (found → x.token = false → Traps (.saccept d a b) s 1 tok ∧ (v < 2 ^ 33 → Traps (.sresid d a b) s 1 tok)) ∧
      (2 ^ 33 ≤ v → Traps (.sresid d a b) s 1 tok) ∧
      (isOpen → released s s.curCore s.curEng = true →
        (¬inside → tells (.srecyc d a) 4) ∧
        (inside → n ≠ x.base ∨ x.p ≤ n + 1 ∨ c.infl = true ∨ 4095 < x.h → tells (.srecyc d a) 6) ∧
        (inside → n = x.base → n + 1 < x.p → c.infl = false → x.h ≤ 4095 → AnswersS (.srecyc d a) s d (token x.h 0) [] (fun t =>
          (∀ j, j ≠ k → t.set j = s.set j) ∧ (t.set k).base = x.base + 1 ∧ (t.set k).h = x.h + 1 ∧ (t.set k).p = x.p ∧ (t.set k).out = x.out ∧
          ∀ m, (t.set k).slice m = if m = n then {} else if x.token = false ∧ m = x.h - 1 then
            { x.slice m with seeded := (x.slice m).seeded || (x.slice m).roundBelow } else x.slice m)) ∧
        (x.token = true →
          (¬inside → tells (.saccept d a b) 4 ∧ (v < 2 ^ 33 → tells (.sresid d a b) 4)) ∧
          (inside → ¬tested → tells (.saccept d a b) 6 ∧ (v < 2 ^ 33 → tells (.sresid d a b) 6)) ∧
          (inside → tested → g ≠ c.gen ∨ c.fine ≠ 1 → tells (.saccept d a b) 5 ∧ (v < 2 ^ 33 → c.verdict = 2 → tells (.sresid d a b) 5)) ∧
          (inside → tested → c.verdict ≠ 2 → v < 2 ^ 33 → tells (.sresid d a b) 6) ∧
          (inside → tested → g = c.gen → c.fine = 1 →
            (passes = true → AnswersS (.saccept d a b) s d 0 [] (fun t => committed t c.value ∧
              ((∀ m, loses m → ∀ r, (x.slice m).frec = some r → r.delivered = true) → t.sliceCnt = s.sliceCnt))) ∧
            (passes = false → AnswersS (.saccept d a b) s d 1 [] (fun t => changes t x { c with verdict := 2 } under)) ∧
            (c.verdict = 2 → v < 2 ^ 33 → AnswersS (.sresid d a b) s d 0 [] (fun t => committed t (w.setWidth 32) ∧
              (t.sliceCnt.extractLsb' 32 16).toNat = (let o := (s.sliceCnt.extractLsb' 32 16).toNat
                if v < 2 ^ 32 then o else min (o + 1) 0xFFFF))))))) ∧
  (∀ (s : State) (n : Nat) (code : W64), (s.core n).abandon = some code → code = 0x800000000000000B →
      let c := s.core n
      (drained s n = false → exec (.abandonment n) s = .next s) ∧
      (drained s n = true → ∀ i b, c.inst = some i → i.bind = some b → (s.set b.set).state = 2 ∨ (s.set b.set).state = 3 →
        let x := s.set b.set
        ∃ t, exec (.abandonment n) s = .next t ∧ t = { s with cores := t.cores, slices := t.slices, sliceCnt := t.sliceCnt } ∧
          (∀ k, k ≠ n → t.core k = s.core k) ∧ (t.core n).mode = .run ∧ (t.core n).abandon = none ∧ (t.core n).cancel = none ∧
          (∀ k, k < 32 → (t.core n).s k = if k = 0 then 0 else if k = b.reg then code else c.sreg.get 0 k) ∧
          (t.core n).stack = {} ∧ (t.core n).events = {} ∧ (t.core n).regions = [] ∧ (t.core n).rings = c.rings ∧ (t.core n).greg = c.greg ∧
          (t.core n).inst = some { i with bind := none, tokens := i.tokens.filter (fun y => y ≠ (b.set, b.n, b.g)), barw := [] } ∧
          (t.core n).stopReq = c.stopReq.map (fun r => { r with k := none, ends := false, index := 0, loopk := false }) ∧
          (∀ e, let y := (t.core n).seq e
            y.pc = b.abandon ∧ y.wc = (c.seqs.get {} e.tag).wc ∧ y.wait = none ∧ y.ended = false ∧ y.pfx = [] ∧ y.unpassed = [] ∧
            y.inKernel = (c.seqs.get {} e.tag).inKernel ∧ y.inIter = (c.seqs.get {} e.tag).inIter ∧ y.lastSafe = (c.seqs.get {} e.tag).lastSafe ∧
            (∀ p : Eng, (c.seqs.get {} p.tag).cc.toNat ≤ y.cc.toNat ∧ (c.seqs.get {} p.tag).iter.toNat ≤ y.iter.toNat ∧
              y.vclk.get p = (c.seqs.get {} p.tag).wc) ∧
            (∃ p : Eng, y.cc = (c.seqs.get {} p.tag).cc) ∧ ∃ p : Eng, y.iter = (c.seqs.get {} p.tag).iter) ∧
          (t.sliceCnt.extractLsb' 48 16).toNat = min ((s.sliceCnt.extractLsb' 48 16).toNat + 1) 0xFFFF ∧
          (x.state = 2 ∨ (∃ e ∈ x.out, e.1 ≠ b.n) → OnlySet s t b.set { x.putSlice b.n { x.slice b.n with infl := false, fine := 2 } with
            out := x.out.filter (fun e => e.1 ≠ b.n) } ∧ t.sliceCnt.setWidth 48 = s.sliceCnt.setWidth 48) ∧
          (x.state = 3 → (∀ e ∈ x.out, e.1 = b.n) → OnlySet s t b.set {} ∧
            (t.sliceCnt.extractLsb' 0 16).toNat = min ((s.sliceCnt.extractLsb' 0 16).toNat + ((List.range (x.h - x.base)).filter (fun m =>
              (x.slice (x.base + m)).frec.any (fun r => !r.delivered))).length) 0xFFFF)))

/-- The combine and its report (R251, R252, R298, R304): CCOMB answers 3 for a set that is not open, 4 beyond the window, 2 without
a current fine result, and else 0 or, for a settled slice, 1: the engine then takes, element by element, coarse new, fine result and
coarse old from the addresses of the set's table, for the start state of the slice below. A table row past the partition that the set
was opened in traps 0x0006, and a misaligned address traps 0x0005, as the model reads it (log 54). A set in token mode traps 0x0001 with the token, after answer 3 and before
PART is checked; a report whose set was closed or reopened, or whose slice was freed, is dropped, and a parked line that firmware has failed holds no report: the model's
choice (log 96). When its writes are performed, the part's
norm and DIFF reach the coordinator, and the last part of a round gives the slice its jump, moves the settled prefix, and starts a new
generation of the slice below where a value changed. -/
def Obligations.Combine : Prop :=
  (∀ (s : State) (g : BitVec 4) (tok pw : W64) (r : List W64) (part cls len gl fl ol sl : Nat),
      let k := tokSet tok
      let n := tokN tok
      let x := s.set k
      let c := x.slice n
      let exact := decide (n < x.p ∧ c.fine = 1 ∧ tokG tok = c.gen)
      let row (m j : Nat) : Nat := readNat s 0 (x.tab + 32 * (m % x.w) + 8 * j) 8
      let off := 4 * part * len
      let isOpen := x.state = 1 ∧ x.ctx = s.ctxNow
      let tells (v : W64) : Prop := ∃ t, exec (.ccomb g) s = .next t ∧ Completes (s.q.pc + 1) s t ∧ StackIs s t r ∧ WritesG s t g v ∧
        Confined [.stack, .g] s t ∧ MemoryKept s t
      s.curEng = .c → s.curCore < 128 → Unhindered s → s.stk = tok :: pw :: 0x100 :: r → pw = BitVec.ofNat 64 (part + 2 ^ 8 * cls + 2 ^ 16 * len) →
      part < 2 ^ 7 → cls < 16 → 1 ≤ len → len < 2 ^ 20 → tokBad tok = false →
      (¬isOpen → tells 3) ∧
      (isOpen → x.token = true → Traps (.ccomb g) s 1 tok) ∧
      (isOpen → x.token = false → x.parts ≤ part → Traps (.ccomb g) s 1 s.wordVal) ∧
      (isOpen → x.token = false → part < x.parts →
        (n < x.base ∨ x.h ≤ n + 1 → tells 4) ∧
        (x.base ≤ n → n + 1 < x.h → (c.fine ≠ 1 ∧ c.fine ≠ 2) ∨ tokG tok ≠ c.fg → tells 2) ∧
        (x.base ≤ n → n + 1 < x.h → c.fine = 1 ∨ c.fine = 2 → tokG tok = c.fg → x.tabMain = false →
          x.tab + 32 * (n % x.w) + 32 ≤ x.tabEnd → x.tab + 32 * ((n + 1) % x.w) + 32 ≤ x.tabEnd →
          Clean s (x.tab + 32 * (n % x.w)) 32 → Clean s (x.tab + 32 * ((n + 1) % x.w)) 32 →
          (∀ v, [row n 3, row n 1, row n 2, row (n + 1) 0].find? (fun v => v % 4 ≠ 0) = some v → Traps (.ccomb g) s 5 (BitVec.ofNat 64 (v + off))) ∧
          ((∀ v ∈ [row n 3, row n 1, row n 2, row (n + 1) 0], v % 4 = 0) → OwnAt s (row n 3 + off) (4 * len) gl → OwnAt s (row n 1 + off) (4 * len) fl →
          OwnAt s (row n 2 + off) (4 * len) ol → OwnAt s (row (n + 1) 0 + off) (4 * len) sl →
          ∃ t o, exec (.ccomb g) s = .next t ∧ Completes (s.q.pc + 1) s t ∧ StackIs s t r ∧ WritesG s t g (if exact then 1 else 0) ∧
            Accesses [.stack, .g, .operations, .rings] s t ∧ RingsKept s t ∧ MemoryKept s t ∧ t.me.copies = [o] ∧ o.id = s.nextId ∧ o.cls = cls ∧ o.owner = s.me.owner ∧
            o.count = none ∧ o.report = some { set := k, opened := x.opened, n := n, part := part, settled := exact } ∧
            ∀ e, e < len → ∃ va es, Unit_.comb ((sl + 4 * e) / 128 * 128) 0 va none exact es ∈ o.units ∧
              ((sl + 4 * e) % 128, (if exact then (0, 0) else (gl + 4 * e, 0)), (fl + 4 * e, 0), (if exact then (0, 0) else (ol + 4 * e, 0))) ∈ es)) ∧
        (x.base ≤ n → n + 1 < x.h → c.fine = 1 ∨ c.fine = 2 → tokG tok = c.fg → x.tabMain = false → x.tabEnd < x.tab + 32 * (n % x.w) + 32 →
          Traps (.ccomb g) s 6 (BitVec.ofNat 64 (x.tabVa + 32 * (n % x.w)))))) ∧
  (∀ (s : State) (n : Nat) (o : CopyOp) (r : Report),
      let x := s.set r.set
      let c := x.slice r.n
      let live := x.state ≠ 0 ∧ x.opened = r.opened ∧ x.base ≤ r.n ∧ r.n + 1 < x.h
      let has (j : Nat) : Prop := j = r.part ∨ (c.roundOpen = true ∧ (c.parts.get none j).isSome = true)
      let norm (j : Nat) : Word := if j = r.part then r.norm else (c.parts.get none j).getD 0
      let settled := r.settled && (c.settled || !c.roundOpen)
      let differs := r.differs || (c.diff && c.roundOpen)
      let does (f : State → Prop) : Prop := ∃ t, exec (.ccombReport n o.id) s = .next t ∧
        t = { s with cores := t.cores, slices := t.slices, sliceCnt := t.sliceCnt } ∧ (∀ k, k ≠ n → t.core k = s.core k) ∧
        t.core n = { s.core n with copies := (s.core n).copies.filter (fun y => y.id ≠ o.id) } ∧ (∀ j, j ≠ r.set → t.set j = s.set j) ∧ f t
      (s.core n).copies.find? (fun y => y.id = o.id ∧ y.units = []) = some o → o.report = some r →
      (∀ p ∈ (s.core n).parkedAll, p.issued = o.id → p.failed = true) →
      (¬live → does (SetsKept s)) ∧
      (live → (∃ j, j < x.parts ∧ ¬has j) → does (fun t => let y := (t.set r.set).slice r.n
        y.roundOpen = true ∧ y.parts.get none r.part = some r.norm ∧ y.settled = settled ∧ y.diff = differs ∧ y.jump = c.jump ∧
        (t.set r.set).p = x.p ∧ ∀ m, m ≠ r.n → (t.set r.set).slice m = x.slice m)) ∧
      (live → (∀ j, j < x.parts → has j) → does (fun t =>
        let y := (t.set r.set).slice r.n
        let z := (t.set r.set).slice (r.n + 1)
        let below := x.slice (r.n + 1)
        y.jump = ((List.range x.parts).map norm).foldl normMax 0 ∧ y.swept = true ∧ y.roundOpen = false ∧ z.roundBelow = true ∧
        z.gen = (if differs then below.gen + 1 else below.gen) ∧ (differs = true → z.fine ≠ 1) ∧
        (t.set r.set).p = (if settled ∧ x.state = 1 then min x.h (max x.p (r.n + 2)) else x.p) ∧
        ∀ m, m ≠ r.n → m ≠ r.n + 1 → (t.set r.set).slice m = x.slice m)))

/-! ## Launches and instances -/

/-- SPAWN, LREAD and IDX (R119, R124, R137–R139): SPAWN reads a loop record, here for the single-instance table, and puts a child into the pool
of the core's die, into its context's overflow queue where the pool has no place left for it, whose entry in context memory then holds
the record, the table address and the launch number, each whole, in an order that is free (log 36), written as the plinth writes (log 7), or into neither, with the result 0, 1
or 2; without permission it traps 0x0004, and an invalid record 0x001A, one whose text lies outside main memory among them as the model reads it (log 75). That a child of the oldest launch goes to the overflow queue where the pool is full, too, is the model's choice (log 77). LREAD reads a field of the launch, and IDX the position at a
level: the index divided by the product of the inner extents of the same kind, modulo the extent. -/
def Obligations.WorkInstructions : Prop :=
  (∀ (s : State) (d a b : BitVec 5) (rl : Nat),
      let ra := s.sval a
      let x := s.ctxNow
      let die := s.curCore / 32
      let pool := s.tasks.pools.get [] die
      let ovf := s.tasks.ovf.get [] x
      let bs := readLocs s 0 rl 64
      let r := recOf bs (ctxField s x 0x0A 1 % 4)
      let child : Child := { ctx := x, lrec := r, tab := ⟨1, [⟨1, 1, true⟩]⟩, tabAddr := 0, by_ := s.me.owner.1, image := bs }
      let does (v : W64) (f : State → Prop) : Prop := ∃ t, exec (.spawn d a b) s = .next t ∧ Completes (s.q.pc + 1) s t ∧
        (∀ n, t.sval n = if n = 0 then 0 else if n = d then v else s.sval n) ∧ (∀ n, n ≠ s.curCore → t.core n = s.core n) ∧
        t.me.without [.seqs, .s] = s.me.without [.seqs, .s] ∧
        t = { s with cores := t.cores, tasks := t.tasks, mem := t.mem, lineKey := t.lineKey, poison := t.poison } ∧ f t
      let may := bitsOf (ctxField s x 0x0B 1) 1 1 = 1
      let oldest := oldestRunning s = some s.me.owner.1
      Unhindered s → s.me.mode ≠ .handler → s.curCore < 128 →
      (¬may → Traps (.spawn d a b) s 4 s.wordVal) ∧
      (may → ra.toNat % 64 ≠ 0 → Traps (.spawn d a b) s 5 ra) ∧
      (may → ra.toNat % 64 = 0 → 0x300000000 ≤ ra.toNat → ra.toNat < 0x400000000 → Traps (.spawn d a b) s 7 ra) ∧
      (may → ra.toNat % 64 = 0 → s.sval b = 0 → OwnAt s ra.toNat 64 rl → Clean s rl 64 →
        (recValid s x bs r = false → Traps (.spawn d a b) s 0x1A ra) ∧
        (recValid s x bs r = true → releasedAll s s.curCore s.curEng = false → Waits (.spawn d a b) s .release) ∧
        (recValid s x bs r = true → releasedAll s s.curCore s.curEng = true →
          (ovf = [] → pool.length < 960 ∨ (oldest ∧ pool.length < 1024) → does 0 (fun t => MemoryKept s t ∧
            (∀ k, t.tasks.pools.get [] k = if k = die then pool ++ [{ child with no := s.nonce }] else s.tasks.pools.get [] k) ∧
            t.tasks = { s.tasks with pools := t.tasks.pools })) ∧
          (ovf ≠ [] ∨ 1024 ≤ pool.length ∨ (960 ≤ pool.length ∧ ¬oldest) →
            (ovf.length < 2 ^ ctxField s x 0x28 1 → does 1 (fun t => t.tasks = { s.tasks with ovf := t.tasks.ovf, novf := t.tasks.novf } ∧
              (∃ (rest : List Byte) (l : List (List Byte)), rest.length = 48 ∧
                l.Perm ([bs, leBytes 8 0, leBytes 8 s.me.owner.1] ++ rest.map (fun b => [b])) ∧
                MemoryKept (plinthWrite s x (ctxField s x 0x20 8 + 128 * ((s.tasks.ovfHead.get 0 x + ovf.length) % 2 ^ ctxField s x 0x28 1)) l.flatten) t) ∧
              (∀ k, t.tasks.ovf.get [] k = if k = x then ovf ++ [child] else s.tasks.ovf.get [] k) ∧
              t.tasks.novf = min (s.tasks.novf + 1) (2 ^ 32 - 1))) ∧
            (2 ^ ctxField s x 0x28 1 ≤ ovf.length → does 2 (fun t => MemoryKept s t ∧ t.tasks = s.tasks)))))) ∧
  (∀ (s : State) (d n : BitVec 5),
      (s.me.inst = none ∨ s.curCore = 128 → Traps (.lread d n) s 1 s.wordVal ∧ Traps (.idx d n) s 1 s.wordVal) ∧
      (12 < n.toNat → Traps (.lread d n) s 1 s.wordVal) ∧ (3 < n.toNat → Traps (.idx d n) s 1 s.wordVal) ∧
      ∀ i, s.me.inst = some i → s.curCore ≠ 128 →
        let r := i.lrec
        let field : List Nat := [r.trips, r.args.toNat, i.cls, r.policy.toNat, r.textLen, i.launch, i.ctx, i.first, i.count, r.parent.toNat,
          r.tokens, i.tabAddr.toNat, i.again]
        (∀ v, field[n.toNat]? = some v → GivesS (.lread d n) s d (BitVec.ofNat 64 v)) ∧
        (n.toNat ≤ 3 → i.tab.levels[n.toNat]? = none → GivesS (.idx d n) s d 0) ∧
        ∀ l, n.toNat ≤ 3 → i.tab.levels[n.toNat]? = some l → (∀ y ∈ i.tab.levels, y.kind ≤ 2) →
          let inner := ((i.tab.levels.drop (n.toNat + 1)).filter (fun y => y.present ∧ y.kind = l.kind)).map (·.extent)
          let at_ := if l.kind = 1 then i.first else if l.kind = 2 then i.p else i.step
          GivesS (.idx d n) s d (BitVec.ofNat 64 (if l.present then at_ / inner.foldl (· * ·) 1 % l.extent else 0)))

/-- Acceptance, placement and staging (R16, R63, R115–R119, R122, R127–R129): before READY nothing is accepted. A head whose record or table is
invalid becomes a launch that completes with its status, be its queue's weight 0, the model's choice (log 92); a valid one is accepted once its cost is within its queue's deficit, which
each visit raises. A distributor places the first instance, by number and then, the model's choice (log 77), by die point, on the lowest core of its die that can
take it, in a partition that is zero but for what an earlier instance of the context left where the unit was last this context's
(R112) (log 19); where none can, the newcomer has
the running instance of greatest class and latest placement drained, killed or checkpointed. Staging fills the instruction memory and starts the sequencers, and an unreadable image ends the launch with status 2; that a poisoned word, and one
without X, is unreadable is the model's reading (log 75). -/
def Obligations.LaunchesArePlaced : Prop :=
  (∀ (s : State) (x q : Nat) (e : QEntry) (l : List QEntry),
      let k := 16 * x + q
      let u := s.queue k
      let num := s.tasks.lastNum + 1
      let got := readEntry s x e
      let accepts (z : Launch) : Prop := ∃ t, exec .launchAccept s = .next t ∧ t.tasks = { s.tasks with lastNum := num, launches := s.tasks.launches ++ [z] } ∧
        (t.queue k).pend = l ∧ (t.queue k).lastLaunch = num ∧ (t.queue k).head = u.head ∧ (∀ j, j ≠ k → t.queue j = s.queue j)
      let base : Launch := { num := num, ctx := x, queue := q, cls := 3, lrec := {}, tab := {}, compAddr := e.compAddr, flags := e.flags
                             compCtr := e.compCtr }
      let w := ctxField s x (0x14 + q) 1
      (s.plinth.stage ≠ 0xF ∨ s.tasks.master ∉ s.tasks.live → exec .launchAccept s = .next s) ∧
      (s.plinth.stage = 0xF → s.tasks.master ∈ s.tasks.live → x < 64 → q < 8 → ctxValid s x = true → u.pend = e :: l → e.read = none →
        s.launch? u.lastLaunch = none → (∀ j, j ≠ k → (s.queue j).pend = []) → (∀ d, d < 4 → s.tasks.pools.get [] d = []) →
        (∀ st, got = .inl st → accepts { base with stopped := true, status := st }) ∧
        (∀ r t, got = .inr (r, t) → w ≠ 0 → s.plinth.inVisit = false →
          let cost := min (2 ^ 32 - 1) (r.est * r.trips * (t.steps * t.nd * ((t.nc + t.grain - 1) / t.grain)))
          (cost ≤ u.deficit + 65536 * w → accepts { base with
            cls := r.cls, lrec := r, tab := t, tabAddr := e.tabAddr
            todo := if t.steps = 0 then [] else (List.range t.nd).flatMap (fun p => (List.range ((t.nc + t.grain - 1) / t.grain)).map (fun i =>
              ⟨p, i, s.tasks.live.getD (p % s.tasks.live.length) 4, 0⟩)) }) ∧
          (u.deficit + 65536 * w < cost → ∃ v, exec .launchAccept s = .next v ∧ v.tasks = s.tasks ∧ (v.queue k).deficit = u.deficit + 65536 * w)))) ∧
  (∀ (s : State) (d n b : Nat) (l m : Launch) (u : Unplaced),
      let c := s.core n
      let takes (k : Nat) : Prop := (s.core k).mayTake l.cls = true ∧ (roomAt s k l.ctx l.cls l.lrec.part).isSome = true
      let mine := 32 * d ≤ n ∧ n < 32 * d + 32
      let first := u.i * l.tab.grain
      (d ∉ s.tasks.live → exec (.instancePlace d) s = .next s) ∧
      (d ∈ s.tasks.live → s.tasks.launches = [l, m] → m.todo = [] → m.tab.steps ≤ m.step + 1 → m.num ≠ l.num → l.cls < 4 → u ∈ l.todo → u.die = d →
        (∀ v ∈ l.todo, v.die = d → v ≠ u → u.i < v.i ∨ (u.i = v.i ∧ u.p < v.p)) →
        (mine → (s.core n).mayTake l.cls = true → roomAt s n l.ctx l.cls l.lrec.part = some b → (∀ k, 32 * d ≤ k → k < n → ¬takes k) →
          ∃ t, exec (.instancePlace d) s = .next t ∧ (∀ k, k ≠ n → t.core k = s.core k) ∧
            t.tasks = { s.tasks with placedNo := s.tasks.placedNo + 1
                                     launches := [{ l with started := true, todo := l.todo.filter (fun v => v ≠ u) }, m] } ∧
            (t.core n).inst = some { launch := l.num, ctx := l.ctx, cls := l.cls, lrec := l.lrec, tab := l.tab, tabAddr := l.tabAddr, step := l.step
                                     p := u.p, i := u.i, first := first, count := min l.tab.nc (first + l.tab.grain) - first, base := b
                                     units := l.lrec.part, placed := s.tasks.placedNo + 1, again := u.again } ∧
            (t.core n).active = false ∧ (t.core n).mode = .run ∧ (∀ e : Eng, (t.core n).seq e = { pc := l.lrec.pro }) ∧
            (∀ k, k < 32 → (t.core n).s k = if k = 28 then BitVec.ofNat 64 first else if k = 29 then l.lrec.args else 0) ∧
            (∀ e : Eng, e ≠ .s → ∀ k, k < 16 → (t.core n).g e k = if k = 15 then l.lrec.args else 0) ∧
            (t.core n).slipw = BitVec.ofNat 4 l.lrec.slipw ∧ (t.core n).detmode = l.lrec.policy.getLsbD 4 ∧ (t.core n).events = {} ∧
            (t.core n).rings = {} ∧ (t.core n).npark = 0 ∧
            (∀ key a,
              let j := (a - 0x100000000) / 0x10000
              let given := 0x100000000 ≤ a ∧ 64 * n + b ≤ j ∧ j < 64 * n + b + l.lrec.part
              (¬given → memRead t key a = memRead s key a) ∧
              (given → memRead t key a = 0 ∨ (s.unitLast.get 0 j = l.ctx + 1 ∧ memRead t key a = memRead s key a))) ∧
            (∀ j, t.unitLast.get 0 j = if 64 * n + b ≤ j ∧ j < 64 * n + b + l.lrec.part then l.ctx + 1 else s.unitLast.get 0 j)) ∧
        (∀ i, mine → (∀ k, 32 * d ≤ k → k < 32 * d + 32 → ¬takes k) → (∀ e ∈ s.cores.entries, e.2.stopReq = none) →
          let victim (k : Nat) (j : Inst) : Prop := (s.core k).inst = some j ∧ (s.core k).active = true ∧ l.cls < j.cls ∧
            (roomAt s k l.ctx l.cls l.lrec.part).isSome = true
          let serves := (l.num, u.p, u.i)
          let pol := i.lrec.policy
          let iter := (match c.leader with
            | some e => (c.seqs.get {} e.tag).iter
            | none => (c.seqs.get {} 0).iter).toNat
          let drains := l.cls ≠ 0 ∧ pol.getLsbD 2 = true ∧ i.lrec.est * (i.lrec.trips - iter) ≤ s.tasks.preDrain
          let kills := pol.getLsbD 0 = true ∧ pol.getLsbD 3 = true ∧ (s.tasks.preKill.toNat ≤ l.lrec.tokens ∨ pol.getLsbD 1 = false)
          victim n i → (∀ k j, 32 * d ≤ k → k < 32 * d + 32 → k ≠ n → victim k j → j.cls < i.cls ∨ (j.cls = i.cls ∧ j.placed < i.placed)) →
          ∃ t, exec (.instancePlace d) s = .next t ∧
            (drains → t.core n = { c with stopReq := some { serves := serves, drain := true, since := s.cycle, budget := s.tasks.preDrain } } ∧
              t.tasks = s.tasks) ∧
            (¬drains → ¬kills → (∃ r, t.core n = { c with stopReq := some r } ∧ r.drain = false ∧ r.since = s.cycle ∧ r.serves = serves) ∧
              t.tasks = s.tasks) ∧
            (¬drains → kills → i.launch = m.num → m.stopped = false → (t.core n).inst = none ∧
              t.tasks.launches = [l, { m with todo := [⟨i.p, i.i, d, i.again + 1⟩] }] ∧ t.tasks.nkill = min (s.tasks.nkill + 1) 0xFFFF)))) ∧
  (∀ (s : State) (n : Nat) (i : Inst),
      let va (w : Nat) : Nat := i.lrec.text.toNat + 4 * w
      let readable (w : Nat) (e : TlbEnt) : Prop := walk s i.ctx (va w) = some e ∧ e.x = true ∧ s.poison.get false ((e.place s (va w)).1 / 128) = false
      (s.core n).inst = some i → (s.core n).active = false →
      ((∀ w, w < i.lrec.textLen → ∃ e, readable w e) → ∃ t, exec (.textStaging n) s = .next t ∧ (t.core n).active = true ∧
        (t.core n).inst = some i ∧ (∀ k, k ≠ n → t.core k = s.core k) ∧ t = { s with cores := t.cores, imem := t.imem } ∧
        (∀ w e, w < i.lrec.textLen → readable w e → t.imem.get 0 (65536 * n + w) = BitVec.ofNat 32 (readNat s (e.place s (va w)).2 (e.place s (va w)).1 4)) ∧
        ∀ a, a < 65536 * n ∨ 65536 * n + i.lrec.textLen ≤ a → t.imem.get 0 a = s.imem.get 0 a) ∧
      ((∃ w, w < i.lrec.textLen ∧ ∀ e, ¬readable w e) → ∃ t, exec (.textStaging n) s = .next t ∧ (t.core n).inst = none ∧
        t.tasks.launches = s.tasks.launches.map (fun l => if l.num = i.launch then
          { l with stopped := true, todo := [], status := if l.stopped then l.status else 2 } else l)))

/-- The ends of instances and launches, and overflow queues (R80, R115, R125, R126, R161, R219, R316): an instance whose sequencers have all
executed ENDT and of which nothing is outstanding retires, its core is free and TILE_ABS is clear; a write of it that failed is
delivered at the ENDT of its sequencer. That entries which the stop of another instance has saved do not keep it is the model's reading
(log 33). A launch of which every instance has retired writes its completion record where it has one,
adds to its counter and raises its vector, in this order, and is gone; an index at or beyond the context's count of counters adds
nothing, the model's choice (log 18). The head of the overflow queue of the lowest
context that has one moves to a pool with room. -/
def Obligations.InstancesAndLaunchesEnd : Prop :=
  (∀ (s : State) (n : Nat) (i : Inst),
      let c := s.core n
      let key := (i.launch, i.placed)
      let failed (p : Parked) : Prop := p.owner = key ∧ p.failed = true ∧ (c.seqs.get {} p.eng).ended = true
      let past := ∀ e : Eng, (c.seqs.get {} e.tag).ended = true
      let nothing := (∀ p ∈ c.replay, p.owner ≠ key ∧ p.failed = true) ∧ (∀ a ∈ s.accs, a.owner ≠ key) ∧ (∀ o ∈ c.copies, o.owner ≠ key) ∧
        (∀ o ∈ c.bmvs, o.owner ≠ key) ∧ (∀ d ∈ s.fabric.sends, d.owner = key → d.st ≠ 0) ∧ ∀ b ∈ s.fabric.bulks, b.owner ≠ key
      c.inst = some i → c.active = true → c.mode = .run → c.trapPend = none → c.abandon = none →
      (¬past → (∀ p ∈ c.replay, ¬failed p) → exec (.instanceEnd n) s = .next s) ∧
      ((∃ a ∈ s.accs, a.owner = key) ∨ (∃ p ∈ c.replay, p.failed = false) → (∀ p ∈ c.replay, ¬failed p) → exec (.instanceEnd n) s = .next s) ∧
      (∀ p l, c.replay = p :: l → failed p → (∀ q ∈ l, q.id ≠ p.id) → p.eng < 5 →
        (forestalled s n (Eng.ofTag p.eng) = none → exec (.instanceEnd n) s =
          .next (raise (s.setCore n { c with replay := l }) n (Eng.ofTag p.eng) p.cause p.va false)) ∧
        ∀ e z a, forestalled s n (Eng.ofTag p.eng) = some (e, z, a) → exec (.instanceEnd n) s = .next (raise s n e z a false)) ∧
      (past → nothing → ∃ t, exec (.instanceEnd n) s = .next t ∧ MemoryKept s t ∧ (t.core n).inst = none ∧ (t.core n).active = false ∧
        (t.core n).tileAbs = 0 ∧ (t.core n).tile = c.tile ∧ (t.core n).tileSt = c.tileSt ∧ (t.core n).npark = c.npark ∧ (t.core n).parked = c.parked ∧
        t.tasks = { s.tasks with launches := s.tasks.launches.map (fun l => if l.num = i.launch then { l with retired := l.retired + 1 } else l) } ∧
        (i.tokens = [] → (∀ k, k < 16 → (s.set k).state = 0 ∨ (s.set k).opener.2 ≠ key) → t.slices = s.slices))) ∧
  (∀ (s : State) (l : Launch) (e : TlbEnt),
      let idx := bitsOf l.compCtr 0 12
      let par := bitsOf l.lrec.parent.toNat 0 12
      let counted (j : Nat) (t : State) : Prop := ∀ m, t.tasks.counters.get 0 m =
        if j < ctxField s l.ctx 0x10 2 ∧ m = ctxField s l.ctx 0x0E 2 + j then s.tasks.counters.get 0 m + 1 else s.tasks.counters.get 0 m
      let does (f : State → Prop) : Prop := ∃ t, exec (.launchComplete l.num) s = .next t ∧ t.cores = s.cores ∧
        t.tasks.launches = s.tasks.launches.filter (fun x => x.num ≠ l.num) ∧
        t.plinth.msix = s.plinth.msix ++ (if l.queue < 8 ∧ bitsOf l.flags 1 1 = 1 then [8 * l.ctx + l.queue] else []) ∧ f t
      s.tasks.launches.find? (fun x => x.num = l.num) = some l → l.desc = none →
      (launchDone s l = false → exec (.launchComplete l.num) s = .next s) ∧
      (launchDone s l = true →
        (l.queue < 8 → l.compAddr = 0 ∨ l.compAddr.toNat % 16 ≠ 0 → does (fun t => MemoryKept s t ∧
          (bitsOf l.compCtr 15 1 = 1 → counted idx t) ∧ (bitsOf l.compCtr 15 1 = 0 → t.tasks.counters = s.tasks.counters))) ∧
        (l.queue < 8 → l.compAddr.toNat % 16 = 0 → walk s l.ctx l.compAddr.toNat = some e → e.w = true → does (fun t =>
          Holds t (e.place s l.compAddr.toNat).2 (e.place s l.compAddr.toNat).1
            (leBytes 2 l.status ++ leBytes 2 0 ++ leBytes 4 (min l.retired (2 ^ 32 - 1)) ++ leBytes 8 l.num) ∧
          (bitsOf l.compCtr 15 1 = 1 → counted idx t))) ∧
        (8 ≤ l.queue → does (fun t => MemoryKept s t ∧ (l.lrec.parent.getLsbD 31 = true → counted par t) ∧
          (l.lrec.parent.getLsbD 31 = false → t.tasks.counters = s.tasks.counters))))) ∧
  (∀ (s : State) (d x : Nat) (ch : Child) (l : List Child), s.tasks.ovf.get [] x = ch :: l →
      let pool := s.tasks.pools.get [] d
      (d ∉ s.tasks.live ∨ 960 ≤ pool.length ∨ (∃ y ∈ s.tasks.ovf.keys, y < x) → exec (.overflowMove d x) s = .next s) ∧
      (d ∈ s.tasks.live → pool.length < 960 → (∀ y ∈ s.tasks.ovf.keys, x ≤ y) → ∃ t, exec (.overflowMove d x) s = .next t ∧
        (∀ y, t.tasks.ovf.get [] y = if y = x then l else s.tasks.ovf.get [] y) ∧
        (∀ k, t.tasks.pools.get [] k = if k = d then pool ++ [{ ch with no := s.nonce }] else s.tasks.pools.get [] k) ∧
        (∀ y, t.tasks.ovfHead.get 0 y = if y = x then (s.tasks.ovfHead.get 0 x + 1) % 2 ^ ctxField s x 0x28 1 else s.tasks.ovfHead.get 0 y) ∧
        t = { s with tasks := { s.tasks with ovf := t.tasks.ovf, ovfHead := t.tasks.ovfHead, pools := t.tasks.pools } }))

/-- Stops and resumptions (R129–R133, R219, R340, R344–R346): a drain beyond its budget becomes a checkpoint. A checkpoint that all
sequencers have reached, and a checkpoint that is not complete after SPDMAX cycles, which cuts every sequencer at once, stop the
instance at word boundaries once its ordinary accesses are performed; a cut within a rebuild stub saves the stub's word, and a forced cut comes before the wait for accesses, as the model reads both (log 68): its record in the save buffer holds its counters, its flags and its registers, a pc of 65,536 as 0, the model's choice (log 94), its tiles are
held, and the core is free. With nothing before it, the instance stopped last is restored from its record with one more in its count of
resumptions; that S at another word waits no longer on its arrival at a barrier (log 91, the model's choice), that a waiting newcomer of lower class number holds it back (log 58), and what NCKPT and NFORCE count (log 59), are the model's
readings. Firmware's commands let an escalated instance resume, or discard it and end its launch with status 4. -/
def Obligations.StopsAndResumptions : Prop :=
  (∀ (s : State) (n : Nat) (r : StopReq), (s.core n).stopReq = some r → r.drain = true → (s.core n).mode ≠ .handler →
      (s.cycle < r.since + r.budget → exec (.drainBudgetExpiry n) s = .next s) ∧
      (r.since + r.budget ≤ s.cycle → ∃ t y, exec (.drainBudgetExpiry n) s = .next t ∧ t = { s with cores := t.cores } ∧
        (∀ k, k ≠ n → t.core k = s.core k) ∧ t.core n = { s.core n with stopReq := some y } ∧ y.drain = false ∧ y.since = s.cycle ∧
        y.serves = r.serves)) ∧
  (∀ (s : State) (n : Nat) (r : StopReq) (i : Inst),
      let c := s.core n
      let q (e : Eng) : SeqState := c.seqs.get {} e.tag
      let prefixes (e : Eng) : Nat := if (q e).pfx = [] then 0 else (q e).pfx.length
      let at_ (o : Nat) : Nat := 0x100000000 + n * 0x400000 + 63 * 0x10000 + o
      let word (t : State) (o k : Nat) : Nat := readNat t 0 (at_ o) k
      let parked (t : State) (forced : Bool) : Prop := (t.core n).inst = none ∧ (t.core n).active = false ∧ (t.core n).stopReq = none ∧
        (∃ p, (t.core n).parked = some p ∧ p.inst = i ∧ p.escalated = false ∧ p.spilled = false ∧ p.rings = c.rings ∧
          p.replay = c.replay.filter (fun x => x.owner = c.owner)) ∧ (t.core n).replay = c.replay.filter (fun x => x.owner ≠ c.owner) ∧
        (∀ k, k ≠ n → t.core k = s.core k) ∧
        word t 0 4 = 1 ∧ (word t 4 4).testBit 0 = forced ∧ word t 0x98 8 = i.launch % 2 ^ 64 ∧
        (∀ b, i.bind = some b → word t 0x90 8 % 2 ^ 17 = 2 ^ 16 + b.abandon % 2 ^ 16) ∧
        (∀ e : Eng, word t (0x20 + 4 * e.tag) 4 = (q e).cc.toNat ∧ word t (0x38 + 4 * e.tag) 4 = (q e).iter.toNat ∧
          word t (0x10 + 2 * e.tag) 2 = (if (q e).pfx = [] then (q e).pc else (q e).pfxPc) % 2 ^ 16 ∧
          word t (0x50 + 4 * e.tag) 4 = ((q e).wc - BitVec.ofNat 24 (prefixes e)).toNat) ∧
        (∀ k, k < 32 → word t (0x100 + 8 * k) 8 = (c.sreg.get 0 k).toNat) ∧
        (∀ e : Eng, e ≠ .s → ∀ k, k < 16 → word t (0x200 + 8 * (16 * (e.tag - 1) + k)) 8 = (c.greg.get 0 (16 * e.tag + k)).toNat) ∧
        (∀ k, k < 16 → c.tileSt.get .free k = .active → c.tileOwner.get 0 k = i.ctx → c.tileAbs.getLsbD k = false →
          (t.core n).tileSt.get .free k = .held ∧ (t.core n).tile.get {} k = c.tile.get {} k)
      n < 128 → c.stopReq = some r → r.drain = false → c.inst = some i → c.active = true → c.mode = .run → c.trapPend = none → c.abandon = none →
      c.parked = none → i.overlay = false →
      (s.cycle < r.since + c.spdmax → exec (.forcedCut n) s = .next s) ∧
      ((∃ a ∈ s.accs, a.n = n ∧ a.atCore = false) → exec (.checkpointComplete n) s = .next s ∧
        (r.since + c.spdmax ≤ s.cycle → exec (.forcedCut n) s = .next (s.setCore n { c.cutAll with stopReq := some { r with cut := true } }))) ∧
      ((∀ a ∈ s.accs, a.n = n → a.atCore = true) →
        (∀ k, r.k = some k → r.cut = false → i.lrec.spTab = 0 → (∀ e, (q e).ended = true ∨ k.toNat ≤ (q e).cc.toNat) →
          ∃ t, exec (.checkpointComplete n) s = .next t ∧ parked t false ∧ word t 8 2 = r.index % 2 ^ 16 ∧
            t.tasks = { s.tasks with nckpt := min (s.tasks.nckpt + 1) 0xFFFF }) ∧
        (r.cut = true ∨ r.k = none ∨ (∃ k e, r.k = some k ∧ (q e).ended = false ∧ (q e).cc.toNat < k.toNat) → exec (.checkpointComplete n) s = .next s) ∧
        (r.since + c.spdmax ≤ s.cycle → ∃ t, exec (.forcedCut n) s = .next t ∧ parked t true ∧
          t.tasks = { s.tasks with nforce := min (s.tasks.nforce + 1) 0xFFFF }))) ∧
  (∀ (s : State) (n : Nat) (r : StopReq) (i : Inst),
      let c := s.core n
      let q := c.seqs.get {} 0
      let word (t : State) (o k : Nat) : Nat := readNat t 0 (0x100000000 + n * 0x400000 + 63 * 0x10000 + o) k
      n < 128 → c.stopReq = some r → r.drain = false → c.inst = some i → c.active = true → c.mode = .stub → c.trapPend = none →
      c.abandon = none → c.parked = none → i.overlay = false → r.since + c.spdmax ≤ s.cycle → (∀ a ∈ s.accs, a.n = n → a.atCore = true) →
      ∃ t, exec (.forcedCut n) s = .next t ∧ (t.core n).inst = none ∧ (word t 4 4).testBit 1 = true ∧
        word t 0x0C 4 = (if q.pfx = [] then q.pc else q.pfxPc) % 2 ^ 32 ∧ word t 0x10 2 = c.stubPc % 2 ^ 16) ∧
  (∀ (s : State) (n : Nat) (p : Stopped),
      let c := s.core n
      let key := (p.inst.launch, p.inst.placed)
      let word (o k : Nat) : Nat := readNat s 0 (0x100000000 + n * 0x400000 + 63 * 0x10000 + o) k
      n < 128 → c.parked = some p → c.spilled = [] → c.inst = none →
      (p.escalated = true → exec (.instanceResume n) s = .next s) ∧
      (p.escalated = false → ((∃ o ∈ c.copies, o.owner = key ∧ stuck c o = false) ∨ newcomerFor s n p.inst.cls = true) → exec (.instanceResume n) s = .next s) ∧
      (p.escalated = false → newcomerFor s n p.inst.cls = false → (∀ o ∈ c.copies, o.owner = key → stuck c o = true) → (∀ o ∈ c.bmvs, o.owner ≠ key) →
        (∀ d ∈ s.fabric.sends, d.owner ≠ key) → (∀ b ∈ s.fabric.bulks, b.owner ≠ key) → (∀ a ∈ s.accs, a.owner ≠ key) → p.spilled = false →
        p.restage = false → p.inst.bind = none → (word 4 4).testBit 1 = false → (word 4 4).testBit 3 = false →
        ∃ t, exec (.instanceResume n) s = .next t ∧ (t.core n).parked = none ∧ (t.core n).inst = some { p.inst with
            again := p.inst.again + 1, barw := p.inst.barw.filter (fun b => b.pc = word 0x10 2) } ∧
          (t.core n).active = true ∧ (t.core n).mode = .run ∧ (∀ k, k ≠ n → t.core k = s.core k) ∧ t = { s with cores := t.cores } ∧
          (∀ e : Eng, let y := (t.core n).seq e
            y.pc = word (0x10 + 2 * e.tag) 2 ∧ y.cc = BitVec.ofNat 32 (word (0x20 + 4 * e.tag) 4) ∧ y.iter = BitVec.ofNat 32 (word (0x38 + 4 * e.tag) 4) ∧
            y.wc = BitVec.ofNat 24 (word (0x50 + 4 * e.tag) 4) ∧ y.ended = (word 4 4).testBit (6 + e.tag) ∧
            ∀ x : Eng, y.vclk.get x = BitVec.ofNat 24 (word (0x50 + 4 * x.tag) 4)) ∧
          (∀ k, k < 32 → k ≠ 0 → (t.core n).s k = if p.live.s.getLsbD k then BitVec.ofNat 64 (word (0x100 + 8 * k) 8) else 0) ∧
          (∀ l m, l < 256 → m < 32 → p.live.v.getLsbD m = true → ((t.core n).vreg.get {} m).lane l = BitVec.ofNat 32 (word (0x7000 + 1024 * m + 4 * l) 4)) ∧
          ∀ k, k < 16 → (word 0x6C 2).testBit k = true → (word 0x6E 2).testBit k = false →
            c.tileSt.get .free k = .held → c.tileOwner.get 0 k = p.inst.ctx →
            (t.core n).tileSt.get .free k = .active ∧ (t.core n).tile.get {} k = c.tile.get {} k)) ∧
  (∀ (s : State) (n : Nat) (p : Stopped), (s.core n).parked = some p →
      (p.escalated = false → (∀ q ∈ (s.core n).spilled, q.escalated = false) →
        exec (.coreCmdResume n) s = .next s ∧ exec (.coreCmdTerminate n) s = .next s) ∧
      (p.escalated = true →
        (∃ t, exec (.coreCmdResume n) s = .next t ∧ t = { s with cores := t.cores } ∧ (∀ k, k ≠ n → t.core k = s.core k) ∧
          (t.core n).parked = some { p with escalated := false } ∧ (t.core n).escPend = false ∧ (t.core n).inst = (s.core n).inst) ∧
        ∃ t, exec (.coreCmdTerminate n) s = .next t ∧ (t.core n).parked = none ∧ (t.core n).escPend = false ∧ MemoryKept s t ∧
          t.tasks.launches = s.tasks.launches.map (fun l => if l.num = p.inst.launch then
            { l with stopped := true, todo := [], status := if l.stopped then l.status else 4 } else l)))

/-- Contexts, submission queues and fenced dies (R110, R120, R121, R349, R350, R356): the valid bit is set where the descriptor breaks no
limit; otherwise TASK_STAT records 0x001A. Clearing it discards the context's instances and children and ends its launches with
status 5, whatever they had before, as the model reads it (log 60), and those of accepted children too, the model's choice (log 92). A notify to an open queue moves its tail, and every entry whose sequence number matches is consumed; a queue whose head
has not matched for 1 ms, nor when it is read once more, halts, sets INT_PEND bit 4 and raises vector 513, until HALTED is cleared. A fenced die's instances of reissuable
launches are placed again, other launches complete with status 1, and its children move to the master's pool, behind its own and in their order (log 77), and those that find no
place there to the front of their contexts' overflow queues, beyond the ring's capacity if need be (log 92), both the model's choice; what becomes of its cores and of the overflow head is the model's
reading (log 60). A device whose firmware failed its signature hears no notify (R353). -/
def Obligations.ContextsAndQueues : Prop :=
  (∀ (s : State) (x : Nat),
      let at_ := 64 * x + 0xB
      let bit (v : Byte) (t : State) : Prop := ∀ a, t.plinth.ctxTab.get 0 a = if a = at_ then v else s.plinth.ctxTab.get 0 a
      let b := s.plinth.ctxTab.get 0 at_
      let desc := (List.range 64).map (fun o => s.plinth.ctxTab.get 0 (64 * x + o))
      let field (o n : Nat) : Nat := ctxField s x o n
      let legal := field 8 2 < 448 ∧ field 0xA 1 < 4 ∧ field 0xB 1 < 4 ∧ 1 ≤ field 0xC 1 ∧ field 0xC 1 ≤ 8 ∧ field 0xE 2 < 4096 ∧
        field 0xE 2 + field 0x10 2 ≤ 4096 ∧ field 0x12 1 < 64 ∧ field 0x12 1 + field 0x13 1 ≤ 64 ∧ field 0x1C 4 = 0 ∧ field 0x20 8 % 128 = 0 ∧
        4 ≤ field 0x28 1 ∧ field 0x28 1 ≤ 20 ∧ field 0x29 7 = 0 ∧ field 0x30 8 % 65536 = 0 ∧ field 0x38 8 = 0
      let mine (q : Nat) : Prop := q / 16 = x ∧ q % 16 < 8
      (b.getLsbD 0 = true → exec (.contextValidSet x) s = .next s) ∧ (b.getLsbD 0 = false → exec (.contextValidClear x) s = .next s) ∧
      (b.getLsbD 0 = false → legal → ∃ t, exec (.contextValidSet x) s = .next t ∧ bit (b ||| 1#8) t ∧
        t = { s with plinth := { s.plinth with ctxTab := t.plinth.ctxTab } }) ∧
      (b.getLsbD 0 = false → ¬legal → exec (.contextValidSet x) s = .next { s with tasks := { s.tasks with cause := 0x1A } }) ∧
      (b.getLsbD 0 = true → x < 64 → ∃ t, exec (.contextValidClear x) s = .next t ∧ bit (b &&& 0xFE#8) t ∧ MemoryKept s t ∧
        t = { s with cores := t.cores, accs := t.accs, slices := t.slices, sliceCnt := t.sliceCnt, tasks := t.tasks, plinth := t.plinth } ∧
        t.plinth = { s.plinth with ctxTab := t.plinth.ctxTab, queues := t.plinth.queues } ∧
        (∀ n, (∀ i ∈ (t.core n).insts, i.ctx ≠ x) ∧
          (t.core n).inst = if (s.core n).inst.any (fun i => i.ctx = x) = true then none else (s.core n).inst) ∧
        (∀ d, t.tasks.pools.get [] d = if d < 4 then (s.tasks.pools.get [] d).filter (fun ch => ch.ctx ≠ x) else s.tasks.pools.get [] d) ∧
        (∀ y, t.tasks.ovf.get [] y = if y = x then [] else s.tasks.ovf.get [] y) ∧
        (∀ q, t.queue q = if mine q then { s.queue q with pend := [], check := none } else s.queue q) ∧
        (∃ l : List Launch, t.tasks.launches = s.tasks.launches.map (fun l => if l.ctx = x then
            { l with stopped := true, todo := [], status := 5, desc := some desc } else l) ++ l ∧
          l.length = ((List.range 8).map (fun q => (s.queue (16 * x + q)).pend.length)).sum ∧
          (∀ k y, l[k]? = some y → y.num = s.tasks.lastNum + 1 + k ∧ y.ctx = x ∧ y.queue < 8 ∧ y.stopped = true ∧ y.todo = [] ∧ y.status = 5 ∧
            y.desc = some desc) ∧
          t.tasks.lastNum = s.tasks.lastNum + l.length))) ∧
  (∀ (s : State) (x q tail : Nat) (relaxed : Bool) (es : List (Nat × Byte)),
      let k := 16 * x + q
      let u := s.queue k
      let open_ := ctxValid s x = true ∧ q < ctxField s x 0x0C 1
      let queueIs (v : Queue) (t : State) : Prop := ∀ j, t.queue j = if j = k then v else s.queue j
      let sane := u.head < 64 ∧ 1 ≤ u.nextSeq ∧ u.nextSeq < 65536
      let hosts (t : State) : Prop :=
        (∀ a, (∀ e ∈ es, 0x8000 * x + 0x1000 * q + e.1 ≠ a) → t.plinth.qentry.get 0 a = s.plinth.qentry.get 0 a) ∧
        (∀ e ∈ es, (∀ y ∈ es, y.1 = e.1 → y = e) → t.plinth.qentry.get 0 (0x8000 * x + 0x1000 * q + e.1) = e.2) ∧
        t.plinth.nrelax = (if relaxed then min (s.plinth.nrelax + 1) 0xFFFFFFFF else s.plinth.nrelax) ∧
        t = { s with plinth := { s.plinth with qentry := t.plinth.qentry, nrelax := t.plinth.nrelax, queues := t.plinth.queues } }
      (s.plinth.stage = 0xE → exec (.notify x q tail relaxed es) s = .next s) ∧
      (s.plinth.stage ≠ 0xE → ¬open_ → ∃ t, exec (.notify x q tail relaxed es) s = .next t ∧ hosts t ∧ t.plinth.queues = s.plinth.queues) ∧
      (s.plinth.stage ≠ 0xE → open_ → u.halted = true → ∃ t, exec (.notify x q tail relaxed es) s = .next t ∧ hosts t ∧ queueIs { u with tail := tail, check := none } t) ∧
      (s.plinth.stage ≠ 0xE → open_ → u.halted = false → sane → tail < 64 → ∃ t n v, exec (.notify x q tail relaxed es) s = .next t ∧ hosts t ∧ queueIs v t ∧
        Consumes t x q n { u with tail := tail } v) ∧
      (¬open_ ∨ u.check = none → exec (.sequenceRecheck x q) s = .next s) ∧
      (open_ → u.check ≠ none → u.halted = false → sane → u.tail < 64 → ∃ t n v, exec (.sequenceRecheck x q) s = .next t ∧ queueIs v t ∧
        Consumes t x q n u v ∧ t = { s with plinth := { s.plinth with queues := t.plinth.queues } }) ∧
      (u.check = none ∨ (∃ c, u.check = some c ∧ s.cycle < c + 1050000) → exec (.queueHalt x q) s = .next s) ∧
      (∀ c, u.check = some c → c + 1050000 ≤ s.cycle → open_ → u.halted = false → sane → u.tail < 64 →
        ∃ n v, Consumes s x q n u v ∧ (n ≠ 0 → ∃ t, exec (.queueHalt x q) s = .next t ∧ queueIs v t ∧
          t = { s with plinth := { s.plinth with queues := t.plinth.queues } })) ∧
      (∀ c, u.check = some c → c + 1050000 ≤ s.cycle →
        ¬open_ ∨ u.halted = true ∨ (open_ ∧ sane ∧ u.tail < 64 ∧ ∃ v, Consumes s x q 0 u v) → ∃ t, exec (.queueHalt x q) s = .next t ∧
        queueIs { u with halted := true, check := none } t ∧
        t = { s with plinth := { s.plinth with queues := t.plinth.queues, intPend := s.plinth.intPend ||| 0x10#8, msix := s.plinth.msix ++ [513] } }) ∧
      (¬open_ → ∃ t, exec (.qstatHaltedClear x q) s = .next t ∧ queueIs { u with halted := false } t ∧
        t = { s with plinth := { s.plinth with queues := t.plinth.queues } }) ∧
      (open_ → sane → u.tail < 64 → ∃ t n v, exec (.qstatHaltedClear x q) s = .next t ∧ queueIs v t ∧
        Consumes t x q n { u with halted := false } v ∧ t = { s with plinth := { s.plinth with queues := t.plinth.queues } })) ∧
  (∀ (s : State) (d : Nat),
      let live := s.tasks.live.filter (fun y => y ≠ d)
      let target (p : Nat) : Nat := live.getD (p % live.length) 4
      let pool (y : Nat) : List Child := s.tasks.pools.get [] y
      (d ∉ s.tasks.live → exec (.dieFence d) s = .next s) ∧
      (d ∈ s.tasks.live → ∃ t, exec (.dieFence d) s = .next t ∧ t.tasks.live = live ∧ Logged s t 8 0xFF 0 d 0 0 ∧
        t.plinth.butLog = s.plinth.butLog ∧
        t = { s with cores := t.cores, accs := t.accs, slices := t.slices, sliceCnt := t.sliceCnt, tasks := t.tasks, plinth := t.plinth
                     mem := t.mem, lineKey := t.lineKey, poison := t.poison } ∧
        t.tasks = { s.tasks with live := live, launches := t.tasks.launches, pools := t.tasks.pools, ovf := t.tasks.ovf
                                 ovfHead := t.tasks.ovfHead } ∧
        (∀ n, n / 32 = d → t.core n = {}) ∧ (∀ n, n / 32 ≠ d → (t.core n).inst = (s.core n).inst) ∧
        t.tasks.launches.length = s.tasks.launches.length ∧
        (∀ (k : Nat) (l : Launch), s.tasks.launches[k]? = some l → ∃ y : Launch, t.tasks.launches[k]? = some y ∧
          let gone := ((List.range 32).flatMap (fun j => (s.core (32 * d + j)).insts)).filter (fun i => i.launch = l.num)
          let concerned := gone ≠ [] ∨ ∃ u ∈ l.todo, u.die = d
          (¬concerned → y = l) ∧
          (concerned → l.lrec.policy.getLsbD 3 = false → y = { l with stopped := true, todo := [], status := 1 }) ∧
          (concerned → l.lrec.policy.getLsbD 3 = true → l.stopped = true → y = l) ∧
          (concerned → l.lrec.policy.getLsbD 3 = true → l.stopped = false → y = { l with
            todo := l.todo.map (fun u => if u.die = d then { u with die := target u.p } else u) ++
              gone.map (fun i => ⟨i.p, i.i, target i.p, i.again + 1⟩) })) ∧
        (live = [] → MemoryKept s t ∧ t.tasks.pools = s.tasks.pools ∧ t.tasks.ovf = s.tasks.ovf ∧ t.tasks.ovfHead = s.tasks.ovfHead) ∧
        (∀ m l, live = m :: l → let room := 1024 - (pool m).length
          ((pool d).length ≤ room → MemoryKept s t) ∧
          (∀ y, y < 64 → let k := (((pool d).drop room).filter (fun ch => ch.ctx = y)).length
            let cap := 2 ^ ctxField s y 0x28 1
            t.tasks.ovfHead.get 0 y = if k = 0 then s.tasks.ovfHead.get 0 y else (s.tasks.ovfHead.get 0 y + cap - k % cap) % cap) ∧
          (∀ y, t.tasks.pools.get [] y = if y = d then [] else if y = m then pool m ++ (pool d).take room else pool y) ∧
          ∀ y, y < 64 → t.tasks.ovf.get [] y = ((pool d).drop room).filter (fun ch => ch.ctx = y) ++ s.tasks.ovf.get [] y)) ∧
      (s.tasks.live = [] → exec .masterElection s = .next s) ∧
      (s.tasks.live ≠ [] → s.tasks.live.Pairwise (· < ·) → ∃ m, exec .masterElection s = .next { s with tasks := { s.tasks with master := m } } ∧
        m ∈ s.tasks.live ∧ ∀ y ∈ s.tasks.live, m ≤ y))

/-- The plinth's blocks (R153, R157, R258, R335, R351, R353–R355, R357, R360): a link key slot set valid restarts its packet counter; the
lifetime store commits its staging copy as it stands at completion, or refuses, within 3,600 s of the last acceptance among others, both the model's choice (log 97); a measurement register extends by SHA-256, its byte 0 the digest's first, the model's choice (log 62), M0 and M1 from the ROM only; a request
in the mailbox sets INT_PEND bit 3, and firmware's answer gives the report, STATUS and vector 512; power-good puts the image into the
service core's scratchpad, measures it with SHA-256 and starts firmware unless the signature fails, after which BOOT_STAT alone reads, and FTIME starts again with its dates (log 61) and every ring's MON is sampled anew (log 81), both the model's choice; a sample beyond
the limit or at 100 °C raises its interrupt, and vector 513 where the condition first becomes true, the model's choice (log 63), and at 110 °C fences the die; the issue allowance moves by one per ms
between 4 and 16; and BAR2 reaches memory at base + offset under its key slot as that stands, the model's choice (log 97), and nothing through a disabled window, whose registers the host stores in
BAR0. Where the image lies and when firmware answers are the model's choice, inputs of the events (log 61), and a host's stores come with the access
that follows them (log 84). -/
def Obligations.PlinthBlocks : Prop :=
  (∀ (s : State) (k : Nat) (v : Bool), ∃ t, exec (.keySlotValid k v) s = .next t ∧
      (∀ j, t.plinth.keyVal.get false j = if j = k then v else s.plinth.keyVal.get false j) ∧
      (∀ j, t.fabric.lkey.get {} j = if j = k ∧ v = true ∧ 448 ≤ k then { s.fabric.lkey.get {} k with counter := 0 } else s.fabric.lkey.get {} j) ∧
      t = { s with plinth := { s.plinth with keyVal := t.plinth.keyVal }, fabric := { s.fabric with lkey := t.fabric.lkey } }) ∧
  (∀ s : State,
      let p := s.plinth
      let refused := p.ltsBusy = true ∨ (∃ f, p.ltsLast = some f ∧ s.ftime < f + 3600000000000) ∨ 2 ^ 20 ≤ p.ncommit
      (refused → exec .ltsCommit s = .next { s with plinth := { p with ltsRefused := true } }) ∧
      (¬refused → exec .ltsCommit s = .next { s with plinth := { p with ltsBusy := true, ltsRefused := false, ltsLast := some s.ftime } }) ∧
      (p.ltsBusy = false → exec .ltsCommitComplete s = .next s) ∧
      (p.ltsBusy = true → exec .ltsCommitComplete s = .next { s with plinth := { p with
        ltsBusy := false, committed := p.staging, ncommit := p.ncommit + 1 } })) ∧
  (∀ (s : State) (r : Nat) (d : BitVec 256) (rom : Bool),
      let m := s.plinth.meas.get 0
      ((rom = true ↔ 2 ≤ r) → exec (.measurementExtend r d rom) s = .next s) ∧
      ((rom = true ↔ r ≤ 1) → ∃ t, exec (.measurementExtend r d rom) s = .next t ∧
        (∀ j, t.plinth.meas.get 0 j = if j = r then extendBy (m r) d else m j) ∧ t = { s with plinth := { s.plinth with meas := t.plinth.meas } })) ∧
  (∀ (s : State) (cmd : Nat) (ns : List Byte),
      let asked := leNat ((List.range 4).map (fun i => s.plinth.mailbox.get 0 i))
      (s.plinth.stage = 0xE → ∀ b, exec (.attestationRequest cmd b) s = .next s) ∧
      (s.plinth.stage ≠ 0xE →
        (∃ t, exec (.attestationRequest cmd (some ns)) s = .next t ∧
          (∀ a, t.plinth.mailbox.get 0 a = if a < 4 then BitVec.ofNat 8 (cmd / 256 ^ a) else if a < 8 then 0
            else if 0x40 ≤ a ∧ a < 0x40 + ns.length then ns.getD (a - 0x40) 0 else s.plinth.mailbox.get 0 a) ∧
          t = { s with plinth := { s.plinth with mailbox := t.plinth.mailbox, intPend := s.plinth.intPend ||| 8#8 } }) ∧
        ∃ t, exec (.attestationRequest cmd none) s = .next t ∧
          t = { s with plinth := { s.plinth with mailbox := t.plinth.mailbox, msix := s.plinth.msix ++ [512] } } ∧
          let byte (a : Nat) : Byte := t.plinth.mailbox.get 0 a
          let field (o n : Nat) : Nat := leNat ((List.range n).map (fun i => byte (0x100 + o + i)))
          (∀ a, a < 4 ∨ (8 ≤ a ∧ a < 0x100) ∨ 0x2C0 ≤ a → byte a = s.plinth.mailbox.get 0 a) ∧
          (asked ≠ 1 → leNat ((List.range 4).map (fun i => byte (4 + i))) = 1 ∧ ∀ a, 8 ≤ a → byte a = s.plinth.mailbox.get 0 a) ∧
          (asked = 1 → leNat ((List.range 4).map (fun i => byte (4 + i))) = 2 ∧ field 0 4 = 1 ∧ field 4 4 = 0xB0 ∧
            field 8 8 = s.plinth.fwver.toNat ∧ (∀ i, i < 32 → byte (0x120 + i) = s.plinth.mailbox.get 0 (0x40 + i)) ∧
            ∀ r, r < 8 → field (0x40 + 32 * r) 32 = (s.plinth.meas.get 0 r).toNat))) ∧
  (∀ (s : State) (im : BootImage),
      let m := s.plinth.meas.get 0
      let at_ := 0x100000000 + 128 * 0x400000 + im.place
      im.place + im.image.length ≤ 0x100000 →
      (s.plinth.powered = true → exec (.powerGood im) s = .next s) ∧
      (s.plinth.powered = false → ∃ t, exec (.powerGood im) s = .next t ∧ t.plinth.powered = true ∧ t.cycle = 0 ∧ t.ftime = 0 ∧ Holds t 0 at_ im.image ∧
        MemoryKeptBut ((List.range im.image.length).map (at_ + ·)) s t ∧
        (∀ j, t.plinth.meas.get 0 j = if j = 0 then extendBy (m 0) im.romDigest
          else if j = 1 then extendBy (m 1) (BitVec.ofNat 256 (leNat (sha256 im.image))) else m j) ∧
        t.plinth = { s.plinth with powered := true, meas := t.plinth.meas, stage := t.plinth.stage, fwver := t.plinth.fwver } ∧
        (let f := t.fabric
         f = { s.fabric with rings := f.rings, fibres := f.fibres } ∧
         (∀ b r, r < 32 → f.rings.get {} (32 * b + r) ≠ {} → let x := s.fabric.rings.get {} (32 * b + r)
           f.rings.get {} (32 * b + r) = { x with mon := s.fabric.monNow b r s.fabric.optTemp, monAt := 0 }) ∧
         ∀ b, let x := s.fabric.fibres.get {} b
           f.fibres.get {} b = { x with pausedAt := 0, wholeAt := x.wholeAt.map (fun _ => 0), deafAt := x.deafAt.map (fun _ => 0) }) ∧
        t = { s with cycle := 0, ftime := 0, fabric := t.fabric, plinth := t.plinth, imem := t.imem, cores := t.cores, mem := t.mem
                     lineKey := t.lineKey, poison := t.poison } ∧
        (im.signatureOk = false → t.plinth.stage = 0xE ∧ t.imem = s.imem ∧ t.cores = s.cores ∧ t.plinth.fwver = s.plinth.fwver) ∧
        (im.signatureOk = true → t.plinth.stage.toNat < 14 ∧ t.plinth.fwver = im.version ∧ (∀ n, n ≠ 128 → t.core n = s.core n) ∧
          (∀ a, t.imem.get 0 a = if 65536 * 128 ≤ a ∧ a < 65536 * 128 + im.words.length then im.words.getD (a - 65536 * 128) 0 else s.imem.get 0 a) ∧
          let c := t.core 128
          c.active = true ∧ c.mode = .run ∧ c.slipw = 4 ∧ c.detmode = false ∧ c.spdmax = 0x10000 ∧ (∀ k, c.s k = 0) ∧ c.events = {} ∧
          ∀ e : Eng, c.seq e = {} ∧ c.stk e = [] ∧ ∀ k, c.g e k = 0))) ∧
  (∀ (s : State) (watts : Nat) (temps : List Nat),
      let p := s.plinth
      let power := p.pwrLim < watts
      let heat := temps.any (fun y => 100 ≤ y) = true
      let hot (d : Nat) : Prop := d < 4 ∧ 110 ≤ temps.getD d 0
      ∃ t, exec (.powerSample watts temps) s = .next t ∧ ((∀ d, s.tasks.pools.get [] d = []) → MemoryKept s t) ∧ t.tasks.live = s.tasks.live.filter (fun d => ¬(d < 4 ∧ 110 ≤ temps.getD d 0)) ∧
        t.plinth.overLim = decide (power ∨ heat) ∧
        t.plinth.msix = (if (power ∨ heat) ∧ p.overLim = false then p.msix ++ [513] else p.msix) ∧
        t.plinth.intPend.getLsbD 5 = (p.intPend.getLsbD 5 || decide power) ∧ t.plinth.intPend.getLsbD 6 = (p.intPend.getLsbD 6 || decide heat) ∧
        ((∀ d, ¬hot d) → t = { s with plinth := { p with overLim := t.plinth.overLim, msix := t.plinth.msix, intPend := t.plinth.intPend } } ∧
          t.plinth.intPend = p.intPend ||| (if power then 0x20#8 else 0) ||| (if heat then 0x40#8 else 0))) ∧
  (∀ s : State,
      let p := s.plinth
      (s.cycle < p.throttleAt + 1050000 → exec .throttleAdjust s = .next s) ∧
      (p.throttleAt + 1050000 ≤ s.cycle → exec .throttleAdjust s = .next { s with plinth := { p with
        throttle := if p.overLim then max 4 (p.throttle - 1) else min 16 (p.throttle + 1), throttleAt := s.cycle } })) ∧
  (∀ (s : State) (w o n : Nat) (bs : List Byte),
      let b := s.plinth.bar2.get {} w
      let reach (i : Nat) : Option Nat := if b.en = true ∧ s.plinth.stage ≠ 0xE then paLoc (b.base + o + i) else none
      exec (.hostBar2Read w o n) s = .next s ∧ (bar2Read s w o n).length = n ∧
      (∀ i, i < n → (bar2Read s w o n)[i]? = some (match reach i with
        | some a => memRead s b.key a
        | none => 0xFF#8)) ∧
      (b.key < 512 → b.base % 2 ^ 32 = 0 → o + bs.length ≤ 2 ^ 32 → ∃ t, exec (.hostBar2Write w o ⟨[], bs⟩) s = .next t ∧
        (∀ i a, i < bs.length → reach i = some a → memRead t b.key a = bs.getD i 0) ∧
        (∀ key a, (∀ i l, i < bs.length → reach i = some l → l / 128 ≠ a / 128) → memRead t key a = memRead s key a) ∧
        (∀ i a, i < bs.length → reach i = some a → ∀ y, y / 128 = a / 128 → (∀ j, j < bs.length → reach j ≠ some y) →
          s.lineKey.get 0 (a / 128) = b.key + 1 → memRead t b.key y = memRead s b.key y) ∧
        t = { s with mem := t.mem, lineKey := t.lineKey, poison := t.poison })) ∧
  (∀ (s : State) (l : List (Nat × W64)) (v w o : Nat) (x : W64) (bs : List Byte),
      let p := s.plinth
      let host (a : Nat) (f : Plinth → Prop) : Prop := ∃ t, exec (.hostBar2Write w o ⟨[(a, x)], []⟩) s = .next t ∧ t = { s with plinth := t.plinth } ∧
        f t.plinth
      let window (y : Bar2) (u : Plinth) : Prop := u = { p with bar2 := u.bar2 } ∧ ∀ j, u.bar2.get {} j = if j = v then y else p.bar2.get {} j
      (p.stage = 0xE → exec (.hostBar2Write w o ⟨l, bs⟩) s = .next s ∧ ∀ a, a ≠ 0x242000 → bar0Read s a = none) ∧
      bar0Read s 0x242000 = some (p.stage.toNat + (if p.fatal then 16 else 0) + 2 ^ 16 * 0xB0 + 2 ^ 32 * p.fwver.toNat) ∧
      (p.stage ≠ 0xE →
        (∀ y z, exec (.hostBar2Write w o ⟨[y], []⟩) s = .next z → exec (.hostBar2Write w o ⟨y :: l, bs⟩) s = exec (.hostBar2Write w o ⟨l, bs⟩) z) ∧
        (v < 16 → host (0x240000 + 16 * v) (window { p.bar2.get {} v with base := x.toNat / 2 ^ 32 % 2 ^ 12 * 2 ^ 32, en := x.getLsbD 0 }) ∧
          host (0x240008 + 16 * v) (window { p.bar2.get {} v with key := x.toNat % 512 })) ∧
        (v < 2 ^ 18 → host (8 * v) (fun u => u = { p with qentry := u.qentry } ∧ ∀ j, u.qentry.get 0 j =
          if 8 * v ≤ j ∧ j < 8 * v + 8 then x.extractLsb' (8 * (j - 8 * v)) 8 else p.qentry.get 0 j)) ∧
        (v < 1028 → host (0x300000 + 8 * v) (fun u => u = { p with msixTab := u.msixTab } ∧ ∀ j, u.msixTab.get 0 j =
          if 8 * v ≤ j ∧ j < 8 * v + 8 then x.extractLsb' (8 * (j - 8 * v)) 8 else p.msixTab.get 0 j))))

/-- The replay queue and its commands, patrol scrub and the region table (R106, R132, R151, R160, R161, R164, R356). The entries are numbered in park
order, as those still waiting stand, the model's choice (log 78). A retried write that translates with W is
performed and leaves the queue, one that does not stays with its new cause and sets INT_PEND bit 1, and one behind an older entry
of its class and sequencer, queued or saved with its instance, waits for it; that one behind an older access of theirs, or a store to its
bytes that the core has seen, waits as well is the model's reading (log 64). A failed entry waits for its sequencer, or is gone with its
instance. A line of a copy, of a stopped instance's too, that has failed translation parks in the queue, and waits where it is full; that
the record of a stopped instance counts its entries in the queue is the model's choice (log 86). A scrubbed line that exists is poisoned and logged; a corrected error of a module is counted in the lifetime store, at a place
that the model chooses (log 83), and the record of a scratchpad line has a free module and address (log 55). A region whose count every other sequencer of the core has passed, modulo 2^24 (log 12), leaves the table. -/
def Obligations.ReplayScrubAndQuoin : Prop :=
  (∀ (s : State) (n e : Nat),
      let c := s.core n
      let waiting := c.replay.filter (fun x => x.failed = false)
      let behind (p : Parked) : Prop := ∃ x ∈ c.parkedAll, x.failed = false ∧ x.cls = p.cls ∧ x.eng = p.eng ∧ x.owner = p.owner ∧ x.id < p.id
      let others (t : State) : Prop := ∀ k, k ≠ n → t.core k = s.core k
      let queueIs (l : List Parked) (t : State) : Prop := (t.core n).replay = l
      (waiting.length ≤ e → exec (.replayRetry n e) s = .next s ∧ exec (.replayFail n e) s = .next s) ∧
      (∀ p, waiting[e]? = some p → (∀ x ∈ c.replay, x.retry = false ∧ (x.id = p.id → x = p)) →
        let found := (xlate s n p.ctx p.va.toNat).2
        let with_ (f : Parked → Parked) : List Parked := c.replay.map (fun x => if x.id = p.id then f x else x)
        let gone := c.replay.filter (fun x => x.id ≠ p.id)
        let stays (cause : Nat) : Prop := ∃ t, exec (.replayRetry n e) s = .next t ∧ MemoryKept s t ∧ queueIs (with_ (fun x => { x with cause := cause })) t ∧
          others t ∧ t = { s with cores := t.cores, shared := t.shared, dropped := t.dropped, plinth := { s.plinth with intPend := s.plinth.intPend ||| 2#8 } }
        (behind p ∨ writeHeld s n p = true → exec (.replayRetry n e) s = .next (s.setCore n { c with replay := with_ (fun x => { x with retry := true }) })) ∧
        (¬behind p → writeHeld s n p = false → found = none → stays 8) ∧
        (¬behind p → writeHeld s n p = false → ∀ y, found = some y →
          (y.w = false → stays 9) ∧
          (y.w = true → ∃ t, exec (.replayRetry n e) s = .next t ∧ queueIs gone t ∧ others t ∧
            t = { s with cores := t.cores, shared := t.shared, dropped := t.dropped, mem := t.mem, lineKey := t.lineKey, poison := t.poison } ∧
            let pl := y.place s p.va.toNat
            let u := writeBytes s pl.2 (p.bytes.map (fun b => (pl.1 + b.1, b.2)))
            MemoryKept (leftQueue (u.setCore n { c with replay := gone }) n p) t ∧ ∀ l, t.poison.get false l = (u.poison.get false l || (p.poison && decide (l = pl.1 / 128))))) ∧
        let lives := p.owner = (0, 0) ∨ ∃ i ∈ c.insts, (i.launch, i.placed) = p.owner
        (lives → exec (.replayFail n e) s = .next (leftQueue (s.setCore n { c with replay := with_ (fun x => { x with failed := true }) }) n p)) ∧
        (¬lives → exec (.replayFail n e) s = .next (leftQueue (s.setCore n { c with replay := gone }) n p))) ∧
      (∀ p q y z, c.replay = [p, q] → c.parked = none → c.spilled = [] → p.id < q.id → p.cls = q.cls → p.eng = q.eng → p.owner = q.owner → p.failed = false → q.failed = false →
        p.poison = false → q.poison = false → q.retry = true → writeHeld s n p = false → writeHeld s n q = false → c.tlb.find? (fun x => x.hits p.ctx p.va.toNat) = some y →
        c.tlb.find? (fun x => x.hits q.ctx q.va.toNat) = some z → y.w = true → z.w = true →
        ∃ t, exec (.replayRetry n 0) s = .next t ∧ queueIs [] t ∧ others t ∧
          let put (u : State) (r : Parked) (x : TlbEnt) : State :=
            writeBytes u (x.place u r.va.toNat).2 (r.bytes.map (fun b => ((x.place u r.va.toNat).1 + b.1, b.2)))
          MemoryKept (put (put s p y) q z) t)) ∧
  (∀ (s : State) (n : Nat) (o : CopyOp) (va cause k : Nat) (mv : List (Nat × Src)) (us : List Unit_),
      let c := s.core n
      let full := 16 ≤ (c.replay.filter (fun x => x.failed = false)).length
      c.copies.find? (fun x => x.id = o.id) = some o → o.units = .park va cause mv k :: us → mv ≠ [] →
      copyMay s n o (.park va cause mv k) = true → firstPoison s n o (Unit_.park va cause mv k).reads = none →
      (full → exec (.copyLineWrite n o.id) s = .next s) ∧
      (¬full → ∃ t p, exec (.copyLineWrite n o.id) s = .next t ∧ (t.core n).replay = c.replay ++ [p] ∧ p.owner = o.owner ∧ p.issued = o.id ∧
        p.va = BitVec.ofNat 64 va ∧ p.cause = cause ∧ p.cls = o.cls ∧ p.eng = 3 ∧ p.failed = false ∧ (t.core n).npark = min (c.npark + 1) 0xFFFF ∧
        t.plinth.intPend = s.plinth.intPend ||| 2#8)) ∧
  (∀ (s : State) (a : Nat),
      let main := 2 ^ 60 ≤ a ∧ a < 2 ^ 60 + 2 ^ 43
      let scratch := 0x100000000 ≤ a ∧ a < 0x100000000 + 128 * 0x400000 + 0x100000
      let line := (a - 2 ^ 60) / 128 * 128
      let poisoned (t : State) : Prop := (∀ l, t.poison.get false l = (s.poison.get false l || decide (l = a / 128))) ∧
        t = { s with poison := t.poison, plinth := t.plinth } ∧ t.plinth.butLog = s.plinth.butLog
      let m := (a - 2 ^ 60) / 2 ^ 39
      let count (t : State) : Nat := leNat ((List.range 8).map (fun i => t.plinth.staging.get 0 (0x800 + 8 * m + i)))
      (¬main → ¬scratch → ∀ b, exec (.patrolScrub ⟨a, b⟩) s = .next s) ∧ (scratch → exec (.patrolScrub ⟨a, true⟩) s = .next s) ∧
      (main → ∃ t, exec (.patrolScrub ⟨a, true⟩) s = .next t ∧ t = { s with plinth := { s.plinth with staging := t.plinth.staging } } ∧
        count t = min (count s + 1) (2 ^ 64 - 1) ∧
        ∀ j, j < 0x800 + 8 * m ∨ 0x800 + 8 * m + 8 ≤ j → t.plinth.staging.get 0 j = s.plinth.staging.get 0 j) ∧
      (main → ∃ t, exec (.patrolScrub ⟨a, false⟩) s = .next t ∧ poisoned t ∧ Logged s t 3 0xFF 0 (line / 2 ^ 39) (BitVec.ofNat 64 (2 ^ 43 + line)) 0) ∧
      (scratch → ∃ t m v, exec (.patrolScrub ⟨a, false⟩) s = .next t ∧ poisoned t ∧ Logged s t 3 0xFF 0 m v 0)) ∧
  (∀ (s : State) (n : Nat),
      let c := s.core n
      let past (r : Region) : Prop := ∀ e ∈ team n, e.tag ≠ r.eng → (c.seqs.get {} e.tag).ended = false →
        ((c.clock e).get (Eng.ofTag r.eng) - r.count).toNat < 2 ^ 23
      ∃ l, exec (.quoinEntryRetire n) s = .next (s.setCore n { c with regions := l }) ∧ l.Sublist c.regions ∧
        ∀ r, r ∈ l ↔ r ∈ c.regions ∧ ¬past r)
end

