-- ==== Sys2Proof/Laws/Sparse.lean ====
section
/-!
SUPPORT. The laws of the sparse map: a read after a write, and the canonical form that every write keeps.
-/

namespace Sys2Proof

variable {α : Type}

theorem listGet_drop_same (k : Nat) (l : List (Nat × α)) : listGet k (listDrop k l) = none := by
  induction l with
  | nil => rfl
  | cons e l ih => by_cases h : e.1 = k <;> simp [listDrop, listGet, h, ih]

theorem listGet_drop_ne {j k : Nat} (h : j ≠ k) (l : List (Nat × α)) : listGet j (listDrop k l) = listGet j l := by
  induction l with
  | nil => rfl
  | cons e l ih =>
    by_cases hk : e.1 = k
    · have hj : e.1 ≠ j := fun hj => h (hj.symm.trans hk)
      simp [listDrop, listGet, hk, ih, Ne.symm h]
    · rw [listDrop, if_neg hk, listGet, listGet, ih]

theorem listGet_put_same (k : Nat) (v : α) (l : List (Nat × α)) : listGet k (listPut k v l) = some v := by
  induction l with
  | nil => simp [listPut, listGet]
  | cons e l ih =>
    by_cases h1 : e.1 < k
    · simp [listPut, listGet, h1, ih, Nat.ne_of_lt h1]
    · by_cases h2 : e.1 = k <;> simp [listPut, listGet, h1, h2]

theorem listGet_put_ne {j k : Nat} (h : j ≠ k) (v : α) (l : List (Nat × α)) : listGet j (listPut k v l) = listGet j l := by
  induction l with
  | nil => simp [listPut, listGet, Ne.symm h]
  | cons e l ih =>
    by_cases h1 : e.1 < k
    · rw [listPut, if_pos h1, listGet, listGet, ih]
    · by_cases h2 : e.1 = k
      · simp [listPut, listGet, h2, Ne.symm h]
      · simp [listPut, listGet, h1, h2, Ne.symm h]

/-- Every key listed is above `lo`, where `lo` is given. -/
def above : Option Nat → Nat → Prop
  | none, _ => True
  | some lo, k => lo < k

theorem listRising_cons (lo : Option Nat) (e : Nat × α) (l : List (Nat × α)) :
    listRising lo (e :: l) = true ↔ above lo e.1 ∧ listRising (some e.1) l = true := by
  cases lo <;> simp [listRising, above]

theorem listRising_weaken {lo : Nat} {lo' : Option Nat} (l : List (Nat × α)) (h : ∀ k, lo < k → above lo' k)
    (hl : listRising (some lo) l = true) : listRising lo' l = true := by
  cases l with
  | nil => cases lo' <;> rfl
  | cons e l =>
    rw [listRising_cons] at hl ⊢
    exact ⟨h _ hl.1, hl.2⟩

theorem listRising_drop (k : Nat) (lo : Option Nat) (l : List (Nat × α)) (hl : listRising lo l = true) :
    listRising lo (listDrop k l) = true := by
  induction l generalizing lo with
  | nil => exact hl
  | cons e l ih =>
    rw [listRising_cons] at hl
    by_cases h : e.1 = k
    · simp only [listDrop, h, if_true]
      refine listRising_weaken _ (fun j hj => ?_) (ih _ hl.2)
      cases lo with
      | none => trivial
      | some a => exact Nat.lt_trans hl.1 hj
    · simp only [listDrop, h, if_false]
      exact (listRising_cons _ _ _).2 ⟨hl.1, ih _ hl.2⟩

theorem listRising_put (k : Nat) (v : α) (lo : Option Nat) (l : List (Nat × α)) (hk : above lo k)
    (hl : listRising lo l = true) : listRising lo (listPut k v l) = true := by
  induction l generalizing lo with
  | nil => exact (listRising_cons _ _ _).2 ⟨hk, rfl⟩
  | cons e l ih =>
    rw [listRising_cons] at hl
    by_cases h1 : e.1 < k
    · simp only [listPut, h1, if_true]
      exact (listRising_cons _ _ _).2 ⟨hl.1, ih _ h1 hl.2⟩
    · by_cases h2 : e.1 = k
      · subst h2
        simp only [listPut, Nat.lt_irrefl, if_false, if_true]
        exact (listRising_cons _ _ _).2 ⟨hl.1, hl.2⟩
      · simp only [listPut, h1, h2, if_false]
        refine (listRising_cons _ _ _).2 ⟨hk, (listRising_cons _ _ _).2 ⟨?_, hl.2⟩⟩
        show k < e.1
        omega

theorem mem_listDrop {k : Nat} {l : List (Nat × α)} {e : Nat × α} (h : e ∈ listDrop k l) : e ∈ l := by
  induction l with
  | nil => exact h
  | cons a l ih =>
    by_cases hk : a.1 = k
    · simp only [listDrop, hk, if_true] at h
      exact List.mem_cons_of_mem _ (ih h)
    · simp only [listDrop, hk, if_false, List.mem_cons] at h
      rcases h with h | h
      · exact h ▸ List.mem_cons_self
      · exact List.mem_cons_of_mem _ (ih h)

theorem mem_listPut {k : Nat} {v : α} {l : List (Nat × α)} {e : Nat × α} (h : e ∈ listPut k v l) : e = (k, v) ∨ e ∈ l := by
  induction l with
  | nil => exact .inl (List.mem_singleton.1 h)
  | cons a l ih =>
    by_cases h1 : a.1 < k
    · simp only [listPut, h1, if_true, List.mem_cons] at h
      rcases h with h | h
      · exact .inr (h ▸ List.mem_cons_self)
      · exact (ih h).imp id (List.mem_cons_of_mem _)
    · by_cases h2 : a.1 = k
      · rw [listPut, if_neg h1, if_pos h2, List.mem_cons] at h
        exact h.imp id (List.mem_cons_of_mem _)
      · rw [listPut, if_neg h1, if_neg h2, List.mem_cons] at h
        exact h

namespace Sparse

@[simp] theorem get_empty (d : α) (k : Nat) : ({} : Sparse α).get d k = d := rfl

variable [DecidableEq α]

@[simp] theorem get_set_same (m : Sparse α) (d : α) (k : Nat) (v : α) : (m.set d k v).get d k = v := by
  by_cases h : v = d
  · simp [set, get, h, listGet_drop_same]
  · simp [set, get, h, listGet_put_same]

theorem get_set_ne (m : Sparse α) (d : α) {j k : Nat} (h : j ≠ k) (v : α) : (m.set d k v).get d j = m.get d j := by
  by_cases hv : v = d
  · simp [set, get, hv, listGet_drop_ne h]
  · simp [set, get, hv, listGet_put_ne h, listGet_drop_ne h]

theorem get_set (m : Sparse α) (d : α) (j k : Nat) (v : α) :
    (m.set d k v).get d j = if j = k then v else m.get d j := by
  by_cases h : j = k
  · subst h; simp
  · simp [get_set_ne m d h, h]

@[simp] theorem wf_empty (d : α) : ({} : Sparse α).wf d = true := rfl

/-- Every write keeps the canonical form. -/
theorem wf_set (m : Sparse α) (d : α) (k : Nat) (v : α) (h : m.wf d = true) : (m.set d k v).wf d = true := by
  simp only [wf, Bool.and_eq_true, List.all_eq_true, decide_eq_true_eq] at h ⊢
  have hd := listRising_drop k none m.entries h.1
  by_cases hv : v = d
  · simp only [set, hv, if_true]
    exact ⟨hd, fun e he => h.2 e (mem_listDrop he)⟩
  · simp only [set, hv, if_false]
    refine ⟨listRising_put k v none _ trivial hd, fun e he => ?_⟩
    rcases mem_listPut he with rfl | he
    · exact hv
    · exact h.2 e (mem_listDrop he)

end Sparse

end Sys2Proof
end

