-- ==== Sys2Proof/Laws/Memory.lean ====
section
/-!
SUPPORT. The laws of memory: every operation on it keeps its canonical form, a byte reads as it was written, and a write
leaves every other byte as it reads.
-/

namespace Sys2Proof.Machine

open Sys2Proof

/-! ## One byte -/

theorem getByte_putByte (m : Memory) (j a : Nat) (b : Byte) :
    listGet j (putByte m a b).entries = if j = a then (if unlisted a = some b then none else some b) else listGet j m.entries := by
  by_cases h : j = a
  · subst h
    by_cases hu : unlisted j = some b
    · simp [putByte, hu, Sparse.drop, listGet_drop_same]
    · simp [putByte, hu, Sparse.put, listGet_put_same]
  · by_cases hu : unlisted a = some b
    · simp [putByte, hu, h, Sparse.drop, listGet_drop_ne h]
    · simp [putByte, hu, h, Sparse.put, listGet_put_ne h, listGet_drop_ne h]

theorem putByte_wf (m : Memory) (a : Nat) (b : Byte) (h : Memory.wf m = true) : Memory.wf (putByte m a b) = true := by
  simp only [Memory.wf, Bool.and_eq_true, List.all_eq_true, decide_eq_true_eq] at h ⊢
  have hd := listRising_drop a none m.entries h.1
  by_cases hu : unlisted a = some b
  · simp only [putByte, hu, if_true, Sparse.drop]
    exact ⟨hd, fun e he => h.2 e (mem_listDrop he)⟩
  · simp only [putByte, hu, if_false, Sparse.put]
    refine ⟨listRising_put a b none _ trivial hd, fun e he => ?_⟩
    rcases mem_listPut he with rfl | he
    · exact hu
    · exact h.2 e (mem_listDrop he)

theorem foldl_putByte_wf {α : Type} (l : List α) (f : α → Nat) (g : α → Byte) (m : Memory) (h : Memory.wf m = true) :
    Memory.wf (l.foldl (fun m x => putByte m (f x) (g x)) m) = true := by
  induction l generalizing m with
  | nil => exact h
  | cons x l ih => exact ih _ (putByte_wf _ _ _ h)

theorem getByte_foldl_other {α : Type} (l : List α) (f : α → Nat) (g : α → Byte) (m : Memory) (a : Nat)
    (h : ∀ x ∈ l, f x ≠ a) : listGet a (l.foldl (fun m x => putByte m (f x) (g x)) m).entries = listGet a m.entries := by
  induction l generalizing m with
  | nil => rfl
  | cons x l ih =>
    rw [List.foldl_cons, ih _ (fun y hy => h y (List.mem_cons_of_mem _ hy)), getByte_putByte,
      if_neg (Ne.symm (h x List.mem_cons_self))]

theorem listRising_filter (p : Nat × Byte → Bool) (lo : Option Nat) (l : List (Nat × Byte)) (h : listRising lo l = true) :
    listRising lo (l.filter p) = true := by
  induction l generalizing lo with
  | nil => exact h
  | cons e l ih =>
    rw [listRising_cons] at h
    by_cases hp : p e = true
    · rw [List.filter_cons_of_pos hp, listRising_cons]
      exact ⟨h.1, ih _ h.2⟩
    · rw [List.filter_cons_of_neg hp]
      refine listRising_weaken _ (fun k hk => ?_) (ih _ h.2)
      cases lo with
      | none => trivial
      | some x => exact Nat.lt_trans h.1 hk

theorem zeroRange_wf (m : Memory) (a n : Nat) (h : Memory.wf m = true) : Memory.wf (zeroRange m a n) = true := by
  simp only [Memory.wf, Bool.and_eq_true, List.all_eq_true, decide_eq_true_eq] at h ⊢
  exact ⟨listRising_filter _ _ _ h.1, fun e he => h.2 e (List.mem_of_mem_filter he)⟩

/-- Memory right after reset is canonical. -/
theorem reset_mem_wf : Memory.wf State.reset.mem = true := rfl

/-! ## Lines and runs of bytes -/

theorem fillLine_wf (s : State) (l : Nat) (h : Memory.wf s.mem = true) : Memory.wf (fillLine s l) = true :=
  foldl_putByte_wf _ _ _ _ h

theorem writeLine_wf (s : State) (key l : Nat) (bytes : List (Nat × Byte)) (h : Memory.wf s.mem = true) :
    Memory.wf (writeLine s key l bytes).mem = true := by
  unfold writeLine
  split
  · exact h
  · refine foldl_putByte_wf _ _ _ _ ?_
    split
    · exact fillLine_wf s l h
    · exact h

theorem writeBytes_wf (s : State) (key : Nat) (bytes : List (Nat × Byte)) (h : Memory.wf s.mem = true) :
    Memory.wf (writeBytes s key bytes).mem = true := by
  unfold writeBytes
  generalize linesOf bytes = ls
  induction ls generalizing s with
  | nil => exact h
  | cons l ls ih => exact ih _ (writeLine_wf _ _ _ _ h)

theorem writeNat_wf (s : State) (key a n v : Nat) (h : Memory.wf s.mem = true) : Memory.wf (writeNat s key a n v).mem = true :=
  writeBytes_wf _ _ _ h

theorem writeRecord_wf (s : State) (n : Nat) (i : Inst) (info : StopInfo) (h : Memory.wf s.mem = true) :
    Memory.wf (writeRecord s n i info).mem = true := by
  unfold writeRecord
  generalize recordBytes = len
  generalize hb : headerBytes (s.core n) i info ++ areaBytes s (s.core n) info ++ opaqueBytes s (s.core n) i = bs
  simp only [hb]
  exact foldl_putByte_wf bs (fun e => saveLoc n e.1) (fun e => e.2) _ (zeroRange_wf _ _ _ h)

theorem plinthWrite_wf (s : State) (x va : Nat) (bs : List Byte) (h : Memory.wf s.mem = true) :
    Memory.wf (plinthWrite s x va bs).mem = true := writeBytes_wf _ _ _ h

theorem programWrite_wf (s : State) (x va : Nat) (bs : List Byte) (h : Memory.wf s.mem = true) :
    Memory.wf (programWrite s x va bs).mem = true := by
  unfold programWrite
  split
  · exact writeBytes_wf _ _ _ h
  · exact h

theorem setCore_keeps_wf (s : State) (n : Nat) (c : Core) (h : Memory.wf s.mem = true) :
    Memory.wf (s.setCore n c).mem = true := h

theorem spillRecord_wf (s : State) (n : Nat) (i : Inst) (len : Nat) (h : Memory.wf s.mem = true) :
    Memory.wf (spillRecord s n i len).mem = true := by
  unfold spillRecord
  generalize saveLoc n 4 = a
  exact plinthWrite_wf _ _ _ _ (putByte_wf s.mem _ _ h)

theorem spillParked_wf (s : State) (n : Nat) (h : Memory.wf s.mem = true) : Memory.wf (spillParked s n).mem = true := by
  unfold spillParked
  generalize recordBytes = len
  dsimp only
  split
  · exact h
  · exact setCore_keeps_wf _ _ _ (spillRecord_wf _ _ _ _ h)

/-! ## What else a write changes: nothing -/

/-- A line write changes memory, key slots and poison alone. -/
theorem writeLine_frame (s : State) (key l : Nat) (bytes : List (Nat × Byte)) :
    ∃ m k p, writeLine s key l bytes = { s with mem := m, lineKey := k, poison := p } := by
  unfold writeLine
  split
  · exact ⟨_, _, _, rfl⟩
  · exact ⟨_, _, _, rfl⟩

theorem writeBytes_frame (s : State) (key : Nat) (bytes : List (Nat × Byte)) :
    ∃ m k p, writeBytes s key bytes = { s with mem := m, lineKey := k, poison := p } := by
  unfold writeBytes
  generalize linesOf bytes = ls
  induction ls generalizing s with
  | nil => exact ⟨_, _, _, rfl⟩
  | cons l ls ih =>
    obtain ⟨m, k, p, h⟩ := writeLine_frame s key l (bytes.filter (fun e => e.1 / lineBytes == l))
    obtain ⟨m', k', p', h'⟩ := ih { s with mem := m, lineKey := k, poison := p }
    exact ⟨m', k', p', by rw [List.foldl_cons, h, h']⟩

@[simp] theorem writeBytes_cores (s : State) (key : Nat) (bytes : List (Nat × Byte)) :
    (writeBytes s key bytes).cores = s.cores := by obtain ⟨m, k, p, h⟩ := writeBytes_frame s key bytes; rw [h]
@[simp] theorem writeBytes_imem (s : State) (key : Nat) (bytes : List (Nat × Byte)) :
    (writeBytes s key bytes).imem = s.imem := by obtain ⟨m, k, p, h⟩ := writeBytes_frame s key bytes; rw [h]
@[simp] theorem writeBytes_nonce (s : State) (key : Nat) (bytes : List (Nat × Byte)) :
    (writeBytes s key bytes).nonce = s.nonce := by obtain ⟨m, k, p, h⟩ := writeBytes_frame s key bytes; rw [h]
@[simp] theorem writeBytes_accs (s : State) (key : Nat) (bytes : List (Nat × Byte)) :
    (writeBytes s key bytes).accs = s.accs := by obtain ⟨m, k, p, h⟩ := writeBytes_frame s key bytes; rw [h]

/-- A byte of scratchpad outside the bytes written reads as before. -/
theorem memRead_writeLine_sp (s : State) (key l : Nat) (bytes : List (Nat × Byte)) (k a : Nat) (ha : isMain a = false)
    (h : ∀ e ∈ bytes, e.1 ≠ a) : memRead (writeLine s key l bytes) k a = memRead s k a := by
  suffices hs : listGet a (writeLine s key l bytes).mem.entries = listGet a s.mem.entries by
    simp only [memRead, ha, Bool.false_eq_true, if_false, Sparse.get, hs]
  unfold writeLine
  split
  · rfl
  · refine (getByte_foldl_other bytes _ _ _ _ h).trans ?_
    split
    · rename_i hm
      refine getByte_foldl_other _ _ _ _ _ (fun i _ hi => ?_)
      have h1 := hm.1
      simp only [isMain, decide_eq_true_eq, decide_eq_false_iff_not] at h1 ha
      omega
    · rfl

theorem memRead_writeBytes_sp (s : State) (key : Nat) (bytes : List (Nat × Byte)) (k a : Nat) (ha : isMain a = false)
    (h : ∀ e ∈ bytes, e.1 ≠ a) : memRead (writeBytes s key bytes) k a = memRead s k a := by
  unfold writeBytes
  generalize linesOf bytes = ls
  induction ls generalizing s with
  | nil => rfl
  | cons l ls ih =>
    rw [List.foldl_cons, ih, memRead_writeLine_sp _ _ _ _ _ _ ha]
    exact fun e he => h e (List.mem_of_mem_filter he)

end Sys2Proof.Machine
end

