-- ==== Sys2Proof/Laws/State.lean ====
section
/-!
SUPPORT. What each update of the state leaves as it is, field by field, and what reading gives after it.
-/

namespace Sys2Proof.Machine

/-! ## Updates of one core -/

@[simp] theorem setCore_mem (s : State) (n : Nat) (c : Core) : (s.setCore n c).mem = s.mem := rfl
@[simp] theorem setCore_lineKey (s : State) (n : Nat) (c : Core) : (s.setCore n c).lineKey = s.lineKey := rfl
@[simp] theorem setCore_poison (s : State) (n : Nat) (c : Core) : (s.setCore n c).poison = s.poison := rfl
@[simp] theorem setCore_imem (s : State) (n : Nat) (c : Core) : (s.setCore n c).imem = s.imem := rfl
@[simp] theorem setCore_hmem (s : State) (n : Nat) (c : Core) : (s.setCore n c).hmem = s.hmem := rfl
@[simp] theorem setCore_unitLast (s : State) (n : Nat) (c : Core) : (s.setCore n c).unitLast = s.unitLast := rfl
@[simp] theorem setCore_accs (s : State) (n : Nat) (c : Core) : (s.setCore n c).accs = s.accs := rfl
@[simp] theorem setCore_tasks (s : State) (n : Nat) (c : Core) : (s.setCore n c).tasks = s.tasks := rfl
@[simp] theorem setCore_slices (s : State) (n : Nat) (c : Core) : (s.setCore n c).slices = s.slices := rfl
@[simp] theorem setCore_sliceCnt (s : State) (n : Nat) (c : Core) : (s.setCore n c).sliceCnt = s.sliceCnt := rfl
@[simp] theorem setCore_fabric (s : State) (n : Nat) (c : Core) : (s.setCore n c).fabric = s.fabric := rfl
@[simp] theorem setCore_plinth (s : State) (n : Nat) (c : Core) : (s.setCore n c).plinth = s.plinth := rfl
@[simp] theorem setCore_shared (s : State) (n : Nat) (c : Core) : (s.setCore n c).shared = s.shared := rfl
@[simp] theorem setCore_dropped (s : State) (n : Nat) (c : Core) : (s.setCore n c).dropped = s.dropped := rfl
@[simp] theorem setCore_tlbis (s : State) (n : Nat) (c : Core) : (s.setCore n c).tlbis = s.tlbis := rfl
@[simp] theorem setCore_cycle (s : State) (n : Nat) (c : Core) : (s.setCore n c).cycle = s.cycle := rfl
@[simp] theorem setCore_ftime (s : State) (n : Nat) (c : Core) : (s.setCore n c).ftime = s.ftime := rfl
@[simp] theorem setCore_sched (s : State) (n : Nat) (c : Core) : (s.setCore n c).sched = s.sched := rfl
@[simp] theorem setCore_phase (s : State) (n : Nat) (c : Core) : (s.setCore n c).phase = s.phase := rfl
@[simp] theorem setCore_curCore (s : State) (n : Nat) (c : Core) : (s.setCore n c).curCore = s.curCore := rfl
@[simp] theorem setCore_curEng (s : State) (n : Nat) (c : Core) : (s.setCore n c).curEng = s.curEng := rfl
@[simp] theorem setCore_word (s : State) (n : Nat) (c : Core) : (s.setCore n c).word = s.word := rfl
@[simp] theorem setCore_defer (s : State) (n : Nat) (c : Core) : (s.setCore n c).defer = s.defer := rfl
@[simp] theorem setCore_nonce (s : State) (n : Nat) (c : Core) : (s.setCore n c).nonce = s.nonce := rfl
@[simp] theorem setCore_nextId (s : State) (n : Nat) (c : Core) : (s.setCore n c).nextId = s.nextId := rfl
@[simp] theorem setCore_order (s : State) (n : Nat) (c : Core) : (s.setCore n c).order = s.order := rfl
@[simp] theorem setMe_mem (s : State) (c : Core) : (s.setMe c).mem = s.mem := rfl
@[simp] theorem setMe_lineKey (s : State) (c : Core) : (s.setMe c).lineKey = s.lineKey := rfl
@[simp] theorem setMe_poison (s : State) (c : Core) : (s.setMe c).poison = s.poison := rfl
@[simp] theorem setMe_imem (s : State) (c : Core) : (s.setMe c).imem = s.imem := rfl
@[simp] theorem setMe_hmem (s : State) (c : Core) : (s.setMe c).hmem = s.hmem := rfl
@[simp] theorem setMe_unitLast (s : State) (c : Core) : (s.setMe c).unitLast = s.unitLast := rfl
@[simp] theorem setMe_accs (s : State) (c : Core) : (s.setMe c).accs = s.accs := rfl
@[simp] theorem setMe_tasks (s : State) (c : Core) : (s.setMe c).tasks = s.tasks := rfl
@[simp] theorem setMe_slices (s : State) (c : Core) : (s.setMe c).slices = s.slices := rfl
@[simp] theorem setMe_sliceCnt (s : State) (c : Core) : (s.setMe c).sliceCnt = s.sliceCnt := rfl
@[simp] theorem setMe_fabric (s : State) (c : Core) : (s.setMe c).fabric = s.fabric := rfl
@[simp] theorem setMe_plinth (s : State) (c : Core) : (s.setMe c).plinth = s.plinth := rfl
@[simp] theorem setMe_shared (s : State) (c : Core) : (s.setMe c).shared = s.shared := rfl
@[simp] theorem setMe_dropped (s : State) (c : Core) : (s.setMe c).dropped = s.dropped := rfl
@[simp] theorem setMe_tlbis (s : State) (c : Core) : (s.setMe c).tlbis = s.tlbis := rfl
@[simp] theorem setMe_cycle (s : State) (c : Core) : (s.setMe c).cycle = s.cycle := rfl
@[simp] theorem setMe_ftime (s : State) (c : Core) : (s.setMe c).ftime = s.ftime := rfl
@[simp] theorem setMe_sched (s : State) (c : Core) : (s.setMe c).sched = s.sched := rfl
@[simp] theorem setMe_phase (s : State) (c : Core) : (s.setMe c).phase = s.phase := rfl
@[simp] theorem setMe_curCore (s : State) (c : Core) : (s.setMe c).curCore = s.curCore := rfl
@[simp] theorem setMe_curEng (s : State) (c : Core) : (s.setMe c).curEng = s.curEng := rfl
@[simp] theorem setMe_word (s : State) (c : Core) : (s.setMe c).word = s.word := rfl
@[simp] theorem setMe_defer (s : State) (c : Core) : (s.setMe c).defer = s.defer := rfl
@[simp] theorem setMe_nonce (s : State) (c : Core) : (s.setMe c).nonce = s.nonce := rfl
@[simp] theorem setMe_nextId (s : State) (c : Core) : (s.setMe c).nextId = s.nextId := rfl
@[simp] theorem setMe_order (s : State) (c : Core) : (s.setMe c).order = s.order := rfl

@[simp] theorem setQ_mem (s : State) (q : SeqState) : (s.setQ q).mem = s.mem := rfl
@[simp] theorem setQ_lineKey (s : State) (q : SeqState) : (s.setQ q).lineKey = s.lineKey := rfl
@[simp] theorem setQ_poison (s : State) (q : SeqState) : (s.setQ q).poison = s.poison := rfl
@[simp] theorem setQ_imem (s : State) (q : SeqState) : (s.setQ q).imem = s.imem := rfl
@[simp] theorem setQ_hmem (s : State) (q : SeqState) : (s.setQ q).hmem = s.hmem := rfl
@[simp] theorem setQ_unitLast (s : State) (q : SeqState) : (s.setQ q).unitLast = s.unitLast := rfl
@[simp] theorem setQ_accs (s : State) (q : SeqState) : (s.setQ q).accs = s.accs := rfl
@[simp] theorem setQ_tasks (s : State) (q : SeqState) : (s.setQ q).tasks = s.tasks := rfl
@[simp] theorem setQ_slices (s : State) (q : SeqState) : (s.setQ q).slices = s.slices := rfl
@[simp] theorem setQ_sliceCnt (s : State) (q : SeqState) : (s.setQ q).sliceCnt = s.sliceCnt := rfl
@[simp] theorem setQ_fabric (s : State) (q : SeqState) : (s.setQ q).fabric = s.fabric := rfl
@[simp] theorem setQ_plinth (s : State) (q : SeqState) : (s.setQ q).plinth = s.plinth := rfl
@[simp] theorem setQ_shared (s : State) (q : SeqState) : (s.setQ q).shared = s.shared := rfl
@[simp] theorem setQ_dropped (s : State) (q : SeqState) : (s.setQ q).dropped = s.dropped := rfl
@[simp] theorem setQ_tlbis (s : State) (q : SeqState) : (s.setQ q).tlbis = s.tlbis := rfl
@[simp] theorem setQ_cycle (s : State) (q : SeqState) : (s.setQ q).cycle = s.cycle := rfl
@[simp] theorem setQ_ftime (s : State) (q : SeqState) : (s.setQ q).ftime = s.ftime := rfl
@[simp] theorem setQ_sched (s : State) (q : SeqState) : (s.setQ q).sched = s.sched := rfl
@[simp] theorem setQ_phase (s : State) (q : SeqState) : (s.setQ q).phase = s.phase := rfl
@[simp] theorem setQ_curCore (s : State) (q : SeqState) : (s.setQ q).curCore = s.curCore := rfl
@[simp] theorem setQ_curEng (s : State) (q : SeqState) : (s.setQ q).curEng = s.curEng := rfl
@[simp] theorem setQ_word (s : State) (q : SeqState) : (s.setQ q).word = s.word := rfl
@[simp] theorem setQ_defer (s : State) (q : SeqState) : (s.setQ q).defer = s.defer := rfl
@[simp] theorem setQ_nonce (s : State) (q : SeqState) : (s.setQ q).nonce = s.nonce := rfl
@[simp] theorem setQ_nextId (s : State) (q : SeqState) : (s.setQ q).nextId = s.nextId := rfl
@[simp] theorem setQ_order (s : State) (q : SeqState) : (s.setQ q).order = s.order := rfl

@[simp] theorem putS_mem (s : State) (n : BitVec 5) (v : W64) : (s.putS n v).mem = s.mem := rfl
@[simp] theorem putS_lineKey (s : State) (n : BitVec 5) (v : W64) : (s.putS n v).lineKey = s.lineKey := rfl
@[simp] theorem putS_poison (s : State) (n : BitVec 5) (v : W64) : (s.putS n v).poison = s.poison := rfl
@[simp] theorem putS_imem (s : State) (n : BitVec 5) (v : W64) : (s.putS n v).imem = s.imem := rfl
@[simp] theorem putS_hmem (s : State) (n : BitVec 5) (v : W64) : (s.putS n v).hmem = s.hmem := rfl
@[simp] theorem putS_unitLast (s : State) (n : BitVec 5) (v : W64) : (s.putS n v).unitLast = s.unitLast := rfl
@[simp] theorem putS_accs (s : State) (n : BitVec 5) (v : W64) : (s.putS n v).accs = s.accs := rfl
@[simp] theorem putS_tasks (s : State) (n : BitVec 5) (v : W64) : (s.putS n v).tasks = s.tasks := rfl
@[simp] theorem putS_slices (s : State) (n : BitVec 5) (v : W64) : (s.putS n v).slices = s.slices := rfl
@[simp] theorem putS_sliceCnt (s : State) (n : BitVec 5) (v : W64) : (s.putS n v).sliceCnt = s.sliceCnt := rfl
@[simp] theorem putS_fabric (s : State) (n : BitVec 5) (v : W64) : (s.putS n v).fabric = s.fabric := rfl
@[simp] theorem putS_plinth (s : State) (n : BitVec 5) (v : W64) : (s.putS n v).plinth = s.plinth := rfl
@[simp] theorem putS_shared (s : State) (n : BitVec 5) (v : W64) : (s.putS n v).shared = s.shared := rfl
@[simp] theorem putS_dropped (s : State) (n : BitVec 5) (v : W64) : (s.putS n v).dropped = s.dropped := rfl
@[simp] theorem putS_tlbis (s : State) (n : BitVec 5) (v : W64) : (s.putS n v).tlbis = s.tlbis := rfl
@[simp] theorem putS_cycle (s : State) (n : BitVec 5) (v : W64) : (s.putS n v).cycle = s.cycle := rfl
@[simp] theorem putS_ftime (s : State) (n : BitVec 5) (v : W64) : (s.putS n v).ftime = s.ftime := rfl
@[simp] theorem putS_sched (s : State) (n : BitVec 5) (v : W64) : (s.putS n v).sched = s.sched := rfl
@[simp] theorem putS_phase (s : State) (n : BitVec 5) (v : W64) : (s.putS n v).phase = s.phase := rfl
@[simp] theorem putS_curCore (s : State) (n : BitVec 5) (v : W64) : (s.putS n v).curCore = s.curCore := rfl
@[simp] theorem putS_curEng (s : State) (n : BitVec 5) (v : W64) : (s.putS n v).curEng = s.curEng := rfl
@[simp] theorem putS_word (s : State) (n : BitVec 5) (v : W64) : (s.putS n v).word = s.word := rfl
@[simp] theorem putS_defer (s : State) (n : BitVec 5) (v : W64) : (s.putS n v).defer = s.defer := rfl
@[simp] theorem putS_nonce (s : State) (n : BitVec 5) (v : W64) : (s.putS n v).nonce = s.nonce := rfl
@[simp] theorem putS_nextId (s : State) (n : BitVec 5) (v : W64) : (s.putS n v).nextId = s.nextId := rfl
@[simp] theorem putS_order (s : State) (n : BitVec 5) (v : W64) : (s.putS n v).order = s.order := rfl

@[simp] theorem putG_mem (s : State) (n : BitVec 4) (v : W64) : (s.putG n v).mem = s.mem := rfl
@[simp] theorem putG_lineKey (s : State) (n : BitVec 4) (v : W64) : (s.putG n v).lineKey = s.lineKey := rfl
@[simp] theorem putG_poison (s : State) (n : BitVec 4) (v : W64) : (s.putG n v).poison = s.poison := rfl
@[simp] theorem putG_imem (s : State) (n : BitVec 4) (v : W64) : (s.putG n v).imem = s.imem := rfl
@[simp] theorem putG_hmem (s : State) (n : BitVec 4) (v : W64) : (s.putG n v).hmem = s.hmem := rfl
@[simp] theorem putG_unitLast (s : State) (n : BitVec 4) (v : W64) : (s.putG n v).unitLast = s.unitLast := rfl
@[simp] theorem putG_accs (s : State) (n : BitVec 4) (v : W64) : (s.putG n v).accs = s.accs := rfl
@[simp] theorem putG_tasks (s : State) (n : BitVec 4) (v : W64) : (s.putG n v).tasks = s.tasks := rfl
@[simp] theorem putG_slices (s : State) (n : BitVec 4) (v : W64) : (s.putG n v).slices = s.slices := rfl
@[simp] theorem putG_sliceCnt (s : State) (n : BitVec 4) (v : W64) : (s.putG n v).sliceCnt = s.sliceCnt := rfl
@[simp] theorem putG_fabric (s : State) (n : BitVec 4) (v : W64) : (s.putG n v).fabric = s.fabric := rfl
@[simp] theorem putG_plinth (s : State) (n : BitVec 4) (v : W64) : (s.putG n v).plinth = s.plinth := rfl
@[simp] theorem putG_shared (s : State) (n : BitVec 4) (v : W64) : (s.putG n v).shared = s.shared := rfl
@[simp] theorem putG_dropped (s : State) (n : BitVec 4) (v : W64) : (s.putG n v).dropped = s.dropped := rfl
@[simp] theorem putG_tlbis (s : State) (n : BitVec 4) (v : W64) : (s.putG n v).tlbis = s.tlbis := rfl
@[simp] theorem putG_cycle (s : State) (n : BitVec 4) (v : W64) : (s.putG n v).cycle = s.cycle := rfl
@[simp] theorem putG_ftime (s : State) (n : BitVec 4) (v : W64) : (s.putG n v).ftime = s.ftime := rfl
@[simp] theorem putG_sched (s : State) (n : BitVec 4) (v : W64) : (s.putG n v).sched = s.sched := rfl
@[simp] theorem putG_phase (s : State) (n : BitVec 4) (v : W64) : (s.putG n v).phase = s.phase := rfl
@[simp] theorem putG_curCore (s : State) (n : BitVec 4) (v : W64) : (s.putG n v).curCore = s.curCore := rfl
@[simp] theorem putG_curEng (s : State) (n : BitVec 4) (v : W64) : (s.putG n v).curEng = s.curEng := rfl
@[simp] theorem putG_word (s : State) (n : BitVec 4) (v : W64) : (s.putG n v).word = s.word := rfl
@[simp] theorem putG_defer (s : State) (n : BitVec 4) (v : W64) : (s.putG n v).defer = s.defer := rfl
@[simp] theorem putG_nonce (s : State) (n : BitVec 4) (v : W64) : (s.putG n v).nonce = s.nonce := rfl
@[simp] theorem putG_nextId (s : State) (n : BitVec 4) (v : W64) : (s.putG n v).nextId = s.nextId := rfl
@[simp] theorem putG_order (s : State) (n : BitVec 4) (v : W64) : (s.putG n v).order = s.order := rfl

@[simp] theorem putStk_mem (s : State) (l : List W64) : (s.putStk l).mem = s.mem := rfl
@[simp] theorem putStk_lineKey (s : State) (l : List W64) : (s.putStk l).lineKey = s.lineKey := rfl
@[simp] theorem putStk_poison (s : State) (l : List W64) : (s.putStk l).poison = s.poison := rfl
@[simp] theorem putStk_imem (s : State) (l : List W64) : (s.putStk l).imem = s.imem := rfl
@[simp] theorem putStk_hmem (s : State) (l : List W64) : (s.putStk l).hmem = s.hmem := rfl
@[simp] theorem putStk_unitLast (s : State) (l : List W64) : (s.putStk l).unitLast = s.unitLast := rfl
@[simp] theorem putStk_accs (s : State) (l : List W64) : (s.putStk l).accs = s.accs := rfl
@[simp] theorem putStk_tasks (s : State) (l : List W64) : (s.putStk l).tasks = s.tasks := rfl
@[simp] theorem putStk_slices (s : State) (l : List W64) : (s.putStk l).slices = s.slices := rfl
@[simp] theorem putStk_sliceCnt (s : State) (l : List W64) : (s.putStk l).sliceCnt = s.sliceCnt := rfl
@[simp] theorem putStk_fabric (s : State) (l : List W64) : (s.putStk l).fabric = s.fabric := rfl
@[simp] theorem putStk_plinth (s : State) (l : List W64) : (s.putStk l).plinth = s.plinth := rfl
@[simp] theorem putStk_shared (s : State) (l : List W64) : (s.putStk l).shared = s.shared := rfl
@[simp] theorem putStk_dropped (s : State) (l : List W64) : (s.putStk l).dropped = s.dropped := rfl
@[simp] theorem putStk_tlbis (s : State) (l : List W64) : (s.putStk l).tlbis = s.tlbis := rfl
@[simp] theorem putStk_cycle (s : State) (l : List W64) : (s.putStk l).cycle = s.cycle := rfl
@[simp] theorem putStk_ftime (s : State) (l : List W64) : (s.putStk l).ftime = s.ftime := rfl
@[simp] theorem putStk_sched (s : State) (l : List W64) : (s.putStk l).sched = s.sched := rfl
@[simp] theorem putStk_phase (s : State) (l : List W64) : (s.putStk l).phase = s.phase := rfl
@[simp] theorem putStk_curCore (s : State) (l : List W64) : (s.putStk l).curCore = s.curCore := rfl
@[simp] theorem putStk_curEng (s : State) (l : List W64) : (s.putStk l).curEng = s.curEng := rfl
@[simp] theorem putStk_word (s : State) (l : List W64) : (s.putStk l).word = s.word := rfl
@[simp] theorem putStk_defer (s : State) (l : List W64) : (s.putStk l).defer = s.defer := rfl
@[simp] theorem putStk_nonce (s : State) (l : List W64) : (s.putStk l).nonce = s.nonce := rfl
@[simp] theorem putStk_nextId (s : State) (l : List W64) : (s.putStk l).nextId = s.nextId := rfl
@[simp] theorem putStk_order (s : State) (l : List W64) : (s.putStk l).order = s.order := rfl

@[simp] theorem pop_mem (s : State) (k : Nat) : (s.pop k).mem = s.mem := rfl
@[simp] theorem pop_lineKey (s : State) (k : Nat) : (s.pop k).lineKey = s.lineKey := rfl
@[simp] theorem pop_poison (s : State) (k : Nat) : (s.pop k).poison = s.poison := rfl
@[simp] theorem pop_imem (s : State) (k : Nat) : (s.pop k).imem = s.imem := rfl
@[simp] theorem pop_hmem (s : State) (k : Nat) : (s.pop k).hmem = s.hmem := rfl
@[simp] theorem pop_unitLast (s : State) (k : Nat) : (s.pop k).unitLast = s.unitLast := rfl
@[simp] theorem pop_accs (s : State) (k : Nat) : (s.pop k).accs = s.accs := rfl
@[simp] theorem pop_tasks (s : State) (k : Nat) : (s.pop k).tasks = s.tasks := rfl
@[simp] theorem pop_slices (s : State) (k : Nat) : (s.pop k).slices = s.slices := rfl
@[simp] theorem pop_sliceCnt (s : State) (k : Nat) : (s.pop k).sliceCnt = s.sliceCnt := rfl
@[simp] theorem pop_fabric (s : State) (k : Nat) : (s.pop k).fabric = s.fabric := rfl
@[simp] theorem pop_plinth (s : State) (k : Nat) : (s.pop k).plinth = s.plinth := rfl
@[simp] theorem pop_shared (s : State) (k : Nat) : (s.pop k).shared = s.shared := rfl
@[simp] theorem pop_dropped (s : State) (k : Nat) : (s.pop k).dropped = s.dropped := rfl
@[simp] theorem pop_tlbis (s : State) (k : Nat) : (s.pop k).tlbis = s.tlbis := rfl
@[simp] theorem pop_cycle (s : State) (k : Nat) : (s.pop k).cycle = s.cycle := rfl
@[simp] theorem pop_ftime (s : State) (k : Nat) : (s.pop k).ftime = s.ftime := rfl
@[simp] theorem pop_sched (s : State) (k : Nat) : (s.pop k).sched = s.sched := rfl
@[simp] theorem pop_phase (s : State) (k : Nat) : (s.pop k).phase = s.phase := rfl
@[simp] theorem pop_curCore (s : State) (k : Nat) : (s.pop k).curCore = s.curCore := rfl
@[simp] theorem pop_curEng (s : State) (k : Nat) : (s.pop k).curEng = s.curEng := rfl
@[simp] theorem pop_word (s : State) (k : Nat) : (s.pop k).word = s.word := rfl
@[simp] theorem pop_defer (s : State) (k : Nat) : (s.pop k).defer = s.defer := rfl
@[simp] theorem pop_nonce (s : State) (k : Nat) : (s.pop k).nonce = s.nonce := rfl
@[simp] theorem pop_nextId (s : State) (k : Nat) : (s.pop k).nextId = s.nextId := rfl
@[simp] theorem pop_order (s : State) (k : Nat) : (s.pop k).order = s.order := rfl

@[simp] theorem withId_cores (s : State) : s.withId.cores = s.cores := rfl
@[simp] theorem withId_mem (s : State) : s.withId.mem = s.mem := rfl
@[simp] theorem withId_lineKey (s : State) : s.withId.lineKey = s.lineKey := rfl
@[simp] theorem withId_poison (s : State) : s.withId.poison = s.poison := rfl
@[simp] theorem withId_imem (s : State) : s.withId.imem = s.imem := rfl
@[simp] theorem withId_hmem (s : State) : s.withId.hmem = s.hmem := rfl
@[simp] theorem withId_unitLast (s : State) : s.withId.unitLast = s.unitLast := rfl
@[simp] theorem withId_accs (s : State) : s.withId.accs = s.accs := rfl
@[simp] theorem withId_tasks (s : State) : s.withId.tasks = s.tasks := rfl
@[simp] theorem withId_slices (s : State) : s.withId.slices = s.slices := rfl
@[simp] theorem withId_sliceCnt (s : State) : s.withId.sliceCnt = s.sliceCnt := rfl
@[simp] theorem withId_fabric (s : State) : s.withId.fabric = s.fabric := rfl
@[simp] theorem withId_plinth (s : State) : s.withId.plinth = s.plinth := rfl
@[simp] theorem withId_shared (s : State) : s.withId.shared = s.shared := rfl
@[simp] theorem withId_dropped (s : State) : s.withId.dropped = s.dropped := rfl
@[simp] theorem withId_tlbis (s : State) : s.withId.tlbis = s.tlbis := rfl
@[simp] theorem withId_cycle (s : State) : s.withId.cycle = s.cycle := rfl
@[simp] theorem withId_ftime (s : State) : s.withId.ftime = s.ftime := rfl
@[simp] theorem withId_sched (s : State) : s.withId.sched = s.sched := rfl
@[simp] theorem withId_phase (s : State) : s.withId.phase = s.phase := rfl
@[simp] theorem withId_curCore (s : State) : s.withId.curCore = s.curCore := rfl
@[simp] theorem withId_curEng (s : State) : s.withId.curEng = s.curEng := rfl
@[simp] theorem withId_word (s : State) : s.withId.word = s.word := rfl
@[simp] theorem withId_defer (s : State) : s.withId.defer = s.defer := rfl
@[simp] theorem withId_nonce (s : State) : s.withId.nonce = s.nonce := rfl
@[simp] theorem withId_order (s : State) : s.withId.order = s.order := rfl

@[simp] theorem core_setCore_same (s : State) (n : Nat) (c : Core) : (s.setCore n c).core n = c := by
  simp [State.core, State.setCore]
theorem core_setCore_ne (s : State) {m n : Nat} (h : m ≠ n) (c : Core) : (s.setCore n c).core m = s.core m := by
  simp [State.core, State.setCore, Sparse.get_set_ne _ _ h]
@[simp] theorem me_setMe (s : State) (c : Core) : (s.setMe c).me = c := core_setCore_same s s.curCore c
theorem core_setMe_ne (s : State) {m : Nat} (h : m ≠ s.curCore) (c : Core) : (s.setMe c).core m = s.core m :=
  core_setCore_ne s h c

theorem setCore_setCore (s : State) (n : Nat) (c d : Core) (h : s.cores.wf {} = true) :
    (s.setCore n c).core n = c ∧ ((s.setCore n c).setCore n d).core n = d ∧ (s.setCore n c).cores.wf {} = true :=
  ⟨core_setCore_same _ _ _, core_setCore_same _ _ _, Sparse.wf_set _ _ _ _ h⟩

/-! ## Registers of a core -/

@[simp] theorem setSeq_core_sreg (c : Core) (e : Eng) (q : SeqState) : (c.setSeq e q).sreg = c.sreg := by
  unfold Core.setSeq; repeat (first | rfl | split)
@[simp] theorem setSeq_core_greg (c : Core) (e : Eng) (q : SeqState) : (c.setSeq e q).greg = c.greg := by
  unfold Core.setSeq; repeat (first | rfl | split)
@[simp] theorem setSeq_core_stack (c : Core) (e : Eng) (q : SeqState) : (c.setSeq e q).stack = c.stack := by
  unfold Core.setSeq; repeat (first | rfl | split)
@[simp] theorem setSeq_core_hsreg (c : Core) (e : Eng) (q : SeqState) : (c.setSeq e q).hsreg = c.hsreg := by
  unfold Core.setSeq; repeat (first | rfl | split)
@[simp] theorem setSeq_core_hgreg (c : Core) (e : Eng) (q : SeqState) : (c.setSeq e q).hgreg = c.hgreg := by
  unfold Core.setSeq; repeat (first | rfl | split)
@[simp] theorem setSeq_core_hstack (c : Core) (e : Eng) (q : SeqState) : (c.setSeq e q).hstack = c.hstack := by
  unfold Core.setSeq; repeat (first | rfl | split)
@[simp] theorem setSeq_core_vreg (c : Core) (e : Eng) (q : SeqState) : (c.setSeq e q).vreg = c.vreg := by
  unfold Core.setSeq; repeat (first | rfl | split)
@[simp] theorem setSeq_core_mreg (c : Core) (e : Eng) (q : SeqState) : (c.setSeq e q).mreg = c.mreg := by
  unfold Core.setSeq; repeat (first | rfl | split)
@[simp] theorem setSeq_core_rrb (c : Core) (e : Eng) (q : SeqState) : (c.setSeq e q).rrb = c.rrb := by
  unfold Core.setSeq; repeat (first | rfl | split)
@[simp] theorem setSeq_core_tile (c : Core) (e : Eng) (q : SeqState) : (c.setSeq e q).tile = c.tile := by
  unfold Core.setSeq; repeat (first | rfl | split)
@[simp] theorem setSeq_core_tileOwner (c : Core) (e : Eng) (q : SeqState) : (c.setSeq e q).tileOwner = c.tileOwner := by
  unfold Core.setSeq; repeat (first | rfl | split)
@[simp] theorem setSeq_core_tileSt (c : Core) (e : Eng) (q : SeqState) : (c.setSeq e q).tileSt = c.tileSt := by
  unfold Core.setSeq; repeat (first | rfl | split)
@[simp] theorem setSeq_core_tileAbs (c : Core) (e : Eng) (q : SeqState) : (c.setSeq e q).tileAbs = c.tileAbs := by
  unfold Core.setSeq; repeat (first | rfl | split)
@[simp] theorem setSeq_core_fmtTab (c : Core) (e : Eng) (q : SeqState) : (c.setSeq e q).fmtTab = c.fmtTab := by
  unfold Core.setSeq; repeat (first | rfl | split)
@[simp] theorem setSeq_core_events (c : Core) (e : Eng) (q : SeqState) : (c.setSeq e q).events = c.events := by
  unfold Core.setSeq; repeat (first | rfl | split)
@[simp] theorem setSeq_core_rings (c : Core) (e : Eng) (q : SeqState) : (c.setSeq e q).rings = c.rings := by
  unfold Core.setSeq; repeat (first | rfl | split)
@[simp] theorem setSeq_core_cwRec (c : Core) (e : Eng) (q : SeqState) : (c.setSeq e q).cwRec = c.cwRec := by
  unfold Core.setSeq; repeat (first | rfl | split)
@[simp] theorem setSeq_core_cwBase (c : Core) (e : Eng) (q : SeqState) : (c.setSeq e q).cwBase = c.cwBase := by
  unfold Core.setSeq; repeat (first | rfl | split)
@[simp] theorem setSeq_core_slipw (c : Core) (e : Eng) (q : SeqState) : (c.setSeq e q).slipw = c.slipw := by
  unfold Core.setSeq; repeat (first | rfl | split)
@[simp] theorem setSeq_core_spdmax (c : Core) (e : Eng) (q : SeqState) : (c.setSeq e q).spdmax = c.spdmax := by
  unfold Core.setSeq; repeat (first | rfl | split)
@[simp] theorem setSeq_core_spdist (c : Core) (e : Eng) (q : SeqState) : (c.setSeq e q).spdist = c.spdist := by
  unfold Core.setSeq; repeat (first | rfl | split)
@[simp] theorem setSeq_core_detmode (c : Core) (e : Eng) (q : SeqState) : (c.setSeq e q).detmode = c.detmode := by
  unfold Core.setSeq; repeat (first | rfl | split)
@[simp] theorem setSeq_core_regions (c : Core) (e : Eng) (q : SeqState) : (c.setSeq e q).regions = c.regions := by
  unfold Core.setSeq; repeat (first | rfl | split)
@[simp] theorem setSeq_core_nfull (c : Core) (e : Eng) (q : SeqState) : (c.setSeq e q).nfull = c.nfull := by
  unfold Core.setSeq; repeat (first | rfl | split)
@[simp] theorem setSeq_core_nage (c : Core) (e : Eng) (q : SeqState) : (c.setSeq e q).nage = c.nage := by
  unfold Core.setSeq; repeat (first | rfl | split)
@[simp] theorem setSeq_core_ctx (c : Core) (e : Eng) (q : SeqState) : (c.setSeq e q).ctx = c.ctx := by
  unfold Core.setSeq; repeat (first | rfl | split)
@[simp] theorem setSeq_core_mode (c : Core) (e : Eng) (q : SeqState) : (c.setSeq e q).mode = c.mode := by
  unfold Core.setSeq; repeat (first | rfl | split)
@[simp] theorem setSeq_core_modeFrom (c : Core) (e : Eng) (q : SeqState) : (c.setSeq e q).modeFrom = c.modeFrom := by
  unfold Core.setSeq; repeat (first | rfl | split)
@[simp] theorem setSeq_core_fwHandler (c : Core) (e : Eng) (q : SeqState) : (c.setSeq e q).fwHandler = c.fwHandler := by
  unfold Core.setSeq; repeat (first | rfl | split)
@[simp] theorem setSeq_core_trapCause (c : Core) (e : Eng) (q : SeqState) : (c.setSeq e q).trapCause = c.trapCause := by
  unfold Core.setSeq; repeat (first | rfl | split)
@[simp] theorem setSeq_core_trapAddr (c : Core) (e : Eng) (q : SeqState) : (c.setSeq e q).trapAddr = c.trapAddr := by
  unfold Core.setSeq; repeat (first | rfl | split)
@[simp] theorem setSeq_core_trapEng (c : Core) (e : Eng) (q : SeqState) : (c.setSeq e q).trapEng = c.trapEng := by
  unfold Core.setSeq; repeat (first | rfl | split)
@[simp] theorem setSeq_core_trapBase (c : Core) (e : Eng) (q : SeqState) : (c.setSeq e q).trapBase = c.trapBase := by
  unfold Core.setSeq; repeat (first | rfl | split)
@[simp] theorem setSeq_core_trapVec (c : Core) (e : Eng) (q : SeqState) : (c.setSeq e q).trapVec = c.trapVec := by
  unfold Core.setSeq; repeat (first | rfl | split)
@[simp] theorem setSeq_core_trapPc (c : Core) (e : Eng) (q : SeqState) : (c.setSeq e q).trapPc = c.trapPc := by
  unfold Core.setSeq; repeat (first | rfl | split)
@[simp] theorem setSeq_core_wdog (c : Core) (e : Eng) (q : SeqState) : (c.setSeq e q).wdog = c.wdog := by
  unfold Core.setSeq; repeat (first | rfl | split)
@[simp] theorem setSeq_core_ntrap (c : Core) (e : Eng) (q : SeqState) : (c.setSeq e q).ntrap = c.ntrap := by
  unfold Core.setSeq; repeat (first | rfl | split)
@[simp] theorem setSeq_core_nesc (c : Core) (e : Eng) (q : SeqState) : (c.setSeq e q).nesc = c.nesc := by
  unfold Core.setSeq; repeat (first | rfl | split)
@[simp] theorem setSeq_core_rfstat (c : Core) (e : Eng) (q : SeqState) : (c.setSeq e q).rfstat = c.rfstat := by
  unfold Core.setSeq; repeat (first | rfl | split)
@[simp] theorem setSeq_core_npark (c : Core) (e : Eng) (q : SeqState) : (c.setSeq e q).npark = c.npark := by
  unfold Core.setSeq; repeat (first | rfl | split)
@[simp] theorem setSeq_core_nmiss (c : Core) (e : Eng) (q : SeqState) : (c.setSeq e q).nmiss = c.nmiss := by
  unfold Core.setSeq; repeat (first | rfl | split)
@[simp] theorem setSeq_core_nwalk (c : Core) (e : Eng) (q : SeqState) : (c.setSeq e q).nwalk = c.nwalk := by
  unfold Core.setSeq; repeat (first | rfl | split)
@[simp] theorem setSeq_core_nfault (c : Core) (e : Eng) (q : SeqState) : (c.setSeq e q).nfault = c.nfault := by
  unfold Core.setSeq; repeat (first | rfl | split)
@[simp] theorem setSeq_core_nser (c : Core) (e : Eng) (q : SeqState) : (c.setSeq e q).nser = c.nser := by
  unfold Core.setSeq; repeat (first | rfl | split)
@[simp] theorem setSeq_core_nwait (c : Core) (e : Eng) (q : SeqState) : (c.setSeq e q).nwait = c.nwait := by
  unfold Core.setSeq; repeat (first | rfl | split)
@[simp] theorem setSeq_core_nmma (c : Core) (e : Eng) (q : SeqState) : (c.setSeq e q).nmma = c.nmma := by
  unfold Core.setSeq; repeat (first | rfl | split)
@[simp] theorem setSeq_core_nmcast (c : Core) (e : Eng) (q : SeqState) : (c.setSeq e q).nmcast = c.nmcast := by
  unfold Core.setSeq; repeat (first | rfl | split)
@[simp] theorem setSeq_core_npois (c : Core) (e : Eng) (q : SeqState) : (c.setSeq e q).npois = c.npois := by
  unfold Core.setSeq; repeat (first | rfl | split)
@[simp] theorem setSeq_core_novf (c : Core) (e : Eng) (q : SeqState) : (c.setSeq e q).novf = c.novf := by
  unfold Core.setSeq; repeat (first | rfl | split)
@[simp] theorem setSeq_core_tlb (c : Core) (e : Eng) (q : SeqState) : (c.setSeq e q).tlb = c.tlb := by
  unfold Core.setSeq; repeat (first | rfl | split)
@[simp] theorem setSeq_core_replay (c : Core) (e : Eng) (q : SeqState) : (c.setSeq e q).replay = c.replay := by
  unfold Core.setSeq; repeat (first | rfl | split)
@[simp] theorem setSeq_core_copies (c : Core) (e : Eng) (q : SeqState) : (c.setSeq e q).copies = c.copies := by
  unfold Core.setSeq; repeat (first | rfl | split)
@[simp] theorem setSeq_core_bmvs (c : Core) (e : Eng) (q : SeqState) : (c.setSeq e q).bmvs = c.bmvs := by
  unfold Core.setSeq; repeat (first | rfl | split)
@[simp] theorem setSeq_core_inst (c : Core) (e : Eng) (q : SeqState) : (c.setSeq e q).inst = c.inst := by
  unfold Core.setSeq; repeat (first | rfl | split)
@[simp] theorem setSeq_core_active (c : Core) (e : Eng) (q : SeqState) : (c.setSeq e q).active = c.active := by
  unfold Core.setSeq; repeat (first | rfl | split)
@[simp] theorem setSeq_core_parked (c : Core) (e : Eng) (q : SeqState) : (c.setSeq e q).parked = c.parked := by
  unfold Core.setSeq; repeat (first | rfl | split)
@[simp] theorem setSeq_core_spilled (c : Core) (e : Eng) (q : SeqState) : (c.setSeq e q).spilled = c.spilled := by
  unfold Core.setSeq; repeat (first | rfl | split)
@[simp] theorem setSeq_core_trapPend (c : Core) (e : Eng) (q : SeqState) : (c.setSeq e q).trapPend = c.trapPend := by
  unfold Core.setSeq; repeat (first | rfl | split)
@[simp] theorem setSeq_core_stopReq (c : Core) (e : Eng) (q : SeqState) : (c.setSeq e q).stopReq = c.stopReq := by
  unfold Core.setSeq; repeat (first | rfl | split)
@[simp] theorem setSeq_core_cancel (c : Core) (e : Eng) (q : SeqState) : (c.setSeq e q).cancel = c.cancel := by
  unfold Core.setSeq; repeat (first | rfl | split)
@[simp] theorem setSeq_core_abandon (c : Core) (e : Eng) (q : SeqState) : (c.setSeq e q).abandon = c.abandon := by
  unfold Core.setSeq; repeat (first | rfl | split)
@[simp] theorem setSeq_core_handlerSince (c : Core) (e : Eng) (q : SeqState) : (c.setSeq e q).handlerSince = c.handlerSince := by
  unfold Core.setSeq; repeat (first | rfl | split)
@[simp] theorem setSeq_core_escCause (c : Core) (e : Eng) (q : SeqState) : (c.setSeq e q).escCause = c.escCause := by
  unfold Core.setSeq; repeat (first | rfl | split)
@[simp] theorem setSeq_core_escEng (c : Core) (e : Eng) (q : SeqState) : (c.setSeq e q).escEng = c.escEng := by
  unfold Core.setSeq; repeat (first | rfl | split)
@[simp] theorem setSeq_core_escPend (c : Core) (e : Eng) (q : SeqState) : (c.setSeq e q).escPend = c.escPend := by
  unfold Core.setSeq; repeat (first | rfl | split)
@[simp] theorem setSeq_core_ctile (c : Core) (e : Eng) (q : SeqState) : (c.setSeq e q).ctile = c.ctile := by
  unfold Core.setSeq; repeat (first | rfl | split)
@[simp] theorem setSeq_core_tjob (c : Core) (e : Eng) (q : SeqState) : (c.setSeq e q).tjob = c.tjob := by
  unfold Core.setSeq; repeat (first | rfl | split)
@[simp] theorem setSeq_core_tbusy (c : Core) (e : Eng) (q : SeqState) : (c.setSeq e q).tbusy = c.tbusy := by
  unfold Core.setSeq; repeat (first | rfl | split)
@[simp] theorem setSeq_core_tfull (c : Core) (e : Eng) (q : SeqState) : (c.setSeq e q).tfull = c.tfull := by
  unfold Core.setSeq; repeat (first | rfl | split)
@[simp] theorem setSeq_core_trefused (c : Core) (e : Eng) (q : SeqState) : (c.setSeq e q).trefused = c.trefused := by
  unfold Core.setSeq; repeat (first | rfl | split)
@[simp] theorem setSeq_core_barw (c : Core) (e : Eng) (q : SeqState) : (c.setSeq e q).barw = c.barw := by
  unfold Core.setSeq; repeat (first | rfl | split)
@[simp] theorem setSeq_core_halted (c : Core) (e : Eng) (q : SeqState) : (c.setSeq e q).halted = c.halted := by
  unfold Core.setSeq; repeat (first | rfl | split)
@[simp] theorem setSeq_core_cl0Hold (c : Core) (e : Eng) (q : SeqState) : (c.setSeq e q).cl0Hold = c.cl0Hold := by
  unfold Core.setSeq; repeat (first | rfl | split)
@[simp] theorem setSeq_core_stubPc (c : Core) (e : Eng) (q : SeqState) : (c.setSeq e q).stubPc = c.stubPc := by
  unfold Core.setSeq; repeat (first | rfl | split)
@[simp] theorem setSeq_core_stubEnded (c : Core) (e : Eng) (q : SeqState) : (c.setSeq e q).stubEnded = c.stubEnded := by
  unfold Core.setSeq; repeat (first | rfl | split)
@[simp] theorem setSeq_core_stubSafe (c : Core) (e : Eng) (q : SeqState) : (c.setSeq e q).stubSafe = c.stubSafe := by
  unfold Core.setSeq; repeat (first | rfl | split)
@[simp] theorem setSeq_core_turn (c : Core) (e : Eng) (q : SeqState) : (c.setSeq e q).turn = c.turn := by
  unfold Core.setSeq; repeat (first | rfl | split)

@[simp] theorem setS_core_seqs (c : Core) (n : Nat) (v : W64) : (c.setS n v).seqs = c.seqs := by
  unfold Core.setS; repeat (first | rfl | split)
@[simp] theorem setS_core_greg (c : Core) (n : Nat) (v : W64) : (c.setS n v).greg = c.greg := by
  unfold Core.setS; repeat (first | rfl | split)
@[simp] theorem setS_core_stack (c : Core) (n : Nat) (v : W64) : (c.setS n v).stack = c.stack := by
  unfold Core.setS; repeat (first | rfl | split)
@[simp] theorem setS_core_hgreg (c : Core) (n : Nat) (v : W64) : (c.setS n v).hgreg = c.hgreg := by
  unfold Core.setS; repeat (first | rfl | split)
@[simp] theorem setS_core_hstack (c : Core) (n : Nat) (v : W64) : (c.setS n v).hstack = c.hstack := by
  unfold Core.setS; repeat (first | rfl | split)
@[simp] theorem setS_core_hseqs (c : Core) (n : Nat) (v : W64) : (c.setS n v).hseqs = c.hseqs := by
  unfold Core.setS; repeat (first | rfl | split)
@[simp] theorem setS_core_vreg (c : Core) (n : Nat) (v : W64) : (c.setS n v).vreg = c.vreg := by
  unfold Core.setS; repeat (first | rfl | split)
@[simp] theorem setS_core_mreg (c : Core) (n : Nat) (v : W64) : (c.setS n v).mreg = c.mreg := by
  unfold Core.setS; repeat (first | rfl | split)
@[simp] theorem setS_core_rrb (c : Core) (n : Nat) (v : W64) : (c.setS n v).rrb = c.rrb := by
  unfold Core.setS; repeat (first | rfl | split)
@[simp] theorem setS_core_tile (c : Core) (n : Nat) (v : W64) : (c.setS n v).tile = c.tile := by
  unfold Core.setS; repeat (first | rfl | split)
@[simp] theorem setS_core_tileOwner (c : Core) (n : Nat) (v : W64) : (c.setS n v).tileOwner = c.tileOwner := by
  unfold Core.setS; repeat (first | rfl | split)
@[simp] theorem setS_core_tileSt (c : Core) (n : Nat) (v : W64) : (c.setS n v).tileSt = c.tileSt := by
  unfold Core.setS; repeat (first | rfl | split)
@[simp] theorem setS_core_tileAbs (c : Core) (n : Nat) (v : W64) : (c.setS n v).tileAbs = c.tileAbs := by
  unfold Core.setS; repeat (first | rfl | split)
@[simp] theorem setS_core_fmtTab (c : Core) (n : Nat) (v : W64) : (c.setS n v).fmtTab = c.fmtTab := by
  unfold Core.setS; repeat (first | rfl | split)
@[simp] theorem setS_core_events (c : Core) (n : Nat) (v : W64) : (c.setS n v).events = c.events := by
  unfold Core.setS; repeat (first | rfl | split)
@[simp] theorem setS_core_rings (c : Core) (n : Nat) (v : W64) : (c.setS n v).rings = c.rings := by
  unfold Core.setS; repeat (first | rfl | split)
@[simp] theorem setS_core_cwRec (c : Core) (n : Nat) (v : W64) : (c.setS n v).cwRec = c.cwRec := by
  unfold Core.setS; repeat (first | rfl | split)
@[simp] theorem setS_core_cwBase (c : Core) (n : Nat) (v : W64) : (c.setS n v).cwBase = c.cwBase := by
  unfold Core.setS; repeat (first | rfl | split)
@[simp] theorem setS_core_slipw (c : Core) (n : Nat) (v : W64) : (c.setS n v).slipw = c.slipw := by
  unfold Core.setS; repeat (first | rfl | split)
@[simp] theorem setS_core_spdmax (c : Core) (n : Nat) (v : W64) : (c.setS n v).spdmax = c.spdmax := by
  unfold Core.setS; repeat (first | rfl | split)
@[simp] theorem setS_core_spdist (c : Core) (n : Nat) (v : W64) : (c.setS n v).spdist = c.spdist := by
  unfold Core.setS; repeat (first | rfl | split)
@[simp] theorem setS_core_detmode (c : Core) (n : Nat) (v : W64) : (c.setS n v).detmode = c.detmode := by
  unfold Core.setS; repeat (first | rfl | split)
@[simp] theorem setS_core_regions (c : Core) (n : Nat) (v : W64) : (c.setS n v).regions = c.regions := by
  unfold Core.setS; repeat (first | rfl | split)
@[simp] theorem setS_core_nfull (c : Core) (n : Nat) (v : W64) : (c.setS n v).nfull = c.nfull := by
  unfold Core.setS; repeat (first | rfl | split)
@[simp] theorem setS_core_nage (c : Core) (n : Nat) (v : W64) : (c.setS n v).nage = c.nage := by
  unfold Core.setS; repeat (first | rfl | split)
@[simp] theorem setS_core_ctx (c : Core) (n : Nat) (v : W64) : (c.setS n v).ctx = c.ctx := by
  unfold Core.setS; repeat (first | rfl | split)
@[simp] theorem setS_core_mode (c : Core) (n : Nat) (v : W64) : (c.setS n v).mode = c.mode := by
  unfold Core.setS; repeat (first | rfl | split)
@[simp] theorem setS_core_modeFrom (c : Core) (n : Nat) (v : W64) : (c.setS n v).modeFrom = c.modeFrom := by
  unfold Core.setS; repeat (first | rfl | split)
@[simp] theorem setS_core_fwHandler (c : Core) (n : Nat) (v : W64) : (c.setS n v).fwHandler = c.fwHandler := by
  unfold Core.setS; repeat (first | rfl | split)
@[simp] theorem setS_core_trapCause (c : Core) (n : Nat) (v : W64) : (c.setS n v).trapCause = c.trapCause := by
  unfold Core.setS; repeat (first | rfl | split)
@[simp] theorem setS_core_trapAddr (c : Core) (n : Nat) (v : W64) : (c.setS n v).trapAddr = c.trapAddr := by
  unfold Core.setS; repeat (first | rfl | split)
@[simp] theorem setS_core_trapEng (c : Core) (n : Nat) (v : W64) : (c.setS n v).trapEng = c.trapEng := by
  unfold Core.setS; repeat (first | rfl | split)
@[simp] theorem setS_core_trapBase (c : Core) (n : Nat) (v : W64) : (c.setS n v).trapBase = c.trapBase := by
  unfold Core.setS; repeat (first | rfl | split)
@[simp] theorem setS_core_trapVec (c : Core) (n : Nat) (v : W64) : (c.setS n v).trapVec = c.trapVec := by
  unfold Core.setS; repeat (first | rfl | split)
@[simp] theorem setS_core_trapPc (c : Core) (n : Nat) (v : W64) : (c.setS n v).trapPc = c.trapPc := by
  unfold Core.setS; repeat (first | rfl | split)
@[simp] theorem setS_core_wdog (c : Core) (n : Nat) (v : W64) : (c.setS n v).wdog = c.wdog := by
  unfold Core.setS; repeat (first | rfl | split)
@[simp] theorem setS_core_ntrap (c : Core) (n : Nat) (v : W64) : (c.setS n v).ntrap = c.ntrap := by
  unfold Core.setS; repeat (first | rfl | split)
@[simp] theorem setS_core_nesc (c : Core) (n : Nat) (v : W64) : (c.setS n v).nesc = c.nesc := by
  unfold Core.setS; repeat (first | rfl | split)
@[simp] theorem setS_core_rfstat (c : Core) (n : Nat) (v : W64) : (c.setS n v).rfstat = c.rfstat := by
  unfold Core.setS; repeat (first | rfl | split)
@[simp] theorem setS_core_npark (c : Core) (n : Nat) (v : W64) : (c.setS n v).npark = c.npark := by
  unfold Core.setS; repeat (first | rfl | split)
@[simp] theorem setS_core_nmiss (c : Core) (n : Nat) (v : W64) : (c.setS n v).nmiss = c.nmiss := by
  unfold Core.setS; repeat (first | rfl | split)
@[simp] theorem setS_core_nwalk (c : Core) (n : Nat) (v : W64) : (c.setS n v).nwalk = c.nwalk := by
  unfold Core.setS; repeat (first | rfl | split)
@[simp] theorem setS_core_nfault (c : Core) (n : Nat) (v : W64) : (c.setS n v).nfault = c.nfault := by
  unfold Core.setS; repeat (first | rfl | split)
@[simp] theorem setS_core_nser (c : Core) (n : Nat) (v : W64) : (c.setS n v).nser = c.nser := by
  unfold Core.setS; repeat (first | rfl | split)
@[simp] theorem setS_core_nwait (c : Core) (n : Nat) (v : W64) : (c.setS n v).nwait = c.nwait := by
  unfold Core.setS; repeat (first | rfl | split)
@[simp] theorem setS_core_nmma (c : Core) (n : Nat) (v : W64) : (c.setS n v).nmma = c.nmma := by
  unfold Core.setS; repeat (first | rfl | split)
@[simp] theorem setS_core_nmcast (c : Core) (n : Nat) (v : W64) : (c.setS n v).nmcast = c.nmcast := by
  unfold Core.setS; repeat (first | rfl | split)
@[simp] theorem setS_core_npois (c : Core) (n : Nat) (v : W64) : (c.setS n v).npois = c.npois := by
  unfold Core.setS; repeat (first | rfl | split)
@[simp] theorem setS_core_novf (c : Core) (n : Nat) (v : W64) : (c.setS n v).novf = c.novf := by
  unfold Core.setS; repeat (first | rfl | split)
@[simp] theorem setS_core_tlb (c : Core) (n : Nat) (v : W64) : (c.setS n v).tlb = c.tlb := by
  unfold Core.setS; repeat (first | rfl | split)
@[simp] theorem setS_core_replay (c : Core) (n : Nat) (v : W64) : (c.setS n v).replay = c.replay := by
  unfold Core.setS; repeat (first | rfl | split)
@[simp] theorem setS_core_copies (c : Core) (n : Nat) (v : W64) : (c.setS n v).copies = c.copies := by
  unfold Core.setS; repeat (first | rfl | split)
@[simp] theorem setS_core_bmvs (c : Core) (n : Nat) (v : W64) : (c.setS n v).bmvs = c.bmvs := by
  unfold Core.setS; repeat (first | rfl | split)
@[simp] theorem setS_core_inst (c : Core) (n : Nat) (v : W64) : (c.setS n v).inst = c.inst := by
  unfold Core.setS; repeat (first | rfl | split)
@[simp] theorem setS_core_active (c : Core) (n : Nat) (v : W64) : (c.setS n v).active = c.active := by
  unfold Core.setS; repeat (first | rfl | split)
@[simp] theorem setS_core_parked (c : Core) (n : Nat) (v : W64) : (c.setS n v).parked = c.parked := by
  unfold Core.setS; repeat (first | rfl | split)
@[simp] theorem setS_core_spilled (c : Core) (n : Nat) (v : W64) : (c.setS n v).spilled = c.spilled := by
  unfold Core.setS; repeat (first | rfl | split)
@[simp] theorem setS_core_trapPend (c : Core) (n : Nat) (v : W64) : (c.setS n v).trapPend = c.trapPend := by
  unfold Core.setS; repeat (first | rfl | split)
@[simp] theorem setS_core_stopReq (c : Core) (n : Nat) (v : W64) : (c.setS n v).stopReq = c.stopReq := by
  unfold Core.setS; repeat (first | rfl | split)
@[simp] theorem setS_core_cancel (c : Core) (n : Nat) (v : W64) : (c.setS n v).cancel = c.cancel := by
  unfold Core.setS; repeat (first | rfl | split)
@[simp] theorem setS_core_abandon (c : Core) (n : Nat) (v : W64) : (c.setS n v).abandon = c.abandon := by
  unfold Core.setS; repeat (first | rfl | split)
@[simp] theorem setS_core_handlerSince (c : Core) (n : Nat) (v : W64) : (c.setS n v).handlerSince = c.handlerSince := by
  unfold Core.setS; repeat (first | rfl | split)
@[simp] theorem setS_core_escCause (c : Core) (n : Nat) (v : W64) : (c.setS n v).escCause = c.escCause := by
  unfold Core.setS; repeat (first | rfl | split)
@[simp] theorem setS_core_escEng (c : Core) (n : Nat) (v : W64) : (c.setS n v).escEng = c.escEng := by
  unfold Core.setS; repeat (first | rfl | split)
@[simp] theorem setS_core_escPend (c : Core) (n : Nat) (v : W64) : (c.setS n v).escPend = c.escPend := by
  unfold Core.setS; repeat (first | rfl | split)
@[simp] theorem setS_core_ctile (c : Core) (n : Nat) (v : W64) : (c.setS n v).ctile = c.ctile := by
  unfold Core.setS; repeat (first | rfl | split)
@[simp] theorem setS_core_tjob (c : Core) (n : Nat) (v : W64) : (c.setS n v).tjob = c.tjob := by
  unfold Core.setS; repeat (first | rfl | split)
@[simp] theorem setS_core_tbusy (c : Core) (n : Nat) (v : W64) : (c.setS n v).tbusy = c.tbusy := by
  unfold Core.setS; repeat (first | rfl | split)
@[simp] theorem setS_core_tfull (c : Core) (n : Nat) (v : W64) : (c.setS n v).tfull = c.tfull := by
  unfold Core.setS; repeat (first | rfl | split)
@[simp] theorem setS_core_trefused (c : Core) (n : Nat) (v : W64) : (c.setS n v).trefused = c.trefused := by
  unfold Core.setS; repeat (first | rfl | split)
@[simp] theorem setS_core_barw (c : Core) (n : Nat) (v : W64) : (c.setS n v).barw = c.barw := by
  unfold Core.setS; repeat (first | rfl | split)
@[simp] theorem setS_core_halted (c : Core) (n : Nat) (v : W64) : (c.setS n v).halted = c.halted := by
  unfold Core.setS; repeat (first | rfl | split)
@[simp] theorem setS_core_cl0Hold (c : Core) (n : Nat) (v : W64) : (c.setS n v).cl0Hold = c.cl0Hold := by
  unfold Core.setS; repeat (first | rfl | split)
@[simp] theorem setS_core_stubPc (c : Core) (n : Nat) (v : W64) : (c.setS n v).stubPc = c.stubPc := by
  unfold Core.setS; repeat (first | rfl | split)
@[simp] theorem setS_core_stubEnded (c : Core) (n : Nat) (v : W64) : (c.setS n v).stubEnded = c.stubEnded := by
  unfold Core.setS; repeat (first | rfl | split)
@[simp] theorem setS_core_stubSafe (c : Core) (n : Nat) (v : W64) : (c.setS n v).stubSafe = c.stubSafe := by
  unfold Core.setS; repeat (first | rfl | split)
@[simp] theorem setS_core_turn (c : Core) (n : Nat) (v : W64) : (c.setS n v).turn = c.turn := by
  unfold Core.setS; repeat (first | rfl | split)

@[simp] theorem setG_core_seqs (c : Core) (e : Eng) (n : Nat) (v : W64) : (c.setG e n v).seqs = c.seqs := by
  unfold Core.setG; repeat (first | rfl | split)
@[simp] theorem setG_core_sreg (c : Core) (e : Eng) (n : Nat) (v : W64) : (c.setG e n v).sreg = c.sreg := by
  unfold Core.setG; repeat (first | rfl | split)
@[simp] theorem setG_core_stack (c : Core) (e : Eng) (n : Nat) (v : W64) : (c.setG e n v).stack = c.stack := by
  unfold Core.setG; repeat (first | rfl | split)
@[simp] theorem setG_core_hsreg (c : Core) (e : Eng) (n : Nat) (v : W64) : (c.setG e n v).hsreg = c.hsreg := by
  unfold Core.setG; repeat (first | rfl | split)
@[simp] theorem setG_core_hstack (c : Core) (e : Eng) (n : Nat) (v : W64) : (c.setG e n v).hstack = c.hstack := by
  unfold Core.setG; repeat (first | rfl | split)
@[simp] theorem setG_core_hseqs (c : Core) (e : Eng) (n : Nat) (v : W64) : (c.setG e n v).hseqs = c.hseqs := by
  unfold Core.setG; repeat (first | rfl | split)
@[simp] theorem setG_core_vreg (c : Core) (e : Eng) (n : Nat) (v : W64) : (c.setG e n v).vreg = c.vreg := by
  unfold Core.setG; repeat (first | rfl | split)
@[simp] theorem setG_core_mreg (c : Core) (e : Eng) (n : Nat) (v : W64) : (c.setG e n v).mreg = c.mreg := by
  unfold Core.setG; repeat (first | rfl | split)
@[simp] theorem setG_core_rrb (c : Core) (e : Eng) (n : Nat) (v : W64) : (c.setG e n v).rrb = c.rrb := by
  unfold Core.setG; repeat (first | rfl | split)
@[simp] theorem setG_core_tile (c : Core) (e : Eng) (n : Nat) (v : W64) : (c.setG e n v).tile = c.tile := by
  unfold Core.setG; repeat (first | rfl | split)
@[simp] theorem setG_core_tileOwner (c : Core) (e : Eng) (n : Nat) (v : W64) : (c.setG e n v).tileOwner = c.tileOwner := by
  unfold Core.setG; repeat (first | rfl | split)
@[simp] theorem setG_core_tileSt (c : Core) (e : Eng) (n : Nat) (v : W64) : (c.setG e n v).tileSt = c.tileSt := by
  unfold Core.setG; repeat (first | rfl | split)
@[simp] theorem setG_core_tileAbs (c : Core) (e : Eng) (n : Nat) (v : W64) : (c.setG e n v).tileAbs = c.tileAbs := by
  unfold Core.setG; repeat (first | rfl | split)
@[simp] theorem setG_core_fmtTab (c : Core) (e : Eng) (n : Nat) (v : W64) : (c.setG e n v).fmtTab = c.fmtTab := by
  unfold Core.setG; repeat (first | rfl | split)
@[simp] theorem setG_core_events (c : Core) (e : Eng) (n : Nat) (v : W64) : (c.setG e n v).events = c.events := by
  unfold Core.setG; repeat (first | rfl | split)
@[simp] theorem setG_core_rings (c : Core) (e : Eng) (n : Nat) (v : W64) : (c.setG e n v).rings = c.rings := by
  unfold Core.setG; repeat (first | rfl | split)
@[simp] theorem setG_core_cwRec (c : Core) (e : Eng) (n : Nat) (v : W64) : (c.setG e n v).cwRec = c.cwRec := by
  unfold Core.setG; repeat (first | rfl | split)
@[simp] theorem setG_core_cwBase (c : Core) (e : Eng) (n : Nat) (v : W64) : (c.setG e n v).cwBase = c.cwBase := by
  unfold Core.setG; repeat (first | rfl | split)
@[simp] theorem setG_core_slipw (c : Core) (e : Eng) (n : Nat) (v : W64) : (c.setG e n v).slipw = c.slipw := by
  unfold Core.setG; repeat (first | rfl | split)
@[simp] theorem setG_core_spdmax (c : Core) (e : Eng) (n : Nat) (v : W64) : (c.setG e n v).spdmax = c.spdmax := by
  unfold Core.setG; repeat (first | rfl | split)
@[simp] theorem setG_core_spdist (c : Core) (e : Eng) (n : Nat) (v : W64) : (c.setG e n v).spdist = c.spdist := by
  unfold Core.setG; repeat (first | rfl | split)
@[simp] theorem setG_core_detmode (c : Core) (e : Eng) (n : Nat) (v : W64) : (c.setG e n v).detmode = c.detmode := by
  unfold Core.setG; repeat (first | rfl | split)
@[simp] theorem setG_core_regions (c : Core) (e : Eng) (n : Nat) (v : W64) : (c.setG e n v).regions = c.regions := by
  unfold Core.setG; repeat (first | rfl | split)
@[simp] theorem setG_core_nfull (c : Core) (e : Eng) (n : Nat) (v : W64) : (c.setG e n v).nfull = c.nfull := by
  unfold Core.setG; repeat (first | rfl | split)
@[simp] theorem setG_core_nage (c : Core) (e : Eng) (n : Nat) (v : W64) : (c.setG e n v).nage = c.nage := by
  unfold Core.setG; repeat (first | rfl | split)
@[simp] theorem setG_core_ctx (c : Core) (e : Eng) (n : Nat) (v : W64) : (c.setG e n v).ctx = c.ctx := by
  unfold Core.setG; repeat (first | rfl | split)
@[simp] theorem setG_core_mode (c : Core) (e : Eng) (n : Nat) (v : W64) : (c.setG e n v).mode = c.mode := by
  unfold Core.setG; repeat (first | rfl | split)
@[simp] theorem setG_core_modeFrom (c : Core) (e : Eng) (n : Nat) (v : W64) : (c.setG e n v).modeFrom = c.modeFrom := by
  unfold Core.setG; repeat (first | rfl | split)
@[simp] theorem setG_core_fwHandler (c : Core) (e : Eng) (n : Nat) (v : W64) : (c.setG e n v).fwHandler = c.fwHandler := by
  unfold Core.setG; repeat (first | rfl | split)
@[simp] theorem setG_core_trapCause (c : Core) (e : Eng) (n : Nat) (v : W64) : (c.setG e n v).trapCause = c.trapCause := by
  unfold Core.setG; repeat (first | rfl | split)
@[simp] theorem setG_core_trapAddr (c : Core) (e : Eng) (n : Nat) (v : W64) : (c.setG e n v).trapAddr = c.trapAddr := by
  unfold Core.setG; repeat (first | rfl | split)
@[simp] theorem setG_core_trapEng (c : Core) (e : Eng) (n : Nat) (v : W64) : (c.setG e n v).trapEng = c.trapEng := by
  unfold Core.setG; repeat (first | rfl | split)
@[simp] theorem setG_core_trapBase (c : Core) (e : Eng) (n : Nat) (v : W64) : (c.setG e n v).trapBase = c.trapBase := by
  unfold Core.setG; repeat (first | rfl | split)
@[simp] theorem setG_core_trapVec (c : Core) (e : Eng) (n : Nat) (v : W64) : (c.setG e n v).trapVec = c.trapVec := by
  unfold Core.setG; repeat (first | rfl | split)
@[simp] theorem setG_core_trapPc (c : Core) (e : Eng) (n : Nat) (v : W64) : (c.setG e n v).trapPc = c.trapPc := by
  unfold Core.setG; repeat (first | rfl | split)
@[simp] theorem setG_core_wdog (c : Core) (e : Eng) (n : Nat) (v : W64) : (c.setG e n v).wdog = c.wdog := by
  unfold Core.setG; repeat (first | rfl | split)
@[simp] theorem setG_core_ntrap (c : Core) (e : Eng) (n : Nat) (v : W64) : (c.setG e n v).ntrap = c.ntrap := by
  unfold Core.setG; repeat (first | rfl | split)
@[simp] theorem setG_core_nesc (c : Core) (e : Eng) (n : Nat) (v : W64) : (c.setG e n v).nesc = c.nesc := by
  unfold Core.setG; repeat (first | rfl | split)
@[simp] theorem setG_core_rfstat (c : Core) (e : Eng) (n : Nat) (v : W64) : (c.setG e n v).rfstat = c.rfstat := by
  unfold Core.setG; repeat (first | rfl | split)
@[simp] theorem setG_core_npark (c : Core) (e : Eng) (n : Nat) (v : W64) : (c.setG e n v).npark = c.npark := by
  unfold Core.setG; repeat (first | rfl | split)
@[simp] theorem setG_core_nmiss (c : Core) (e : Eng) (n : Nat) (v : W64) : (c.setG e n v).nmiss = c.nmiss := by
  unfold Core.setG; repeat (first | rfl | split)
@[simp] theorem setG_core_nwalk (c : Core) (e : Eng) (n : Nat) (v : W64) : (c.setG e n v).nwalk = c.nwalk := by
  unfold Core.setG; repeat (first | rfl | split)
@[simp] theorem setG_core_nfault (c : Core) (e : Eng) (n : Nat) (v : W64) : (c.setG e n v).nfault = c.nfault := by
  unfold Core.setG; repeat (first | rfl | split)
@[simp] theorem setG_core_nser (c : Core) (e : Eng) (n : Nat) (v : W64) : (c.setG e n v).nser = c.nser := by
  unfold Core.setG; repeat (first | rfl | split)
@[simp] theorem setG_core_nwait (c : Core) (e : Eng) (n : Nat) (v : W64) : (c.setG e n v).nwait = c.nwait := by
  unfold Core.setG; repeat (first | rfl | split)
@[simp] theorem setG_core_nmma (c : Core) (e : Eng) (n : Nat) (v : W64) : (c.setG e n v).nmma = c.nmma := by
  unfold Core.setG; repeat (first | rfl | split)
@[simp] theorem setG_core_nmcast (c : Core) (e : Eng) (n : Nat) (v : W64) : (c.setG e n v).nmcast = c.nmcast := by
  unfold Core.setG; repeat (first | rfl | split)
@[simp] theorem setG_core_npois (c : Core) (e : Eng) (n : Nat) (v : W64) : (c.setG e n v).npois = c.npois := by
  unfold Core.setG; repeat (first | rfl | split)
@[simp] theorem setG_core_novf (c : Core) (e : Eng) (n : Nat) (v : W64) : (c.setG e n v).novf = c.novf := by
  unfold Core.setG; repeat (first | rfl | split)
@[simp] theorem setG_core_tlb (c : Core) (e : Eng) (n : Nat) (v : W64) : (c.setG e n v).tlb = c.tlb := by
  unfold Core.setG; repeat (first | rfl | split)
@[simp] theorem setG_core_replay (c : Core) (e : Eng) (n : Nat) (v : W64) : (c.setG e n v).replay = c.replay := by
  unfold Core.setG; repeat (first | rfl | split)
@[simp] theorem setG_core_copies (c : Core) (e : Eng) (n : Nat) (v : W64) : (c.setG e n v).copies = c.copies := by
  unfold Core.setG; repeat (first | rfl | split)
@[simp] theorem setG_core_bmvs (c : Core) (e : Eng) (n : Nat) (v : W64) : (c.setG e n v).bmvs = c.bmvs := by
  unfold Core.setG; repeat (first | rfl | split)
@[simp] theorem setG_core_inst (c : Core) (e : Eng) (n : Nat) (v : W64) : (c.setG e n v).inst = c.inst := by
  unfold Core.setG; repeat (first | rfl | split)
@[simp] theorem setG_core_active (c : Core) (e : Eng) (n : Nat) (v : W64) : (c.setG e n v).active = c.active := by
  unfold Core.setG; repeat (first | rfl | split)
@[simp] theorem setG_core_parked (c : Core) (e : Eng) (n : Nat) (v : W64) : (c.setG e n v).parked = c.parked := by
  unfold Core.setG; repeat (first | rfl | split)
@[simp] theorem setG_core_spilled (c : Core) (e : Eng) (n : Nat) (v : W64) : (c.setG e n v).spilled = c.spilled := by
  unfold Core.setG; repeat (first | rfl | split)
@[simp] theorem setG_core_trapPend (c : Core) (e : Eng) (n : Nat) (v : W64) : (c.setG e n v).trapPend = c.trapPend := by
  unfold Core.setG; repeat (first | rfl | split)
@[simp] theorem setG_core_stopReq (c : Core) (e : Eng) (n : Nat) (v : W64) : (c.setG e n v).stopReq = c.stopReq := by
  unfold Core.setG; repeat (first | rfl | split)
@[simp] theorem setG_core_cancel (c : Core) (e : Eng) (n : Nat) (v : W64) : (c.setG e n v).cancel = c.cancel := by
  unfold Core.setG; repeat (first | rfl | split)
@[simp] theorem setG_core_abandon (c : Core) (e : Eng) (n : Nat) (v : W64) : (c.setG e n v).abandon = c.abandon := by
  unfold Core.setG; repeat (first | rfl | split)
@[simp] theorem setG_core_handlerSince (c : Core) (e : Eng) (n : Nat) (v : W64) : (c.setG e n v).handlerSince = c.handlerSince := by
  unfold Core.setG; repeat (first | rfl | split)
@[simp] theorem setG_core_escCause (c : Core) (e : Eng) (n : Nat) (v : W64) : (c.setG e n v).escCause = c.escCause := by
  unfold Core.setG; repeat (first | rfl | split)
@[simp] theorem setG_core_escEng (c : Core) (e : Eng) (n : Nat) (v : W64) : (c.setG e n v).escEng = c.escEng := by
  unfold Core.setG; repeat (first | rfl | split)
@[simp] theorem setG_core_escPend (c : Core) (e : Eng) (n : Nat) (v : W64) : (c.setG e n v).escPend = c.escPend := by
  unfold Core.setG; repeat (first | rfl | split)
@[simp] theorem setG_core_ctile (c : Core) (e : Eng) (n : Nat) (v : W64) : (c.setG e n v).ctile = c.ctile := by
  unfold Core.setG; repeat (first | rfl | split)
@[simp] theorem setG_core_tjob (c : Core) (e : Eng) (n : Nat) (v : W64) : (c.setG e n v).tjob = c.tjob := by
  unfold Core.setG; repeat (first | rfl | split)
@[simp] theorem setG_core_tbusy (c : Core) (e : Eng) (n : Nat) (v : W64) : (c.setG e n v).tbusy = c.tbusy := by
  unfold Core.setG; repeat (first | rfl | split)
@[simp] theorem setG_core_tfull (c : Core) (e : Eng) (n : Nat) (v : W64) : (c.setG e n v).tfull = c.tfull := by
  unfold Core.setG; repeat (first | rfl | split)
@[simp] theorem setG_core_trefused (c : Core) (e : Eng) (n : Nat) (v : W64) : (c.setG e n v).trefused = c.trefused := by
  unfold Core.setG; repeat (first | rfl | split)
@[simp] theorem setG_core_barw (c : Core) (e : Eng) (n : Nat) (v : W64) : (c.setG e n v).barw = c.barw := by
  unfold Core.setG; repeat (first | rfl | split)
@[simp] theorem setG_core_halted (c : Core) (e : Eng) (n : Nat) (v : W64) : (c.setG e n v).halted = c.halted := by
  unfold Core.setG; repeat (first | rfl | split)
@[simp] theorem setG_core_cl0Hold (c : Core) (e : Eng) (n : Nat) (v : W64) : (c.setG e n v).cl0Hold = c.cl0Hold := by
  unfold Core.setG; repeat (first | rfl | split)
@[simp] theorem setG_core_stubPc (c : Core) (e : Eng) (n : Nat) (v : W64) : (c.setG e n v).stubPc = c.stubPc := by
  unfold Core.setG; repeat (first | rfl | split)
@[simp] theorem setG_core_stubEnded (c : Core) (e : Eng) (n : Nat) (v : W64) : (c.setG e n v).stubEnded = c.stubEnded := by
  unfold Core.setG; repeat (first | rfl | split)
@[simp] theorem setG_core_stubSafe (c : Core) (e : Eng) (n : Nat) (v : W64) : (c.setG e n v).stubSafe = c.stubSafe := by
  unfold Core.setG; repeat (first | rfl | split)
@[simp] theorem setG_core_turn (c : Core) (e : Eng) (n : Nat) (v : W64) : (c.setG e n v).turn = c.turn := by
  unfold Core.setG; repeat (first | rfl | split)

@[simp] theorem setStk_core_seqs (c : Core) (e : Eng) (l : List W64) : (c.setStk e l).seqs = c.seqs := by
  unfold Core.setStk; repeat (first | rfl | split)
@[simp] theorem setStk_core_sreg (c : Core) (e : Eng) (l : List W64) : (c.setStk e l).sreg = c.sreg := by
  unfold Core.setStk; repeat (first | rfl | split)
@[simp] theorem setStk_core_greg (c : Core) (e : Eng) (l : List W64) : (c.setStk e l).greg = c.greg := by
  unfold Core.setStk; repeat (first | rfl | split)
@[simp] theorem setStk_core_hsreg (c : Core) (e : Eng) (l : List W64) : (c.setStk e l).hsreg = c.hsreg := by
  unfold Core.setStk; repeat (first | rfl | split)
@[simp] theorem setStk_core_hgreg (c : Core) (e : Eng) (l : List W64) : (c.setStk e l).hgreg = c.hgreg := by
  unfold Core.setStk; repeat (first | rfl | split)
@[simp] theorem setStk_core_hseqs (c : Core) (e : Eng) (l : List W64) : (c.setStk e l).hseqs = c.hseqs := by
  unfold Core.setStk; repeat (first | rfl | split)
@[simp] theorem setStk_core_vreg (c : Core) (e : Eng) (l : List W64) : (c.setStk e l).vreg = c.vreg := by
  unfold Core.setStk; repeat (first | rfl | split)
@[simp] theorem setStk_core_mreg (c : Core) (e : Eng) (l : List W64) : (c.setStk e l).mreg = c.mreg := by
  unfold Core.setStk; repeat (first | rfl | split)
@[simp] theorem setStk_core_rrb (c : Core) (e : Eng) (l : List W64) : (c.setStk e l).rrb = c.rrb := by
  unfold Core.setStk; repeat (first | rfl | split)
@[simp] theorem setStk_core_tile (c : Core) (e : Eng) (l : List W64) : (c.setStk e l).tile = c.tile := by
  unfold Core.setStk; repeat (first | rfl | split)
@[simp] theorem setStk_core_tileOwner (c : Core) (e : Eng) (l : List W64) : (c.setStk e l).tileOwner = c.tileOwner := by
  unfold Core.setStk; repeat (first | rfl | split)
@[simp] theorem setStk_core_tileSt (c : Core) (e : Eng) (l : List W64) : (c.setStk e l).tileSt = c.tileSt := by
  unfold Core.setStk; repeat (first | rfl | split)
@[simp] theorem setStk_core_tileAbs (c : Core) (e : Eng) (l : List W64) : (c.setStk e l).tileAbs = c.tileAbs := by
  unfold Core.setStk; repeat (first | rfl | split)
@[simp] theorem setStk_core_fmtTab (c : Core) (e : Eng) (l : List W64) : (c.setStk e l).fmtTab = c.fmtTab := by
  unfold Core.setStk; repeat (first | rfl | split)
@[simp] theorem setStk_core_events (c : Core) (e : Eng) (l : List W64) : (c.setStk e l).events = c.events := by
  unfold Core.setStk; repeat (first | rfl | split)
@[simp] theorem setStk_core_rings (c : Core) (e : Eng) (l : List W64) : (c.setStk e l).rings = c.rings := by
  unfold Core.setStk; repeat (first | rfl | split)
@[simp] theorem setStk_core_cwRec (c : Core) (e : Eng) (l : List W64) : (c.setStk e l).cwRec = c.cwRec := by
  unfold Core.setStk; repeat (first | rfl | split)
@[simp] theorem setStk_core_cwBase (c : Core) (e : Eng) (l : List W64) : (c.setStk e l).cwBase = c.cwBase := by
  unfold Core.setStk; repeat (first | rfl | split)
@[simp] theorem setStk_core_slipw (c : Core) (e : Eng) (l : List W64) : (c.setStk e l).slipw = c.slipw := by
  unfold Core.setStk; repeat (first | rfl | split)
@[simp] theorem setStk_core_spdmax (c : Core) (e : Eng) (l : List W64) : (c.setStk e l).spdmax = c.spdmax := by
  unfold Core.setStk; repeat (first | rfl | split)
@[simp] theorem setStk_core_spdist (c : Core) (e : Eng) (l : List W64) : (c.setStk e l).spdist = c.spdist := by
  unfold Core.setStk; repeat (first | rfl | split)
@[simp] theorem setStk_core_detmode (c : Core) (e : Eng) (l : List W64) : (c.setStk e l).detmode = c.detmode := by
  unfold Core.setStk; repeat (first | rfl | split)
@[simp] theorem setStk_core_regions (c : Core) (e : Eng) (l : List W64) : (c.setStk e l).regions = c.regions := by
  unfold Core.setStk; repeat (first | rfl | split)
@[simp] theorem setStk_core_nfull (c : Core) (e : Eng) (l : List W64) : (c.setStk e l).nfull = c.nfull := by
  unfold Core.setStk; repeat (first | rfl | split)
@[simp] theorem setStk_core_nage (c : Core) (e : Eng) (l : List W64) : (c.setStk e l).nage = c.nage := by
  unfold Core.setStk; repeat (first | rfl | split)
@[simp] theorem setStk_core_ctx (c : Core) (e : Eng) (l : List W64) : (c.setStk e l).ctx = c.ctx := by
  unfold Core.setStk; repeat (first | rfl | split)
@[simp] theorem setStk_core_mode (c : Core) (e : Eng) (l : List W64) : (c.setStk e l).mode = c.mode := by
  unfold Core.setStk; repeat (first | rfl | split)
@[simp] theorem setStk_core_modeFrom (c : Core) (e : Eng) (l : List W64) : (c.setStk e l).modeFrom = c.modeFrom := by
  unfold Core.setStk; repeat (first | rfl | split)
@[simp] theorem setStk_core_fwHandler (c : Core) (e : Eng) (l : List W64) : (c.setStk e l).fwHandler = c.fwHandler := by
  unfold Core.setStk; repeat (first | rfl | split)
@[simp] theorem setStk_core_trapCause (c : Core) (e : Eng) (l : List W64) : (c.setStk e l).trapCause = c.trapCause := by
  unfold Core.setStk; repeat (first | rfl | split)
@[simp] theorem setStk_core_trapAddr (c : Core) (e : Eng) (l : List W64) : (c.setStk e l).trapAddr = c.trapAddr := by
  unfold Core.setStk; repeat (first | rfl | split)
@[simp] theorem setStk_core_trapEng (c : Core) (e : Eng) (l : List W64) : (c.setStk e l).trapEng = c.trapEng := by
  unfold Core.setStk; repeat (first | rfl | split)
@[simp] theorem setStk_core_trapBase (c : Core) (e : Eng) (l : List W64) : (c.setStk e l).trapBase = c.trapBase := by
  unfold Core.setStk; repeat (first | rfl | split)
@[simp] theorem setStk_core_trapVec (c : Core) (e : Eng) (l : List W64) : (c.setStk e l).trapVec = c.trapVec := by
  unfold Core.setStk; repeat (first | rfl | split)
@[simp] theorem setStk_core_trapPc (c : Core) (e : Eng) (l : List W64) : (c.setStk e l).trapPc = c.trapPc := by
  unfold Core.setStk; repeat (first | rfl | split)
@[simp] theorem setStk_core_wdog (c : Core) (e : Eng) (l : List W64) : (c.setStk e l).wdog = c.wdog := by
  unfold Core.setStk; repeat (first | rfl | split)
@[simp] theorem setStk_core_ntrap (c : Core) (e : Eng) (l : List W64) : (c.setStk e l).ntrap = c.ntrap := by
  unfold Core.setStk; repeat (first | rfl | split)
@[simp] theorem setStk_core_nesc (c : Core) (e : Eng) (l : List W64) : (c.setStk e l).nesc = c.nesc := by
  unfold Core.setStk; repeat (first | rfl | split)
@[simp] theorem setStk_core_rfstat (c : Core) (e : Eng) (l : List W64) : (c.setStk e l).rfstat = c.rfstat := by
  unfold Core.setStk; repeat (first | rfl | split)
@[simp] theorem setStk_core_npark (c : Core) (e : Eng) (l : List W64) : (c.setStk e l).npark = c.npark := by
  unfold Core.setStk; repeat (first | rfl | split)
@[simp] theorem setStk_core_nmiss (c : Core) (e : Eng) (l : List W64) : (c.setStk e l).nmiss = c.nmiss := by
  unfold Core.setStk; repeat (first | rfl | split)
@[simp] theorem setStk_core_nwalk (c : Core) (e : Eng) (l : List W64) : (c.setStk e l).nwalk = c.nwalk := by
  unfold Core.setStk; repeat (first | rfl | split)
@[simp] theorem setStk_core_nfault (c : Core) (e : Eng) (l : List W64) : (c.setStk e l).nfault = c.nfault := by
  unfold Core.setStk; repeat (first | rfl | split)
@[simp] theorem setStk_core_nser (c : Core) (e : Eng) (l : List W64) : (c.setStk e l).nser = c.nser := by
  unfold Core.setStk; repeat (first | rfl | split)
@[simp] theorem setStk_core_nwait (c : Core) (e : Eng) (l : List W64) : (c.setStk e l).nwait = c.nwait := by
  unfold Core.setStk; repeat (first | rfl | split)
@[simp] theorem setStk_core_nmma (c : Core) (e : Eng) (l : List W64) : (c.setStk e l).nmma = c.nmma := by
  unfold Core.setStk; repeat (first | rfl | split)
@[simp] theorem setStk_core_nmcast (c : Core) (e : Eng) (l : List W64) : (c.setStk e l).nmcast = c.nmcast := by
  unfold Core.setStk; repeat (first | rfl | split)
@[simp] theorem setStk_core_npois (c : Core) (e : Eng) (l : List W64) : (c.setStk e l).npois = c.npois := by
  unfold Core.setStk; repeat (first | rfl | split)
@[simp] theorem setStk_core_novf (c : Core) (e : Eng) (l : List W64) : (c.setStk e l).novf = c.novf := by
  unfold Core.setStk; repeat (first | rfl | split)
@[simp] theorem setStk_core_tlb (c : Core) (e : Eng) (l : List W64) : (c.setStk e l).tlb = c.tlb := by
  unfold Core.setStk; repeat (first | rfl | split)
@[simp] theorem setStk_core_replay (c : Core) (e : Eng) (l : List W64) : (c.setStk e l).replay = c.replay := by
  unfold Core.setStk; repeat (first | rfl | split)
@[simp] theorem setStk_core_copies (c : Core) (e : Eng) (l : List W64) : (c.setStk e l).copies = c.copies := by
  unfold Core.setStk; repeat (first | rfl | split)
@[simp] theorem setStk_core_bmvs (c : Core) (e : Eng) (l : List W64) : (c.setStk e l).bmvs = c.bmvs := by
  unfold Core.setStk; repeat (first | rfl | split)
@[simp] theorem setStk_core_inst (c : Core) (e : Eng) (l : List W64) : (c.setStk e l).inst = c.inst := by
  unfold Core.setStk; repeat (first | rfl | split)
@[simp] theorem setStk_core_active (c : Core) (e : Eng) (l : List W64) : (c.setStk e l).active = c.active := by
  unfold Core.setStk; repeat (first | rfl | split)
@[simp] theorem setStk_core_parked (c : Core) (e : Eng) (l : List W64) : (c.setStk e l).parked = c.parked := by
  unfold Core.setStk; repeat (first | rfl | split)
@[simp] theorem setStk_core_spilled (c : Core) (e : Eng) (l : List W64) : (c.setStk e l).spilled = c.spilled := by
  unfold Core.setStk; repeat (first | rfl | split)
@[simp] theorem setStk_core_trapPend (c : Core) (e : Eng) (l : List W64) : (c.setStk e l).trapPend = c.trapPend := by
  unfold Core.setStk; repeat (first | rfl | split)
@[simp] theorem setStk_core_stopReq (c : Core) (e : Eng) (l : List W64) : (c.setStk e l).stopReq = c.stopReq := by
  unfold Core.setStk; repeat (first | rfl | split)
@[simp] theorem setStk_core_cancel (c : Core) (e : Eng) (l : List W64) : (c.setStk e l).cancel = c.cancel := by
  unfold Core.setStk; repeat (first | rfl | split)
@[simp] theorem setStk_core_abandon (c : Core) (e : Eng) (l : List W64) : (c.setStk e l).abandon = c.abandon := by
  unfold Core.setStk; repeat (first | rfl | split)
@[simp] theorem setStk_core_handlerSince (c : Core) (e : Eng) (l : List W64) : (c.setStk e l).handlerSince = c.handlerSince := by
  unfold Core.setStk; repeat (first | rfl | split)
@[simp] theorem setStk_core_escCause (c : Core) (e : Eng) (l : List W64) : (c.setStk e l).escCause = c.escCause := by
  unfold Core.setStk; repeat (first | rfl | split)
@[simp] theorem setStk_core_escEng (c : Core) (e : Eng) (l : List W64) : (c.setStk e l).escEng = c.escEng := by
  unfold Core.setStk; repeat (first | rfl | split)
@[simp] theorem setStk_core_escPend (c : Core) (e : Eng) (l : List W64) : (c.setStk e l).escPend = c.escPend := by
  unfold Core.setStk; repeat (first | rfl | split)
@[simp] theorem setStk_core_ctile (c : Core) (e : Eng) (l : List W64) : (c.setStk e l).ctile = c.ctile := by
  unfold Core.setStk; repeat (first | rfl | split)
@[simp] theorem setStk_core_tjob (c : Core) (e : Eng) (l : List W64) : (c.setStk e l).tjob = c.tjob := by
  unfold Core.setStk; repeat (first | rfl | split)
@[simp] theorem setStk_core_tbusy (c : Core) (e : Eng) (l : List W64) : (c.setStk e l).tbusy = c.tbusy := by
  unfold Core.setStk; repeat (first | rfl | split)
@[simp] theorem setStk_core_tfull (c : Core) (e : Eng) (l : List W64) : (c.setStk e l).tfull = c.tfull := by
  unfold Core.setStk; repeat (first | rfl | split)
@[simp] theorem setStk_core_trefused (c : Core) (e : Eng) (l : List W64) : (c.setStk e l).trefused = c.trefused := by
  unfold Core.setStk; repeat (first | rfl | split)
@[simp] theorem setStk_core_barw (c : Core) (e : Eng) (l : List W64) : (c.setStk e l).barw = c.barw := by
  unfold Core.setStk; repeat (first | rfl | split)
@[simp] theorem setStk_core_halted (c : Core) (e : Eng) (l : List W64) : (c.setStk e l).halted = c.halted := by
  unfold Core.setStk; repeat (first | rfl | split)
@[simp] theorem setStk_core_cl0Hold (c : Core) (e : Eng) (l : List W64) : (c.setStk e l).cl0Hold = c.cl0Hold := by
  unfold Core.setStk; repeat (first | rfl | split)
@[simp] theorem setStk_core_stubPc (c : Core) (e : Eng) (l : List W64) : (c.setStk e l).stubPc = c.stubPc := by
  unfold Core.setStk; repeat (first | rfl | split)
@[simp] theorem setStk_core_stubEnded (c : Core) (e : Eng) (l : List W64) : (c.setStk e l).stubEnded = c.stubEnded := by
  unfold Core.setStk; repeat (first | rfl | split)
@[simp] theorem setStk_core_stubSafe (c : Core) (e : Eng) (l : List W64) : (c.setStk e l).stubSafe = c.stubSafe := by
  unfold Core.setStk; repeat (first | rfl | split)
@[simp] theorem setStk_core_turn (c : Core) (e : Eng) (l : List W64) : (c.setStk e l).turn = c.turn := by
  unfold Core.setStk; repeat (first | rfl | split)

@[simp] theorem setM_core_seqs (c : Core) (n : Nat) (v : BitVec 256) : (c.setM n v).seqs = c.seqs := by
  unfold Core.setM; repeat (first | rfl | split)
@[simp] theorem setM_core_sreg (c : Core) (n : Nat) (v : BitVec 256) : (c.setM n v).sreg = c.sreg := by
  unfold Core.setM; repeat (first | rfl | split)
@[simp] theorem setM_core_greg (c : Core) (n : Nat) (v : BitVec 256) : (c.setM n v).greg = c.greg := by
  unfold Core.setM; repeat (first | rfl | split)
@[simp] theorem setM_core_stack (c : Core) (n : Nat) (v : BitVec 256) : (c.setM n v).stack = c.stack := by
  unfold Core.setM; repeat (first | rfl | split)
@[simp] theorem setM_core_hsreg (c : Core) (n : Nat) (v : BitVec 256) : (c.setM n v).hsreg = c.hsreg := by
  unfold Core.setM; repeat (first | rfl | split)
@[simp] theorem setM_core_hgreg (c : Core) (n : Nat) (v : BitVec 256) : (c.setM n v).hgreg = c.hgreg := by
  unfold Core.setM; repeat (first | rfl | split)
@[simp] theorem setM_core_hstack (c : Core) (n : Nat) (v : BitVec 256) : (c.setM n v).hstack = c.hstack := by
  unfold Core.setM; repeat (first | rfl | split)
@[simp] theorem setM_core_hseqs (c : Core) (n : Nat) (v : BitVec 256) : (c.setM n v).hseqs = c.hseqs := by
  unfold Core.setM; repeat (first | rfl | split)
@[simp] theorem setM_core_vreg (c : Core) (n : Nat) (v : BitVec 256) : (c.setM n v).vreg = c.vreg := by
  unfold Core.setM; repeat (first | rfl | split)
@[simp] theorem setM_core_rrb (c : Core) (n : Nat) (v : BitVec 256) : (c.setM n v).rrb = c.rrb := by
  unfold Core.setM; repeat (first | rfl | split)
@[simp] theorem setM_core_tile (c : Core) (n : Nat) (v : BitVec 256) : (c.setM n v).tile = c.tile := by
  unfold Core.setM; repeat (first | rfl | split)
@[simp] theorem setM_core_tileOwner (c : Core) (n : Nat) (v : BitVec 256) : (c.setM n v).tileOwner = c.tileOwner := by
  unfold Core.setM; repeat (first | rfl | split)
@[simp] theorem setM_core_tileSt (c : Core) (n : Nat) (v : BitVec 256) : (c.setM n v).tileSt = c.tileSt := by
  unfold Core.setM; repeat (first | rfl | split)
@[simp] theorem setM_core_tileAbs (c : Core) (n : Nat) (v : BitVec 256) : (c.setM n v).tileAbs = c.tileAbs := by
  unfold Core.setM; repeat (first | rfl | split)
@[simp] theorem setM_core_fmtTab (c : Core) (n : Nat) (v : BitVec 256) : (c.setM n v).fmtTab = c.fmtTab := by
  unfold Core.setM; repeat (first | rfl | split)
@[simp] theorem setM_core_events (c : Core) (n : Nat) (v : BitVec 256) : (c.setM n v).events = c.events := by
  unfold Core.setM; repeat (first | rfl | split)
@[simp] theorem setM_core_rings (c : Core) (n : Nat) (v : BitVec 256) : (c.setM n v).rings = c.rings := by
  unfold Core.setM; repeat (first | rfl | split)
@[simp] theorem setM_core_cwRec (c : Core) (n : Nat) (v : BitVec 256) : (c.setM n v).cwRec = c.cwRec := by
  unfold Core.setM; repeat (first | rfl | split)
@[simp] theorem setM_core_cwBase (c : Core) (n : Nat) (v : BitVec 256) : (c.setM n v).cwBase = c.cwBase := by
  unfold Core.setM; repeat (first | rfl | split)
@[simp] theorem setM_core_slipw (c : Core) (n : Nat) (v : BitVec 256) : (c.setM n v).slipw = c.slipw := by
  unfold Core.setM; repeat (first | rfl | split)
@[simp] theorem setM_core_spdmax (c : Core) (n : Nat) (v : BitVec 256) : (c.setM n v).spdmax = c.spdmax := by
  unfold Core.setM; repeat (first | rfl | split)
@[simp] theorem setM_core_spdist (c : Core) (n : Nat) (v : BitVec 256) : (c.setM n v).spdist = c.spdist := by
  unfold Core.setM; repeat (first | rfl | split)
@[simp] theorem setM_core_detmode (c : Core) (n : Nat) (v : BitVec 256) : (c.setM n v).detmode = c.detmode := by
  unfold Core.setM; repeat (first | rfl | split)
@[simp] theorem setM_core_regions (c : Core) (n : Nat) (v : BitVec 256) : (c.setM n v).regions = c.regions := by
  unfold Core.setM; repeat (first | rfl | split)
@[simp] theorem setM_core_nfull (c : Core) (n : Nat) (v : BitVec 256) : (c.setM n v).nfull = c.nfull := by
  unfold Core.setM; repeat (first | rfl | split)
@[simp] theorem setM_core_nage (c : Core) (n : Nat) (v : BitVec 256) : (c.setM n v).nage = c.nage := by
  unfold Core.setM; repeat (first | rfl | split)
@[simp] theorem setM_core_ctx (c : Core) (n : Nat) (v : BitVec 256) : (c.setM n v).ctx = c.ctx := by
  unfold Core.setM; repeat (first | rfl | split)
@[simp] theorem setM_core_mode (c : Core) (n : Nat) (v : BitVec 256) : (c.setM n v).mode = c.mode := by
  unfold Core.setM; repeat (first | rfl | split)
@[simp] theorem setM_core_modeFrom (c : Core) (n : Nat) (v : BitVec 256) : (c.setM n v).modeFrom = c.modeFrom := by
  unfold Core.setM; repeat (first | rfl | split)
@[simp] theorem setM_core_fwHandler (c : Core) (n : Nat) (v : BitVec 256) : (c.setM n v).fwHandler = c.fwHandler := by
  unfold Core.setM; repeat (first | rfl | split)
@[simp] theorem setM_core_trapCause (c : Core) (n : Nat) (v : BitVec 256) : (c.setM n v).trapCause = c.trapCause := by
  unfold Core.setM; repeat (first | rfl | split)
@[simp] theorem setM_core_trapAddr (c : Core) (n : Nat) (v : BitVec 256) : (c.setM n v).trapAddr = c.trapAddr := by
  unfold Core.setM; repeat (first | rfl | split)
@[simp] theorem setM_core_trapEng (c : Core) (n : Nat) (v : BitVec 256) : (c.setM n v).trapEng = c.trapEng := by
  unfold Core.setM; repeat (first | rfl | split)
@[simp] theorem setM_core_trapBase (c : Core) (n : Nat) (v : BitVec 256) : (c.setM n v).trapBase = c.trapBase := by
  unfold Core.setM; repeat (first | rfl | split)
@[simp] theorem setM_core_trapVec (c : Core) (n : Nat) (v : BitVec 256) : (c.setM n v).trapVec = c.trapVec := by
  unfold Core.setM; repeat (first | rfl | split)
@[simp] theorem setM_core_trapPc (c : Core) (n : Nat) (v : BitVec 256) : (c.setM n v).trapPc = c.trapPc := by
  unfold Core.setM; repeat (first | rfl | split)
@[simp] theorem setM_core_wdog (c : Core) (n : Nat) (v : BitVec 256) : (c.setM n v).wdog = c.wdog := by
  unfold Core.setM; repeat (first | rfl | split)
@[simp] theorem setM_core_ntrap (c : Core) (n : Nat) (v : BitVec 256) : (c.setM n v).ntrap = c.ntrap := by
  unfold Core.setM; repeat (first | rfl | split)
@[simp] theorem setM_core_nesc (c : Core) (n : Nat) (v : BitVec 256) : (c.setM n v).nesc = c.nesc := by
  unfold Core.setM; repeat (first | rfl | split)
@[simp] theorem setM_core_rfstat (c : Core) (n : Nat) (v : BitVec 256) : (c.setM n v).rfstat = c.rfstat := by
  unfold Core.setM; repeat (first | rfl | split)
@[simp] theorem setM_core_npark (c : Core) (n : Nat) (v : BitVec 256) : (c.setM n v).npark = c.npark := by
  unfold Core.setM; repeat (first | rfl | split)
@[simp] theorem setM_core_nmiss (c : Core) (n : Nat) (v : BitVec 256) : (c.setM n v).nmiss = c.nmiss := by
  unfold Core.setM; repeat (first | rfl | split)
@[simp] theorem setM_core_nwalk (c : Core) (n : Nat) (v : BitVec 256) : (c.setM n v).nwalk = c.nwalk := by
  unfold Core.setM; repeat (first | rfl | split)
@[simp] theorem setM_core_nfault (c : Core) (n : Nat) (v : BitVec 256) : (c.setM n v).nfault = c.nfault := by
  unfold Core.setM; repeat (first | rfl | split)
@[simp] theorem setM_core_nser (c : Core) (n : Nat) (v : BitVec 256) : (c.setM n v).nser = c.nser := by
  unfold Core.setM; repeat (first | rfl | split)
@[simp] theorem setM_core_nwait (c : Core) (n : Nat) (v : BitVec 256) : (c.setM n v).nwait = c.nwait := by
  unfold Core.setM; repeat (first | rfl | split)
@[simp] theorem setM_core_nmma (c : Core) (n : Nat) (v : BitVec 256) : (c.setM n v).nmma = c.nmma := by
  unfold Core.setM; repeat (first | rfl | split)
@[simp] theorem setM_core_nmcast (c : Core) (n : Nat) (v : BitVec 256) : (c.setM n v).nmcast = c.nmcast := by
  unfold Core.setM; repeat (first | rfl | split)
@[simp] theorem setM_core_npois (c : Core) (n : Nat) (v : BitVec 256) : (c.setM n v).npois = c.npois := by
  unfold Core.setM; repeat (first | rfl | split)
@[simp] theorem setM_core_novf (c : Core) (n : Nat) (v : BitVec 256) : (c.setM n v).novf = c.novf := by
  unfold Core.setM; repeat (first | rfl | split)
@[simp] theorem setM_core_tlb (c : Core) (n : Nat) (v : BitVec 256) : (c.setM n v).tlb = c.tlb := by
  unfold Core.setM; repeat (first | rfl | split)
@[simp] theorem setM_core_replay (c : Core) (n : Nat) (v : BitVec 256) : (c.setM n v).replay = c.replay := by
  unfold Core.setM; repeat (first | rfl | split)
@[simp] theorem setM_core_copies (c : Core) (n : Nat) (v : BitVec 256) : (c.setM n v).copies = c.copies := by
  unfold Core.setM; repeat (first | rfl | split)
@[simp] theorem setM_core_bmvs (c : Core) (n : Nat) (v : BitVec 256) : (c.setM n v).bmvs = c.bmvs := by
  unfold Core.setM; repeat (first | rfl | split)
@[simp] theorem setM_core_inst (c : Core) (n : Nat) (v : BitVec 256) : (c.setM n v).inst = c.inst := by
  unfold Core.setM; repeat (first | rfl | split)
@[simp] theorem setM_core_active (c : Core) (n : Nat) (v : BitVec 256) : (c.setM n v).active = c.active := by
  unfold Core.setM; repeat (first | rfl | split)
@[simp] theorem setM_core_parked (c : Core) (n : Nat) (v : BitVec 256) : (c.setM n v).parked = c.parked := by
  unfold Core.setM; repeat (first | rfl | split)
@[simp] theorem setM_core_spilled (c : Core) (n : Nat) (v : BitVec 256) : (c.setM n v).spilled = c.spilled := by
  unfold Core.setM; repeat (first | rfl | split)
@[simp] theorem setM_core_trapPend (c : Core) (n : Nat) (v : BitVec 256) : (c.setM n v).trapPend = c.trapPend := by
  unfold Core.setM; repeat (first | rfl | split)
@[simp] theorem setM_core_stopReq (c : Core) (n : Nat) (v : BitVec 256) : (c.setM n v).stopReq = c.stopReq := by
  unfold Core.setM; repeat (first | rfl | split)
@[simp] theorem setM_core_cancel (c : Core) (n : Nat) (v : BitVec 256) : (c.setM n v).cancel = c.cancel := by
  unfold Core.setM; repeat (first | rfl | split)
@[simp] theorem setM_core_abandon (c : Core) (n : Nat) (v : BitVec 256) : (c.setM n v).abandon = c.abandon := by
  unfold Core.setM; repeat (first | rfl | split)
@[simp] theorem setM_core_handlerSince (c : Core) (n : Nat) (v : BitVec 256) : (c.setM n v).handlerSince = c.handlerSince := by
  unfold Core.setM; repeat (first | rfl | split)
@[simp] theorem setM_core_escCause (c : Core) (n : Nat) (v : BitVec 256) : (c.setM n v).escCause = c.escCause := by
  unfold Core.setM; repeat (first | rfl | split)
@[simp] theorem setM_core_escEng (c : Core) (n : Nat) (v : BitVec 256) : (c.setM n v).escEng = c.escEng := by
  unfold Core.setM; repeat (first | rfl | split)
@[simp] theorem setM_core_escPend (c : Core) (n : Nat) (v : BitVec 256) : (c.setM n v).escPend = c.escPend := by
  unfold Core.setM; repeat (first | rfl | split)
@[simp] theorem setM_core_ctile (c : Core) (n : Nat) (v : BitVec 256) : (c.setM n v).ctile = c.ctile := by
  unfold Core.setM; repeat (first | rfl | split)
@[simp] theorem setM_core_tjob (c : Core) (n : Nat) (v : BitVec 256) : (c.setM n v).tjob = c.tjob := by
  unfold Core.setM; repeat (first | rfl | split)
@[simp] theorem setM_core_tbusy (c : Core) (n : Nat) (v : BitVec 256) : (c.setM n v).tbusy = c.tbusy := by
  unfold Core.setM; repeat (first | rfl | split)
@[simp] theorem setM_core_tfull (c : Core) (n : Nat) (v : BitVec 256) : (c.setM n v).tfull = c.tfull := by
  unfold Core.setM; repeat (first | rfl | split)
@[simp] theorem setM_core_trefused (c : Core) (n : Nat) (v : BitVec 256) : (c.setM n v).trefused = c.trefused := by
  unfold Core.setM; repeat (first | rfl | split)
@[simp] theorem setM_core_barw (c : Core) (n : Nat) (v : BitVec 256) : (c.setM n v).barw = c.barw := by
  unfold Core.setM; repeat (first | rfl | split)
@[simp] theorem setM_core_halted (c : Core) (n : Nat) (v : BitVec 256) : (c.setM n v).halted = c.halted := by
  unfold Core.setM; repeat (first | rfl | split)
@[simp] theorem setM_core_cl0Hold (c : Core) (n : Nat) (v : BitVec 256) : (c.setM n v).cl0Hold = c.cl0Hold := by
  unfold Core.setM; repeat (first | rfl | split)
@[simp] theorem setM_core_stubPc (c : Core) (n : Nat) (v : BitVec 256) : (c.setM n v).stubPc = c.stubPc := by
  unfold Core.setM; repeat (first | rfl | split)
@[simp] theorem setM_core_stubEnded (c : Core) (n : Nat) (v : BitVec 256) : (c.setM n v).stubEnded = c.stubEnded := by
  unfold Core.setM; repeat (first | rfl | split)
@[simp] theorem setM_core_stubSafe (c : Core) (n : Nat) (v : BitVec 256) : (c.setM n v).stubSafe = c.stubSafe := by
  unfold Core.setM; repeat (first | rfl | split)
@[simp] theorem setM_core_turn (c : Core) (n : Nat) (v : BitVec 256) : (c.setM n v).turn = c.turn := by
  unfold Core.setM; repeat (first | rfl | split)

@[simp] theorem setV_core_seqs (c : Core) (n : Nat) (v : VReg) : (c.setV n v).seqs = c.seqs := rfl
@[simp] theorem setV_core_sreg (c : Core) (n : Nat) (v : VReg) : (c.setV n v).sreg = c.sreg := rfl
@[simp] theorem setV_core_greg (c : Core) (n : Nat) (v : VReg) : (c.setV n v).greg = c.greg := rfl
@[simp] theorem setV_core_stack (c : Core) (n : Nat) (v : VReg) : (c.setV n v).stack = c.stack := rfl
@[simp] theorem setV_core_hsreg (c : Core) (n : Nat) (v : VReg) : (c.setV n v).hsreg = c.hsreg := rfl
@[simp] theorem setV_core_hgreg (c : Core) (n : Nat) (v : VReg) : (c.setV n v).hgreg = c.hgreg := rfl
@[simp] theorem setV_core_hstack (c : Core) (n : Nat) (v : VReg) : (c.setV n v).hstack = c.hstack := rfl
@[simp] theorem setV_core_hseqs (c : Core) (n : Nat) (v : VReg) : (c.setV n v).hseqs = c.hseqs := rfl
@[simp] theorem setV_core_mreg (c : Core) (n : Nat) (v : VReg) : (c.setV n v).mreg = c.mreg := rfl
@[simp] theorem setV_core_rrb (c : Core) (n : Nat) (v : VReg) : (c.setV n v).rrb = c.rrb := rfl
@[simp] theorem setV_core_tile (c : Core) (n : Nat) (v : VReg) : (c.setV n v).tile = c.tile := rfl
@[simp] theorem setV_core_tileOwner (c : Core) (n : Nat) (v : VReg) : (c.setV n v).tileOwner = c.tileOwner := rfl
@[simp] theorem setV_core_tileSt (c : Core) (n : Nat) (v : VReg) : (c.setV n v).tileSt = c.tileSt := rfl
@[simp] theorem setV_core_tileAbs (c : Core) (n : Nat) (v : VReg) : (c.setV n v).tileAbs = c.tileAbs := rfl
@[simp] theorem setV_core_fmtTab (c : Core) (n : Nat) (v : VReg) : (c.setV n v).fmtTab = c.fmtTab := rfl
@[simp] theorem setV_core_events (c : Core) (n : Nat) (v : VReg) : (c.setV n v).events = c.events := rfl
@[simp] theorem setV_core_rings (c : Core) (n : Nat) (v : VReg) : (c.setV n v).rings = c.rings := rfl
@[simp] theorem setV_core_cwRec (c : Core) (n : Nat) (v : VReg) : (c.setV n v).cwRec = c.cwRec := rfl
@[simp] theorem setV_core_cwBase (c : Core) (n : Nat) (v : VReg) : (c.setV n v).cwBase = c.cwBase := rfl
@[simp] theorem setV_core_slipw (c : Core) (n : Nat) (v : VReg) : (c.setV n v).slipw = c.slipw := rfl
@[simp] theorem setV_core_spdmax (c : Core) (n : Nat) (v : VReg) : (c.setV n v).spdmax = c.spdmax := rfl
@[simp] theorem setV_core_spdist (c : Core) (n : Nat) (v : VReg) : (c.setV n v).spdist = c.spdist := rfl
@[simp] theorem setV_core_detmode (c : Core) (n : Nat) (v : VReg) : (c.setV n v).detmode = c.detmode := rfl
@[simp] theorem setV_core_regions (c : Core) (n : Nat) (v : VReg) : (c.setV n v).regions = c.regions := rfl
@[simp] theorem setV_core_nfull (c : Core) (n : Nat) (v : VReg) : (c.setV n v).nfull = c.nfull := rfl
@[simp] theorem setV_core_nage (c : Core) (n : Nat) (v : VReg) : (c.setV n v).nage = c.nage := rfl
@[simp] theorem setV_core_ctx (c : Core) (n : Nat) (v : VReg) : (c.setV n v).ctx = c.ctx := rfl
@[simp] theorem setV_core_mode (c : Core) (n : Nat) (v : VReg) : (c.setV n v).mode = c.mode := rfl
@[simp] theorem setV_core_modeFrom (c : Core) (n : Nat) (v : VReg) : (c.setV n v).modeFrom = c.modeFrom := rfl
@[simp] theorem setV_core_fwHandler (c : Core) (n : Nat) (v : VReg) : (c.setV n v).fwHandler = c.fwHandler := rfl
@[simp] theorem setV_core_trapCause (c : Core) (n : Nat) (v : VReg) : (c.setV n v).trapCause = c.trapCause := rfl
@[simp] theorem setV_core_trapAddr (c : Core) (n : Nat) (v : VReg) : (c.setV n v).trapAddr = c.trapAddr := rfl
@[simp] theorem setV_core_trapEng (c : Core) (n : Nat) (v : VReg) : (c.setV n v).trapEng = c.trapEng := rfl
@[simp] theorem setV_core_trapBase (c : Core) (n : Nat) (v : VReg) : (c.setV n v).trapBase = c.trapBase := rfl
@[simp] theorem setV_core_trapVec (c : Core) (n : Nat) (v : VReg) : (c.setV n v).trapVec = c.trapVec := rfl
@[simp] theorem setV_core_trapPc (c : Core) (n : Nat) (v : VReg) : (c.setV n v).trapPc = c.trapPc := rfl
@[simp] theorem setV_core_wdog (c : Core) (n : Nat) (v : VReg) : (c.setV n v).wdog = c.wdog := rfl
@[simp] theorem setV_core_ntrap (c : Core) (n : Nat) (v : VReg) : (c.setV n v).ntrap = c.ntrap := rfl
@[simp] theorem setV_core_nesc (c : Core) (n : Nat) (v : VReg) : (c.setV n v).nesc = c.nesc := rfl
@[simp] theorem setV_core_rfstat (c : Core) (n : Nat) (v : VReg) : (c.setV n v).rfstat = c.rfstat := rfl
@[simp] theorem setV_core_npark (c : Core) (n : Nat) (v : VReg) : (c.setV n v).npark = c.npark := rfl
@[simp] theorem setV_core_nmiss (c : Core) (n : Nat) (v : VReg) : (c.setV n v).nmiss = c.nmiss := rfl
@[simp] theorem setV_core_nwalk (c : Core) (n : Nat) (v : VReg) : (c.setV n v).nwalk = c.nwalk := rfl
@[simp] theorem setV_core_nfault (c : Core) (n : Nat) (v : VReg) : (c.setV n v).nfault = c.nfault := rfl
@[simp] theorem setV_core_nser (c : Core) (n : Nat) (v : VReg) : (c.setV n v).nser = c.nser := rfl
@[simp] theorem setV_core_nwait (c : Core) (n : Nat) (v : VReg) : (c.setV n v).nwait = c.nwait := rfl
@[simp] theorem setV_core_nmma (c : Core) (n : Nat) (v : VReg) : (c.setV n v).nmma = c.nmma := rfl
@[simp] theorem setV_core_nmcast (c : Core) (n : Nat) (v : VReg) : (c.setV n v).nmcast = c.nmcast := rfl
@[simp] theorem setV_core_npois (c : Core) (n : Nat) (v : VReg) : (c.setV n v).npois = c.npois := rfl
@[simp] theorem setV_core_novf (c : Core) (n : Nat) (v : VReg) : (c.setV n v).novf = c.novf := rfl
@[simp] theorem setV_core_tlb (c : Core) (n : Nat) (v : VReg) : (c.setV n v).tlb = c.tlb := rfl
@[simp] theorem setV_core_replay (c : Core) (n : Nat) (v : VReg) : (c.setV n v).replay = c.replay := rfl
@[simp] theorem setV_core_copies (c : Core) (n : Nat) (v : VReg) : (c.setV n v).copies = c.copies := rfl
@[simp] theorem setV_core_bmvs (c : Core) (n : Nat) (v : VReg) : (c.setV n v).bmvs = c.bmvs := rfl
@[simp] theorem setV_core_inst (c : Core) (n : Nat) (v : VReg) : (c.setV n v).inst = c.inst := rfl
@[simp] theorem setV_core_active (c : Core) (n : Nat) (v : VReg) : (c.setV n v).active = c.active := rfl
@[simp] theorem setV_core_parked (c : Core) (n : Nat) (v : VReg) : (c.setV n v).parked = c.parked := rfl
@[simp] theorem setV_core_spilled (c : Core) (n : Nat) (v : VReg) : (c.setV n v).spilled = c.spilled := rfl
@[simp] theorem setV_core_trapPend (c : Core) (n : Nat) (v : VReg) : (c.setV n v).trapPend = c.trapPend := rfl
@[simp] theorem setV_core_stopReq (c : Core) (n : Nat) (v : VReg) : (c.setV n v).stopReq = c.stopReq := rfl
@[simp] theorem setV_core_cancel (c : Core) (n : Nat) (v : VReg) : (c.setV n v).cancel = c.cancel := rfl
@[simp] theorem setV_core_abandon (c : Core) (n : Nat) (v : VReg) : (c.setV n v).abandon = c.abandon := rfl
@[simp] theorem setV_core_handlerSince (c : Core) (n : Nat) (v : VReg) : (c.setV n v).handlerSince = c.handlerSince := rfl
@[simp] theorem setV_core_escCause (c : Core) (n : Nat) (v : VReg) : (c.setV n v).escCause = c.escCause := rfl
@[simp] theorem setV_core_escEng (c : Core) (n : Nat) (v : VReg) : (c.setV n v).escEng = c.escEng := rfl
@[simp] theorem setV_core_escPend (c : Core) (n : Nat) (v : VReg) : (c.setV n v).escPend = c.escPend := rfl
@[simp] theorem setV_core_ctile (c : Core) (n : Nat) (v : VReg) : (c.setV n v).ctile = c.ctile := rfl
@[simp] theorem setV_core_tjob (c : Core) (n : Nat) (v : VReg) : (c.setV n v).tjob = c.tjob := rfl
@[simp] theorem setV_core_tbusy (c : Core) (n : Nat) (v : VReg) : (c.setV n v).tbusy = c.tbusy := rfl
@[simp] theorem setV_core_tfull (c : Core) (n : Nat) (v : VReg) : (c.setV n v).tfull = c.tfull := rfl
@[simp] theorem setV_core_trefused (c : Core) (n : Nat) (v : VReg) : (c.setV n v).trefused = c.trefused := rfl
@[simp] theorem setV_core_barw (c : Core) (n : Nat) (v : VReg) : (c.setV n v).barw = c.barw := rfl
@[simp] theorem setV_core_halted (c : Core) (n : Nat) (v : VReg) : (c.setV n v).halted = c.halted := rfl
@[simp] theorem setV_core_cl0Hold (c : Core) (n : Nat) (v : VReg) : (c.setV n v).cl0Hold = c.cl0Hold := rfl
@[simp] theorem setV_core_stubPc (c : Core) (n : Nat) (v : VReg) : (c.setV n v).stubPc = c.stubPc := rfl
@[simp] theorem setV_core_stubEnded (c : Core) (n : Nat) (v : VReg) : (c.setV n v).stubEnded = c.stubEnded := rfl
@[simp] theorem setV_core_stubSafe (c : Core) (n : Nat) (v : VReg) : (c.setV n v).stubSafe = c.stubSafe := rfl
@[simp] theorem setV_core_turn (c : Core) (n : Nat) (v : VReg) : (c.setV n v).turn = c.turn := rfl

@[simp] theorem s_zero (c : Core) : c.s 0 = 0 := rfl
@[simp] theorem setS_zero (c : Core) (v : W64) : c.setS 0 v = c := rfl
theorem s_setS (c : Core) (m n : Nat) (v : W64) : (c.setS n v).s m = if m = n ∧ n ≠ 0 then v else c.s m := by
  by_cases hn : n = 0
  · simp [hn]
  · by_cases hm : m = 0
    · subst hm; simp [Ne.symm hn]
    · by_cases h : c.mode = .handler
      · simp [Core.s, Core.setS, hn, hm, h, Sparse.get_set]
      · simp [Core.s, Core.setS, hn, hm, h, Sparse.get_set]
@[simp] theorem s_setSeq (c : Core) (e : Eng) (q : SeqState) (m : Nat) : (c.setSeq e q).s m = c.s m := by
  simp [Core.s]
@[simp] theorem g_setSeq (c : Core) (d e : Eng) (q : SeqState) (m : Nat) : (c.setSeq e q).g d m = c.g d m := by
  simp [Core.g]
@[simp] theorem stk_setSeq (c : Core) (d e : Eng) (q : SeqState) : (c.setSeq e q).stk d = c.stk d := by
  simp [Core.stk]
@[simp] theorem v_setSeq (c : Core) (e : Eng) (q : SeqState) (m : Nat) : (c.setSeq e q).v m = c.v m := by
  simp [Core.v]
@[simp] theorem m_setSeq (c : Core) (e : Eng) (q : SeqState) (m : Nat) : (c.setSeq e q).m m = c.m m := by
  simp [Core.m]

theorem Eng.tag_inj {d e : Eng} (h : d.tag = e.tag) : d = e := by cases d <;> cases e <;> simp_all [Eng.tag]

theorem seq_setSeq (c : Core) (d e : Eng) (q : SeqState) : (c.setSeq e q).seq d = if d = e then q else c.seq d := by
  have hd : d.tag = e.tag ↔ d = e := ⟨Eng.tag_inj, fun h => h ▸ rfl⟩
  by_cases h : c.mode = .handler <;> simp [Core.seq, Core.setSeq, h, Sparse.get_set, hd]
@[simp] theorem seq_setS (c : Core) (e : Eng) (n : Nat) (v : W64) : (c.setS n v).seq e = c.seq e := by simp [Core.seq]
@[simp] theorem seq_setG (c : Core) (d e : Eng) (n : Nat) (v : W64) : (c.setG d n v).seq e = c.seq e := by simp [Core.seq]
@[simp] theorem seq_setStk (c : Core) (d e : Eng) (l : List W64) : (c.setStk d l).seq e = c.seq e := by simp [Core.seq]
@[simp] theorem seq_setV (c : Core) (e : Eng) (n : Nat) (v : VReg) : (c.setV n v).seq e = c.seq e := rfl
@[simp] theorem seq_setM (c : Core) (e : Eng) (n : Nat) (v : BitVec 256) : (c.setM n v).seq e = c.seq e := by simp [Core.seq]

theorem g_setG (c : Core) (d : Eng) (m n : Nat) (v : W64) : (c.setG d n v).g d m = if m = n then v else c.g d m := by
  by_cases h : c.mode = .handler <;> simp [Core.g, Core.setG, h, Sparse.get_set]
@[simp] theorem stk_setStk (c : Core) (e : Eng) (l : List W64) : (c.setStk e l).stk e = l := by
  by_cases h : c.mode = .handler <;> simp [Core.stk, Core.setStk, h]
@[simp] theorem g_setStk (c : Core) (d e : Eng) (l : List W64) (m : Nat) : (c.setStk e l).g d m = c.g d m := by
  by_cases h : c.mode = .handler <;> simp [Core.g, Core.setStk, h]
theorem v_setV_same (c : Core) (n : Nat) (v : VReg) : (c.setV n v).v n = v := by simp [Core.v, Core.setV]
theorem m_setM (c : Core) (j n : Nat) (v : BitVec 256) : (c.setM n v).m j = if j = n ∧ n ≠ 0 then v else c.m j := by
  by_cases hn : n = 0
  · simp [Core.m, Core.setM, hn]
  · by_cases hj : j = 0
    · subst hj; simp [Core.m, Ne.symm hn]
    · simp [Core.m, Core.setM, hn, hj, Sparse.get_set]

/-! ## The executing sequencer -/

@[simp] theorem q_setQ (s : State) (q : SeqState) : (s.setQ q).q = q := by
  simp [State.q, State.setQ, seq_setSeq]
@[simp] theorem sval_setQ (s : State) (q : SeqState) (n : BitVec 5) : (s.setQ q).sval n = s.sval n := by
  simp [State.sval, State.setQ]
@[simp] theorem gval_setQ (s : State) (q : SeqState) (n : BitVec 4) : (s.setQ q).gval n = s.gval n := by
  simp [State.gval, State.setQ]
@[simp] theorem stk_setQ (s : State) (q : SeqState) : (s.setQ q).stk = s.stk := by
  simp [State.stk, State.setQ]
@[simp] theorem q_putS (s : State) (n : BitVec 5) (v : W64) : (s.putS n v).q = s.q := by
  simp [State.q, State.putS]
@[simp] theorem q_putG (s : State) (n : BitVec 4) (v : W64) : (s.putG n v).q = s.q := by
  simp [State.q, State.putG]
@[simp] theorem q_putStk (s : State) (l : List W64) : (s.putStk l).q = s.q := by
  simp [State.q, State.putStk]
theorem sval_putS (s : State) (m n : BitVec 5) (v : W64) :
    (s.putS n v).sval m = if m = n ∧ n ≠ 0 then v else s.sval m := by
  have h1 : m.toNat = n.toNat ↔ m = n := BitVec.toNat_inj
  have h2 : n.toNat = 0 ↔ n = 0#5 := by rw [← BitVec.toNat_inj]; rfl
  simp [State.sval, State.putS, s_setS, h1, h2]
theorem gval_putG (s : State) (m n : BitVec 4) (v : W64) : (s.putG n v).gval m = if m = n then v else s.gval m := by
  have h1 : m.toNat = n.toNat ↔ m = n := BitVec.toNat_inj
  simp [State.gval, State.putG, g_setG, h1]
@[simp] theorem stk_putStk (s : State) (l : List W64) : (s.putStk l).stk = l := by
  simp [State.stk, State.putStk]
@[simp] theorem gval_putStk (s : State) (l : List W64) (n : BitVec 4) : (s.putStk l).gval n = s.gval n := by
  simp [State.gval, State.putStk]

/-! ## Completing a word -/

@[simp] theorem q_advanceTo (s : State) (pc : Nat) : (advanceTo pc s).q = s.q.step s.curEng pc := by simp [advanceTo]
@[simp] theorem q_retire (s : State) : (retire s).q = s.q.step s.curEng (s.q.pc + 1) := by simp [retire]
@[simp] theorem sval_retire (s : State) (n : BitVec 5) : (retire s).sval n = s.sval n := by simp [retire, advanceTo]
@[simp] theorem gval_retire (s : State) (n : BitVec 4) : (retire s).gval n = s.gval n := by simp [retire, advanceTo]
@[simp] theorem stk_retire (s : State) : (retire s).stk = s.stk := by simp [retire, advanceTo]
@[simp] theorem retire_mem (s : State) : (retire s).mem = s.mem := rfl
@[simp] theorem retire_lineKey (s : State) : (retire s).lineKey = s.lineKey := rfl
@[simp] theorem retire_poison (s : State) : (retire s).poison = s.poison := rfl
@[simp] theorem retire_imem (s : State) : (retire s).imem = s.imem := rfl
@[simp] theorem retire_hmem (s : State) : (retire s).hmem = s.hmem := rfl
@[simp] theorem retire_unitLast (s : State) : (retire s).unitLast = s.unitLast := rfl
@[simp] theorem retire_accs (s : State) : (retire s).accs = s.accs := rfl
@[simp] theorem retire_tasks (s : State) : (retire s).tasks = s.tasks := rfl
@[simp] theorem retire_slices (s : State) : (retire s).slices = s.slices := rfl
@[simp] theorem retire_sliceCnt (s : State) : (retire s).sliceCnt = s.sliceCnt := rfl
@[simp] theorem retire_fabric (s : State) : (retire s).fabric = s.fabric := rfl
@[simp] theorem retire_plinth (s : State) : (retire s).plinth = s.plinth := rfl
@[simp] theorem retire_shared (s : State) : (retire s).shared = s.shared := rfl
@[simp] theorem retire_dropped (s : State) : (retire s).dropped = s.dropped := rfl
@[simp] theorem retire_tlbis (s : State) : (retire s).tlbis = s.tlbis := rfl
@[simp] theorem retire_cycle (s : State) : (retire s).cycle = s.cycle := rfl
@[simp] theorem retire_ftime (s : State) : (retire s).ftime = s.ftime := rfl
@[simp] theorem retire_sched (s : State) : (retire s).sched = s.sched := rfl
@[simp] theorem retire_phase (s : State) : (retire s).phase = s.phase := rfl
@[simp] theorem retire_curCore (s : State) : (retire s).curCore = s.curCore := rfl
@[simp] theorem retire_curEng (s : State) : (retire s).curEng = s.curEng := rfl
@[simp] theorem retire_word (s : State) : (retire s).word = s.word := rfl
@[simp] theorem retire_defer (s : State) : (retire s).defer = s.defer := rfl
@[simp] theorem retire_nonce (s : State) : (retire s).nonce = s.nonce := rfl
@[simp] theorem retire_nextId (s : State) : (retire s).nextId = s.nextId := rfl
@[simp] theorem retire_order (s : State) : (retire s).order = s.order := rfl

end Sys2Proof.Machine
end

