-- ==== Sys2Proof/Laws/Ops.lean ====
section
/-!
SUPPORT. What the shared operations do, each said once: completing a word after an update of its core, results in each kind
of register, branches, and waits.
-/

namespace Sys2Proof.Machine

/-! ## Completing a word -/

theorem clear_seqs_setSeq (c : Core) (e : Eng) (q : SeqState) : Zone.clear .seqs (c.setSeq e q) = Zone.clear .seqs c := by
  unfold Core.setSeq Zone.clear
  by_cases h : c.mode = .handler <;> simp [h]

theorem without_setSeq (zs : List Zone) (c : Core) (e : Eng) (q : SeqState) :
    (c.setSeq e q).without (.seqs :: zs) = c.without (.seqs :: zs) := by
  simp only [Core.without, List.foldl_cons, clear_seqs_setSeq]

/-- An update of a core that no sequencer of it notices. -/
def Core.sameSeqs (c d : Core) : Prop := ∀ e, d.seq e = c.seq e

theorem me_advanceTo (p : Nat) (s : State) : (advanceTo p s).me = s.me.setSeq s.curEng (s.q.step s.curEng p) :=
  me_setMe s _

theorem core_advanceTo_ne (p : Nat) (s : State) {n : Nat} (h : n ≠ s.curCore) : (advanceTo p s).core n = s.core n :=
  core_setMe_ne s h _

theorem q_setMe {s : State} {c : Core} (h : s.me.sameSeqs c) : (s.setMe c).q = s.q := by
  show (s.setMe c).me.seq s.curEng = s.me.seq s.curEng
  rw [me_setMe]; exact h _

theorem retire_setMe {s : State} {c : Core} (h : s.me.sameSeqs c) :
    retire (s.setMe c) = advanceTo (s.q.pc + 1) (s.setMe c) := by
  rw [retire, q_setMe h]

theorem completes_advanceTo {s : State} {c : Core} (p : Nat) (h : s.me.sameSeqs c) :
    Completes p s (advanceTo p (s.setMe c)) := by
  constructor
  · show (advanceTo p (s.setMe c)).me.seq s.curEng = _
    rw [me_advanceTo, q_setMe h]
    exact (seq_setSeq _ _ _ _).trans (if_pos rfl)
  · intro e he
    rw [me_advanceTo]
    refine (seq_setSeq _ _ _ _).trans ((if_neg he).trans ?_)
    rw [me_setMe]; exact h e

theorem confined_advanceTo {s : State} {c : Core} (p : Nat) (zs : List Zone)
    (h : c.without (.seqs :: zs) = s.me.without (.seqs :: zs)) : Confined zs s (advanceTo p (s.setMe c)) := by
  refine ⟨rfl, fun n hn => ?_, ?_⟩
  · exact (core_advanceTo_ne p (s.setMe c) hn).trans (core_setMe_ne s hn c)
  · rw [me_advanceTo, without_setSeq, me_setMe, h]

theorem memoryKept_advanceTo (s : State) (c : Core) (p : Nat) : MemoryKept s (advanceTo p (s.setMe c)) := fun _ _ => rfl

/-- The word completes after an update of its core alone: all that it does. -/
theorem completed_of {i : Instr} {s : State} {c : Core} (zs : List Zone) (h : exec i s = .next (retire (s.setMe c)))
    (hs : s.me.sameSeqs c) (hw : c.without (.seqs :: zs) = s.me.without (.seqs :: zs)) :
    ∃ t, exec i s = .next t ∧ Completes (s.q.pc + 1) s t ∧ Confined zs s t ∧ MemoryKept s t ∧
      t.me = c.setSeq s.curEng (s.q.step s.curEng (s.q.pc + 1)) ∧ t = retire (s.setMe c) := by
  refine ⟨_, h, ?_⟩
  rw [retire_setMe hs]
  refine ⟨completes_advanceTo _ hs, confined_advanceTo _ _ hw, memoryKept_advanceTo _ _ _, ?_, rfl⟩
  rw [me_advanceTo, me_setMe, q_setMe hs]; rfl

/-! ## Results -/

theorem without_setS (c : Core) (n : Nat) (v : W64) : (c.setS n v).without [.seqs, .s] = c.without [.seqs, .s] := by
  unfold Core.setS
  by_cases h0 : n = 0 <;> by_cases hm : c.mode = .handler <;> simp [h0, hm, Core.without, Zone.clear]

/-- A result in sd: all that it does. -/
theorem givesS_of {i : Instr} {s : State} {d : BitVec 5} {v : W64} (h : exec i s = resultS d v s) : GivesS i s d v := by
  obtain ⟨t, h1, h2, h3, h4, h5, h6⟩ := completed_of (c := s.me.setS d.toNat v) [.s] h
    (fun e => seq_setS _ _ _ _) (without_setS _ _ _)
  refine ⟨t, h1, h2, fun n => ?_, h3, h4⟩
  have e : t.sval n = t.me.s n.toNat := rfl
  have hz (x : BitVec 5) : x.toNat = 0 ↔ x = 0 := ⟨fun h => BitVec.eq_of_toNat_eq h, fun h => by simp [h]⟩
  have he : n.toNat = d.toNat ↔ n = d := BitVec.toNat_inj
  rw [e, h5, s_setSeq, s_setS]
  simp only [he, Ne, hz]
  by_cases hn : n = 0
  · subst hn
    by_cases hd : (0 : BitVec 5) = d
    · subst hd; simp [Core.s]
    · simp only [hd, false_and, ↓reduceIte]; rfl
  · by_cases hd : n = d
    · have hn' : ¬n = 0#5 := hn
      subst hd; simp [hn']
    · simp only [hn, hd, false_and, ↓reduceIte]; rfl

theorem without_setG (c : Core) (e : Eng) (n : Nat) (v : W64) : (c.setG e n v).without [.seqs, .g] = c.without [.seqs, .g] := by
  unfold Core.setG
  by_cases hm : c.mode = .handler <;> simp [hm, Core.without, Zone.clear]

theorem g_setG_other (c : Core) {e x : Eng} (d : BitVec 4) {n : Nat} (v : W64) (hm : c.mode ≠ .handler) (hx : x ≠ e)
    (hn : n < 16) : (c.setG e d.toNat v).g x n = c.g x n := by
  have ht : x.tag ≠ e.tag := fun k => hx (Eng.tag_inj k)
  unfold Core.setG Core.g
  simp only [hm, ↓reduceIte]
  exact Sparse.get_set_ne _ _ (by have := d.isLt; omega) _

theorem writesG_of {s t : State} {d : BitVec 4} {v : W64} {e : Eng} {q : SeqState} (hc : t.curEng = s.curEng)
    (h : t.me = (s.me.setG s.curEng d.toNat v).setSeq e q) : WritesG s t d v := by
  constructor
  · intro n
    have he : t.gval n = t.me.g t.curEng n.toNat := rfl
    have hn : n.toNat = d.toNat ↔ n = d := BitVec.toNat_inj
    rw [he, hc, h, g_setSeq, g_setG]; simp only [hn]; rfl
  · intro hm x n hx hn
    rw [h, g_setSeq]; exact g_setG_other _ _ _ hm hx hn

/-- A result in gd: all that it does. -/
theorem givesG_of {i : Instr} {s : State} {d : BitVec 4} {v : W64} (h : exec i s = resultG d v s) : GivesG i s d v := by
  obtain ⟨t, h1, h2, h3, h4, h5, h6⟩ := completed_of (c := s.me.setG s.curEng d.toNat v) [.g] h
    (fun e => seq_setG _ _ _ _ _) (without_setG _ _ _ _)
  exact ⟨t, h1, h2, writesG_of (by rw [h6]; rfl) h5, h3, h4⟩

theorem without_setStk (c : Core) (e : Eng) (l : List W64) :
    (c.setStk e l).without [.seqs, .stack] = c.without [.seqs, .stack] := by
  unfold Core.setStk
  by_cases hm : c.mode = .handler <;> simp [hm, Core.without, Zone.clear]

theorem stk_setStk_other (c : Core) {e x : Eng} (l : List W64) (hm : c.mode ≠ .handler) (hx : x ≠ e) :
    (c.setStk e l).stk x = c.stk x := by
  have ht : x.tag ≠ e.tag := fun k => hx (Eng.tag_inj k)
  unfold Core.setStk Core.stk
  simp only [hm, ↓reduceIte]
  exact Sparse.get_set_ne _ _ ht _

theorem stackIs_of {s t : State} {l : List W64} {e : Eng} {q : SeqState} (hc : t.curEng = s.curEng)
    (h : t.me = (s.me.setStk s.curEng l).setSeq e q) : StackIs s t l := by
  constructor
  · show t.me.stk t.curEng = l
    rw [hc, h, stk_setSeq, stk_setStk]
  · intro hm x hx
    rw [h, stk_setSeq]; exact stk_setStk_other _ _ hm hx

/-- The engine's stack becomes l: all that it does. -/
theorem givesStack_of {i : Instr} {s : State} {l : List W64} (h : exec i s = .next (retire (s.putStk l))) :
    GivesStack i s l := by
  obtain ⟨t, h1, h2, h3, h4, h5, h6⟩ := completed_of (c := s.me.setStk s.curEng l) [.stack] h
    (fun e => seq_setStk _ _ _ _) (without_setStk _ _ _)
  exact ⟨t, h1, h2, stackIs_of (by rw [h6]; rfl) h5, h3, h4⟩

theorem without_setV (c : Core) (n : Nat) (v : VReg) : (c.setV n v).without [.seqs, .v] = c.without [.seqs, .v] := by
  by_cases hm : c.mode = .handler <;> simp [Core.setV, hm, Core.without, Zone.clear]

theorem v_setV (c : Core) (d n : Nat) (v : VReg) :
    (c.setV d v).v n = if phys n c.rrb = phys d c.rrb then v else c.v n := by
  simp only [Core.v, Core.setV, Sparse.get_set]

/-- A whole register written to vd: all that it does. -/
theorem givesV_of {i : Instr} {s : State} {d : BitVec 5} {x : VReg} {f : Nat → Word}
    (h : exec i s = .next (retire (s.putV d x))) (hf : ∀ l, l < 256 → x.lane l = f l) : GivesV i s d f := by
  obtain ⟨t, h1, h2, h3, h4, h5, h6⟩ := completed_of (c := s.me.setV d.toNat x) [.v] h
    (fun e => seq_setV _ _ _ _) (without_setV _ _ _)
  refine ⟨t, h1, h2, fun l hl => ?_, fun n hn => ?_, h3, h4⟩
  · show (t.me.v d.toNat).lane l = f l
    rw [h5, v_setSeq, v_setV, if_pos rfl]; exact hf l hl
  · show t.me.v n.toNat = s.me.v n.toNat
    rw [h5, v_setSeq, v_setV, if_neg hn]

theorem without_setM (c : Core) (n : Nat) (v : BitVec 256) : (c.setM n v).without [.seqs, .m] = c.without [.seqs, .m] := by
  unfold Core.setM
  by_cases h0 : n = 0 <;> by_cases hm : c.mode = .handler <;> simp [h0, hm, Core.without, Zone.clear]

/-- A result in md: all that it does. -/
theorem givesM_of {i : Instr} {s : State} {d : BitVec 3} {x : BitVec 256} {f : Nat → Bool}
    (h : exec i s = .next (retire (s.putM d x))) (hf : ∀ l, l < 256 → x.getLsbD l = f l) : GivesM i s d f := by
  obtain ⟨t, h1, h2, h3, h4, h5, h6⟩ := completed_of (c := s.me.setM d.toNat x) [.m] h
    (fun e => seq_setM _ _ _ _) (without_setM _ _ _)
  have hz (y : BitVec 3) : y.toNat = 0 ↔ y = 0 := ⟨fun h => BitVec.eq_of_toNat_eq h, fun h => by simp [h]⟩
  have e (n : BitVec 3) : t.mask n = (s.me.setM d.toNat x).m n.toNat := by
    show t.me.m n.toNat = _
    rw [h5, m_setSeq]
  refine ⟨t, h1, h2, fun l hl => ?_, fun n hn => ?_, h3, h4⟩
  · rw [e]
    by_cases hd : d = 0
    · rw [hd]
      show ((BitVec.allOnes 256).getLsbD l) = _
      rw [BitVec.getLsbD_allOnes]; simp [hl]
    · rw [m_setM, if_pos ⟨rfl, fun k => hd ((hz d).1 k)⟩, hf l hl, decide_eq_false hd, Bool.false_or]
  · rw [e, m_setM, if_neg (fun k => hn (BitVec.eq_of_toNat_eq k.1))]; rfl

/-! ## Branches and jumps -/

theorem goesTo_of {i : Instr} {s : State} {p : Nat} (h : exec i s = .next (advanceTo p s)) : GoesTo i s p := by
  refine ⟨_, h, ⟨?_, fun e he => ?_⟩, ⟨rfl, fun n hn => core_advanceTo_ne _ _ hn, ?_⟩, fun _ _ => rfl⟩
  · show (advanceTo p s).me.seq s.curEng = _
    rw [me_advanceTo]; exact (seq_setSeq _ _ _ _).trans (if_pos rfl)
  · rw [me_advanceTo]; exact (seq_setSeq _ _ _ _).trans (if_neg he)
  · rw [me_advanceTo, without_setSeq]

/-- A branch within the text completes, whichever way it goes; one out of it traps (R17, R91). -/
theorem goesTo_branch {i : Instr} {s : State} {w : Nat} {off : BitVec w} {b : Bool} (h : exec i s = branch b off s)
    (ht : inText s.q.pc off) : GoesTo i s (if b then ((s.q.pc : Int) + off.toInt).toNat else s.q.pc + 1) := by
  have ht' : 0 ≤ target s.q.pc off ∧ target s.q.pc off ≤ 65535 := ht
  exact goesTo_of (by rw [h, branch, if_pos ht']; rfl)

theorem traps_branch {i : Instr} {s : State} {w : Nat} {off : BitVec w} {b : Bool} (h : exec i s = branch b off s)
    (ht : ¬inText s.q.pc off) : Traps i s 6 (BitVec.ofInt 64 ((s.q.pc : Int) + off.toInt)) := by
  have ht' : ¬(0 ≤ target s.q.pc off ∧ target s.q.pc off ≤ 65535) := ht
  show exec i s = _
  rw [h, branch, if_neg ht']; rfl

/-! ## A partition newly given (R112) -/

theorem givePartition_wf (s : State) (n x base units : Nat) (h : Memory.wf s.mem = true) :
    Memory.wf (givePartition s n x base units).mem = true := by
  simp only [Memory.wf, Bool.and_eq_true, List.all_eq_true] at h
  simp only [givePartition, ownUnits, Memory.wf, Bool.and_eq_true, List.all_eq_true]
  exact ⟨listRising_filter _ _ _ h.1, fun e he => h.2 e (List.mem_filter.1 he).1⟩

/-! ## Traps in one cycle, and the slip bound -/

/-- What takes a trap instead of sequencer e is a sequencer of lower tag (R338). -/
theorem forestalled_lower {s : State} {n : Nat} {e : Eng} {x : Eng × Nat × W64} (h : forestalled s n e = some x) : x.1.tag < e.tag := by
  unfold forestalled at h
  split at h
  · rename_i p hp
    have := List.find?_some hp
    obtain ⟨a, -, rfl⟩ := Option.map_eq_some_iff.1 h
    simp only [Bool.and_eq_true, decide_eq_true_eq] at this
    exact this.1
  · obtain ⟨p, hp, rfl⟩ := Option.map_eq_some_iff.1 h
    exact of_decide_eq_true (Option.filter_eq_some_iff.1 hp).2

/-- Nothing holds a word by slip while no sequencer of its core has ended (R68). -/
theorem slipHeld_running {s : State} (f : Nat → Bool) (h : ∀ p ∈ team s.curCore, (s.me.seqs.get {} p.tag).ended = false) :
    slipHeld s f = false := by
  have : ∀ p ∈ team s.curCore, ¬((s.me.seqs.get {} p.tag).ended && (s.me.seqs.get {} p.tag).crel.flatten.any (fun i =>
      s.q.acq.contains i && pendingAt s true i)) = true := fun p hp => by rw [h p hp, Bool.false_and]; exact Bool.false_ne_true
  unfold slipHeld
  rw [List.any_eq_false.2 this, Bool.and_false]

end Sys2Proof.Machine
end

