-- ==== Sys2Proof/Laws/Work.lean ====
section
/-!
SUPPORT. An overflow queue entry holds each of its parts whole and once, in whatever order the free layout puts them (R125).
-/

namespace Sys2Proof.Machine

/-- Part i of an overflow entry comes before part j in the free order (R125). -/
abbrev ovfBefore (i j : Nat) : Prop := Config.ovfRank i < Config.ovfRank j ∨ (Config.ovfRank i = Config.ovfRank j ∧ i < j)

/-- A place counts the parts that come before it. -/
theorem ovfPlace_card (j : Nat) : ovfPlace j = ((Finset.range 51).filter (fun i => ovfBefore i j)).card := by
  simp [ovfPlace, Finset.card, Finset.filter, Finset.range, Multiset.range, Bool.decide_or, Bool.decide_and, ovfBefore]

/-- The place of a part rises with the free order. -/
theorem ovfPlace_lt {i j : Nat} (hi : i < 51) (h : ovfBefore i j) : ovfPlace i < ovfPlace j := by
  rw [ovfPlace_card, ovfPlace_card]
  refine Finset.card_lt_card (Finset.ssubset_iff_of_subset (fun k hk => ?_) |>.2 ⟨i, ?_, ?_⟩)
  · simp only [Finset.mem_filter] at hk ⊢
    exact ⟨hk.1, by unfold ovfBefore at *; omega⟩
  · simp [hi, h]
  · simp [ovfBefore]

/-- The places of an entry's parts are a permutation of 0-50. -/
theorem ovfPlace_perm : ((List.range 51).map ovfPlace).Perm (List.range 51) := by
  have inj : ∀ i ∈ List.range 51, ∀ j ∈ List.range 51, ovfPlace i = ovfPlace j → i = j := fun i hi j hj h => by
    rw [List.mem_range] at hi hj
    by_contra hne
    rcases (show ovfBefore i j ∨ ovfBefore j i by unfold ovfBefore; omega) with b | b
    · exact absurd h (Nat.ne_of_lt (ovfPlace_lt hi b))
    · exact absurd h.symm (Nat.ne_of_lt (ovfPlace_lt hj b))
  have below : (List.range 51).map ovfPlace ⊆ List.range 51 := fun x hx => by
    obtain ⟨j, hj, rfl⟩ := List.mem_map.1 hx
    rw [List.mem_range] at hj ⊢
    rw [ovfPlace_card]
    refine lt_of_lt_of_eq (Finset.card_lt_card (Finset.ssubset_iff_of_subset (Finset.filter_subset _ _) |>.2 ⟨j, ?_, ?_⟩))
      (Finset.card_range 51)
    · simpa using hj
    · simp [ovfBefore]
  have nodup : ((List.range 51).map ovfPlace).Nodup := List.Nodup.map_on (fun i hi j hj h => inj i hi j hj h) List.nodup_range
  exact (nodup.subperm below).perm_of_length_le (by simp)

/-- An overflow entry is its parts, each whole, in some order (R125). -/
theorem ovfBytes_parts (s : State) (ch : Child) : ∃ l : List (List Byte), l.Perm (ovfParts s ch) ∧ ovfBytes s ch = l.flatten := by
  have len : (ovfParts s ch).length = 51 := by simp [ovfParts]
  refine ⟨(List.range 51).map (fun j => (ovfParts s ch).getD (ovfPlace j) []), ?_, rfl⟩
  have e : (List.range 51).map (fun j => (ovfParts s ch).getD (ovfPlace j) []) =
      ((List.range 51).map ovfPlace).map (fun k => (ovfParts s ch).getD k []) := by simp
  rw [e]
  refine (ovfPlace_perm.map _).trans (List.Perm.of_eq ?_)
  refine List.ext_getElem (by simp [len]) fun i h1 h2 => ?_
  simp [List.getD_eq_getElem?_getD, h2]

/-- It has 128 bytes (R125). -/
theorem ovfBytes_length (s : State) (ch : Child) (h : ch.image.length = 64) : (ovfBytes s ch).length = 128 := by
  obtain ⟨l, hl, e⟩ := ovfBytes_parts s ch
  rw [e, List.length_flatten, (hl.map List.length).sum_eq]
  simp [ovfParts, h, leBytes, Function.comp_def]

end Sys2Proof.Machine
end

