-- ==== Sys2Proof/Tests/Slice0.lean ====
section
/-!
SUPPORT. The model's own tests: ill-formed terms, words decoded as the spec's tables write them, single steps, and the
states that meet the hypotheses of the statements.
-/

namespace Sys2Proof.Tests

open Sys2Proof.Machine

set_option Elab.async false

/-! ## Ill-formed terms: one for each check -/

theorem test_illformed_scalar : ∀ i ∈ [Instr.ld 1 2 0 3 1 0, .cfence 0 5 0, .cfence 0 0 3, .lread 1 13, .idx 1 4, .loop 0 1, .rfence 1 2 0,
    .pushi .s 0, .pushg .s 0 0, .gaddi .s 0 0 0, .gadd .s 0 0 0, .gshli .s 0 0 0, .gmuli .s 0 0 0, .popg .s 0, .dupp .s, .dropp .s, .swapp .s,
    .gmovi .s 0 0], i.wf = false := by decide +kernel

theorem test_illformed_engine : ∀ i ∈ [Instr.gld .s 0 0 0 0, .gst .s 0 0 0 0, .epost .s 0, .epostv .s 0 0, .ewait .s 0, .ewaitv .s 0 0,
    .ejmp .s 0, .edbnz .s 0 0, .ebz .s 0 0, .ebnz .s 0 0, .awaitfEngine .s 0 0, .relsEngine .s 0, .rclaimEngine .s 0 0, .rstatEngine .s 0 0,
    .elimm .s 0], i.wf = false := by decide +kernel

theorem test_illformed_engines : ∀ i ∈ [Instr.vcmp 1 0 0 0 0 1 1, .vcmp 1 0 0 0 6 0 0, .vcvt 0 0 0 0 11 0, .vcvt 0 0 1 0 0 0, .vcvt 0 0 0 0 5 1,
    .vqmx 0 0 5, .vdqmx 0 0 5, .vsortd 1 0 1 0, .mma 0 0 7 0, .mma 0 0 5 0, .moutl 0 0 0 7, .moutl 0 0 3 5], i.wf = false := by decide +kernel

theorem test_illformed_core_events : ∀ i ∈ [Instr.trapEntry 129, .handlerTimeout 129, .safePointDistance 129, .tawaitTimeout 129,
    .quoinEntryRetire 129, .rfenceComplete 129, .ccombReport 129 0, .replayRetry 129 0, .replayFail 129 0, .copyLineWrite 129 0,
    .commonWordPass 129 .s, .slipRelease 129 .s, .eventWaitWake 129 .s, .ringWaitWake 129 .s, .counterWaitWake 129 .s, .sliceWaitWake 129 .s,
    .watchdog 129 .s, .slipwWrite 129 0, .detmodeWrite 129 0, .registerWrite 129 0 0, .tableWalk 129 0 0], i.wf = false := by decide +kernel

theorem test_illformed_compute_events : ∀ i ∈ [Instr.bmvRowWrite 128 0 0, .abandonment 128, .textStaging 128, .instanceEnd 128,
    .drainBudgetExpiry 128, .checkpointComplete 128, .forcedCut 128, .instanceResume 128, .coreCmdResume 128, .coreCmdTerminate 128,
    .tileSaveGo 128, .tileRestoreGo 128, .tileTransferComplete 128], i.wf = false := by decide +kernel

/-- A full line from device 7 on receive fibre 64. -/
def line0 : Arrival :=
  { src := 7, dest := 0, win := 0, line := 0, op := 0, poison := false, isSealed := false, authOk := true, enables := none
    bytes := List.replicate 128 0x5A, fibre := 64 }

/-- A partial from device 7: the value at position 1 of level 0. -/
def red0 : RedArrival :=
  { src := 7, dest := 0, win := 0, line := 0, pos := 1, level := 0, seq8 := 0, isSealed := false, authOk := true
    ws := List.replicate 32 3, fibre := 64 }

/-- An image of two words, at place 256 of the scratchpad. -/
def image0 : BootImage :=
  { words := [0xE0000000, 1], version := 9, romDigest := 1, signatureOk := true
    image := [0, 0, 0, 0xE0, 1, 0, 0, 0], place := 256 }

theorem test_illformed_arrivals : ∀ i ∈ [Instr.lineArrival { line0 with src := 4096 }, .lineArrival { line0 with dest := 4096 },
    .reductionPartialArrival { red0 with dest := 4096 }, .lineArrival { line0 with win := 1024 },
    .lineArrival { line0 with bytes := [] }, .lineArrival { line0 with fibre := 63 }, .lineArrival { line0 with fibre := 128 },
    .lineArrival { line0 with op := 5 }, .lineArrival { line0 with enables := some [128] }, .reductionPartialArrival { red0 with src := 4096 },
    .reductionPartialArrival { red0 with win := 1024 }, .reductionPartialArrival { red0 with line := 256 },
    .reductionPartialArrival { red0 with level := 13 }, .reductionPartialArrival { red0 with pos := 4096 },
    .reductionPartialArrival { red0 with seq8 := 256 }, .reductionResultArrival { red0 with ws := [] },
    .reductionResultArrival { red0 with fibre := 63 }, .reductionResultArrival { red0 with fibre := 128 }], i.wf = false := by decide +kernel

theorem test_illformed_fabric_events : ∀ i ∈ [Instr.barrierRelease 64, .acknowledgementArrival 0 ⟨0, 5, false, true, 64⟩,
    .acknowledgementArrival 0 ⟨0, 0, false, true, 63⟩, .acknowledgementArrival 0 ⟨4096, 0, false, true, 64⟩, .reservedPacket ⟨4, 64⟩, .reservedPacket ⟨16, 64⟩, .reservedPacket ⟨5, 63⟩,
    .packetCrcFailure 63, .packetCrcFailure 128, .heatWrite 128 0 0, .heatWrite 0 17 0, .assignWrite 128 0 0 false,
    .assignWrite 0 17 0 false, .monUpdate 128 0 0, .monUpdate 0 17 0, .fibreResume 128, .fibrePauseTimeout 128], i.wf = false := by
  decide +kernel

theorem test_illformed_plinth_events : ∀ i ∈ [Instr.keySlotValid 512 true, .contextValidSet 64, .contextValidClear 64, .notify 64 0 0 false [],
    .notify 0 8 0 false [], .notify 0 0 64 false [], .notify 0 0 0 false [(4096, 0)], .sequenceRecheck 64 0, .sequenceRecheck 0 8,
    .queueHalt 64 0, .queueHalt 0 8, .qstatHaltedClear 64 0, .qstatHaltedClear 0 8, .instancePlace 4, .dieFence 4, .overflowMove 4 0,
    .overflowMove 0 64], i.wf = false := by decide +kernel

theorem test_illformed_host_events : ∀ i ∈ [Instr.measurementExtend 8 0 false, .attestationRequest (2 ^ 32) (some (List.replicate 32 0)),
    .attestationRequest 1 (some []), .powerGood { image0 with words := List.replicate 65537 0 }, .powerGood { image0 with place := 0xFFFFC },
    .powerSample 0 [0], .hostBar2Write 16 0 ⟨[], []⟩, .hostBar2Write 0 (2 ^ 32) ⟨[], [0]⟩, .hostBar2Write 0 0 ⟨[(4, 0)], []⟩,
    .hostBar2Write 0 0 ⟨[(2 ^ 22, 0)], []⟩, .hostBar2Read 16 0 0, .hostBar2Read 0 (2 ^ 32) 1], i.wf = false := by decide +kernel

/-! ## Decoding: one word of every row, put together from the table's fixed bits and fields (R23-R34) -/

theorem test_decode_scalar_1 : ∀ p ∈ ([(0x00AAA600#32, Instr.add 21 10 19), (0x00AAA601#32, Instr.sub 21 10 19), (0x00AAA602#32, Instr.mul 21 10 19),
    (0x00AAA603#32, Instr.mulh 21 10 19), (0x00AAA604#32, Instr.mulhn 21 10 19), (0x00AAA605#32, Instr.div 21 10 19),
    (0x00AAA606#32, Instr.divn 21 10 19), (0x00AAA607#32, Instr.rem 21 10 19), (0x00AAA608#32, Instr.remn 21 10 19),
    (0x00AAA609#32, Instr.and 21 10 19), (0x00AAA60A#32, Instr.or 21 10 19), (0x00AAA60B#32, Instr.xor 21 10 19),
    (0x00AAA60C#32, Instr.andn 21 10 19), (0x00AAA60D#32, Instr.shl 21 10 19), (0x00AAA60E#32, Instr.shr 21 10 19),
    (0x00AAA60F#32, Instr.sra 21 10 19), (0x00AAA610#32, Instr.rol 21 10 19), (0x00AAA611#32, Instr.min 21 10 19),
    (0x00AAA612#32, Instr.max 21 10 19), (0x00AAA613#32, Instr.minn 21 10 19), (0x00AAA614#32, Instr.maxn 21 10 19),
    (0x00AAA615#32, Instr.slt 21 10 19), (0x00AAA616#32, Instr.sltn 21 10 19), (0x00AAA617#32, Instr.seq 21 10 19)] : List (Word × Instr)), (decode p.1).toOption = some p.2 := by
  decide +kernel

theorem test_decode_scalar_2 : ∀ p ∈ ([(0x00AA8018#32, Instr.clz 21 10), (0x00AA8019#32, Instr.ctz 21 10), (0x00AA801A#32, Instr.popc 21 10),
    (0x01AAA005#32, Instr.addi 21 10 8197), (0x02AAA005#32, Instr.andi 21 10 8197), (0x03AAA005#32, Instr.ori 21 10 8197),
    (0x04AAA005#32, Instr.xori 21 10 8197), (0x05AAA005#32, Instr.slti 21 10 8197), (0x06AA8013#32, Instr.shli 21 10 19),
    (0x06AA9013#32, Instr.shri 21 10 19), (0x06AAA013#32, Instr.srai 21 10 19), (0x06AAB053#32, Instr.sext 21 10 19),
    (0x06AAB013#32, Instr.zext 21 10 19), (0x07AC0005#32, Instr.lup 21 262149), (0x08AAA005#32, Instr.beq 21 10 8197),
    (0x09AAA005#32, Instr.bne 21 10 8197), (0x0AAAA005#32, Instr.blt 21 10 8197), (0x0BAAA005#32, Instr.bge 21 10 8197),
    (0x0CAAA005#32, Instr.bltn 21 10 8197), (0x0DAAA005#32, Instr.bgen 21 10 8197), (0x0E800005#32, Instr.jmp 8388613),
    (0x0F800005#32, Instr.call 8388613), (0x10054000#32, Instr.jr 21), (0x10054001#32, Instr.callr 21)] : List (Word × Instr)), (decode p.1).toOption = some p.2 := by
  decide +kernel

theorem test_decode_scalar_3 : ∀ p ∈ ([(0x11382005#32, Instr.loop 7 8197), (0x12AA8E89#32, Instr.ld 21 10 3 2 1 9), (0x13AA8D06#32, Instr.st 21 10 3 1 6),
    (0x14AAA600#32, Instr.fadd 21 10 19), (0x14AAA601#32, Instr.fsub 21 10 19), (0x14AAA602#32, Instr.fmul 21 10 19),
    (0x14AAA603#32, Instr.fdiv 21 10 19), (0x14AAA604#32, Instr.fmin 21 10 19), (0x14AAA605#32, Instr.fmax 21 10 19),
    (0x14AAA606#32, Instr.flt 21 10 19), (0x14AAA607#32, Instr.fle 21 10 19), (0x14AAA608#32, Instr.feq 21 10 19),
    (0x14AA8009#32, Instr.fcvtf 21 10), (0x14AA800A#32, Instr.fcvti 21 10), (0x14AA800B#32, Instr.fsqrt 21 10),
    (0x1502A000#32, Instr.post 21), (0x15A94400#32, Instr.postv 21 10), (0x1502A800#32, Instr.await 21),
    (0x15A94C00#32, Instr.awaitv 21 10), (0x15A95000#32, Instr.tawait 21 10), (0x16AAA600#32, Instr.ctake 21 10 19),
    (0x16055401#32, Instr.ctadd 21 10), (0x16AAA602#32, Instr.ctwait 21 10 19), (0x16055403#32, Instr.ctset 21 10)] : List (Word × Instr)), (decode p.1).toOption = some p.2 := by
  decide +kernel

theorem test_decode_scalar_4 : ∀ p ∈ ([(0x16AA8004#32, Instr.ctrd 21 10), (0x16AAA605#32, Instr.barw 21 10 19), (0x17800590#32, Instr.cfence 32773 4 2),
    (0x18AAA600#32, Instr.spawn 21 10 19), (0x18A81801#32, Instr.lread 21 12), (0x18A80602#32, Instr.idx 21 3),
    (0x19AA8000#32, Instr.ssopen 21 10), (0x19AA8001#32, Instr.ssclose 21 10), (0x19AAA602#32, Instr.sseed 21 10 19),
    (0x19AAA603#32, Instr.sfbeg 21 10 19), (0x19AAA604#32, Instr.sfend 21 10 19), (0x19AA8005#32, Instr.sjump 21 10),
    (0x19AA8006#32, Instr.spfx 21 10), (0x19AAA607#32, Instr.swaitp 21 10 19), (0x19AA8008#32, Instr.srecyc 21 10),
    (0x19AAA609#32, Instr.saccept 21 10 19), (0x19AAA60A#32, Instr.sresid 21 10 19), (0x19AA800B#32, Instr.scancel 21 10),
    (0x19AAA60C#32, Instr.sflt 21 10 19), (0x19AA800D#32, Instr.swaitf 21 10), (0x1AA80805#32, Instr.srd 21 2053),
    (0x1AA81805#32, Instr.swr 21 2053), (0x1AAAA000#32, Instr.tlbiVa 21 10), (0x1AA82001#32, Instr.tlbiCtx 21)] : List (Word × Instr)), (decode p.1).toOption = some p.2 := by
  decide +kernel

theorem test_decode_scalar_5 : ∀ p ∈ ([(0x1A002002#32, Instr.tlbiAll), (0x1A057000#32, Instr.trap 21), (0x1A003001#32, Instr.rte),
    (0x1A003002#32, Instr.wfi), (0x1AA83003#32, Instr.brk 21), (0x1A003004#32, Instr.tlbsync),
    (0x1BA85000#32, Instr.awaitf 21 10), (0x1B00A900#32, Instr.rels 21), (0x1BA85200#32, Instr.rclaim 21 10),
    (0x1BA85300#32, Instr.rstat 21 10), (0x1BA85400#32, Instr.rinit 21 10), (0x1F800005#32, Instr.limm 8388613)] : List (Word × Instr)), (decode p.1).toOption = some p.2 := by
  decide +kernel

theorem test_decode_engine_1 : ∀ p ∈ ([(0x38800005#32, Instr.pushi .v 8388613), (0x59A80005#32, Instr.pushg .m 10 524293), (0x7AA30805#32, Instr.gaddi .c 10 3 2053),
    (0x9AA3100D#32, Instr.gadd .f 10 3 13), (0x3AA3200D#32, Instr.gshli .v 10 3 13), (0x5AA33805#32, Instr.gmuli .m 10 3 2053),
    (0x7AA04000#32, Instr.popg .c 10), (0x9A005000#32, Instr.dupp .f), (0x3A006000#32, Instr.dropp .v),
    (0x5A007000#32, Instr.swapp .m), (0x7AA08805#32, Instr.gmovi .c 10 2053), (0x9BA36C05#32, Instr.gld .f 10 3 13 1029),
    (0x3BA3EC05#32, Instr.gst .v 10 3 13 1029), (0x5C280000#32, Instr.epost .m 10), (0x7C28D000#32, Instr.epostv .c 10 3),
    (0x9C282000#32, Instr.ewait .f 10), (0x3C28F000#32, Instr.ewaitv .v 10 3), (0x5D020005#32, Instr.ejmp .m 131077),
    (0x7DA60005#32, Instr.edbnz .c 10 131077), (0x9DAA0005#32, Instr.ebz .f 10 131077), (0x3DAE0005#32, Instr.ebnz .v 10 131077),
    (0x5EA13000#32, Instr.awaitfEngine .m 10 19), (0x7E00A400#32, Instr.relsEngine .c 10), (0x9EA13800#32, Instr.rclaimEngine .f 10 19)] : List (Word × Instr)), (decode p.1).toOption = some p.2 := by
  decide +kernel

theorem test_decode_engine_2 : ∀ p ∈ ([(0x3EA13C00#32, Instr.rstatEngine .v 10 19), (0x5F800005#32, Instr.elimm .m 8388613)] : List (Word × Instr)), (decode p.1).toOption = some p.2 := by
  decide +kernel

theorem test_decode_vector_1 : ∀ p ∈ ([(0x20AAA740#32, Instr.vadd 21 10 19 5), (0x20AAA741#32, Instr.vsub 21 10 19 5), (0x20AAA742#32, Instr.vmul 21 10 19 5),
    (0x20AAA743#32, Instr.vdiv 21 10 19 5), (0x20AAA744#32, Instr.vmin 21 10 19 5), (0x20AAA745#32, Instr.vmax 21 10 19 5),
    (0x20AA80C6#32, Instr.vabs 21 10 3), (0x20AA80C7#32, Instr.vneg 21 10 3), (0x20AA80C8#32, Instr.vsqrt 21 10 3),
    (0x20AA80C9#32, Instr.vrsqrt 21 10 3), (0x20AA80CA#32, Instr.vrcp 21 10 3), (0x20AA80CB#32, Instr.vexp2 21 10 3),
    (0x20AA80CC#32, Instr.vlog2 21 10 3), (0x21AAA740#32, Instr.viadd 21 10 19 5), (0x21AAA741#32, Instr.visub 21 10 19 5),
    (0x21AAA742#32, Instr.vimul 21 10 19 5), (0x21AAA743#32, Instr.vimulh 21 10 19 5), (0x21AAA744#32, Instr.vimulhn 21 10 19 5),
    (0x21AAA745#32, Instr.viand 21 10 19 5), (0x21AAA746#32, Instr.vior 21 10 19 5), (0x21AAA747#32, Instr.vixor 21 10 19 5),
    (0x21AAA748#32, Instr.vishl 21 10 19 5), (0x21AAA749#32, Instr.vishr 21 10 19 5), (0x21AAA74A#32, Instr.visra 21 10 19 5)] : List (Word × Instr)), (decode p.1).toOption = some p.2 := by
  decide +kernel

theorem test_decode_vector_2 : ∀ p ∈ ([(0x21AAA74B#32, Instr.vimin 21 10 19 5), (0x21AAA74C#32, Instr.vimax 21 10 19 5), (0x21AAA74D#32, Instr.viminn 21 10 19 5),
    (0x21AAA74E#32, Instr.vimaxn 21 10 19 5), (0x22AAA6DC#32, Instr.vfma 21 10 19 13 6), (0x22AAA6DD#32, Instr.vfnma 21 10 19 13 6),
    (0x23A2A76A#32, Instr.vcmp 5 10 19 5 5 0 1), (0x24288600#32, Instr.mand 5 2 3), (0x24288601#32, Instr.mor 5 2 3),
    (0x24288602#32, Instr.mxor 5 2 3), (0x24288003#32, Instr.mnot 5 2), (0x24A88004#32, Instr.mpop 21 2),
    (0x242A8005#32, Instr.mset 5 10), (0x25AAA740#32, Instr.vsel 21 10 19 5), (0x26AA835B#32, Instr.vcvt 21 10 1 5 6 3),
    (0x27AA8800#32, Instr.vqmx 21 10 4), (0x27AA8801#32, Instr.vdqmx 21 10 4), (0x28AA80C0#32, Instr.vrsum 21 10 3),
    (0x28AA80C1#32, Instr.vrmax 21 10 3), (0x28AA80C2#32, Instr.vrmin 21 10 3), (0x28AA80C3#32, Instr.vargmax 21 10 3),
    (0x28AA80C4#32, Instr.vargmin 21 10 3), (0x28AA80C5#32, Instr.vrisum 21 10 3), (0x29AA80C1#32, Instr.vscan 21 10 3 1)] : List (Word × Instr)), (decode p.1).toOption = some p.2 := by
  decide +kernel

theorem test_decode_vector_3 : ∀ p ∈ ([(0x2AAAA740#32, Instr.vperm 21 10 19 5), (0x2AAAA741#32, Instr.vslup 21 10 19 5), (0x2AAAA742#32, Instr.vsldn 21 10 19 5),
    (0x2AAAA743#32, Instr.vbcast 21 10 19 5), (0x2AA80084#32, Instr.viota 21 2), (0x2BAAA740#32, Instr.vsortd 21 10 19 5),
    (0x2CAAA740#32, Instr.vrng 21 10 19 5 0), (0x2DAD3D06#32, Instr.vld 21 10 3 13 6), (0x2EAD3D06#32, Instr.vst 21 10 3 13 6),
    (0x2FAD3D30#32, Instr.vlds 21 10 3 13 6), (0x2FAD3DB0#32, Instr.vsts 21 10 3 13 6), (0x30AD3D30#32, Instr.vgth 21 10 3 13 6),
    (0x30AD3DB0#32, Instr.vsct 21 10 3 13 6), (0x31AC0005#32, Instr.vsplf 21 262149), (0x32AC0005#32, Instr.vspli 21 262149),
    (0x33AA80C0#32, Instr.vmov 21 10 3), (0x33AA84C1#32, Instr.vins 21 10 19), (0x332A84C2#32, Instr.vext 5 10 19)] : List (Word × Instr)), (decode p.1).toOption = some p.2 := by
  decide +kernel

theorem test_decode_matrix : ∀ p ∈ ([(0x40140000#32, Instr.mld 5), (0x40540001#32, Instr.mldAcc 21), (0x41540000#32, Instr.mst 21),
    (0x42540000#32, Instr.mzero 21), (0x4354A000#32, Instr.mmov 21 10), (0x44540282#32, Instr.mma 21 10 0 2),
    (0x455402B5#32, Instr.moutl 21 10 6 5), (0x4654A000#32, Instr.mhad 21 10), (0x47540003#32, Instr.mdrain 21 0 3),
    (0x4854A4C0#32, Instr.maddt 21 10 19), (0x4854A4C1#32, Instr.maddtI 21 10 19), (0x4954A000#32, Instr.mscl 21 10),
    (0x4954A001#32, Instr.msclCol 21 10), (0x4954A002#32, Instr.msclRow 21 10), (0x4A000000#32, Instr.mfmt),
    (0x4B000000#32, Instr.bmv), (0x4C140000#32, Instr.msave 5), (0x4D140000#32, Instr.mrest 5)] : List (Word × Instr)), (decode p.1).toOption = some p.2 := by
  decide +kernel

theorem test_decode_copy : ∀ p ∈ ([(0x60000000#32, Instr.copy), (0x61000000#32, Instr.copyl), (0x62000000#32, Instr.copyi),
    (0x63000000#32, Instr.cfill), (0x64005000#32, Instr.ccomb 5), (0x65000000#32, Instr.scacc),
    (0x66000000#32, Instr.sfacc)] : List (Word × Instr)), (decode p.1).toOption = some p.2 := by
  decide +kernel

theorem test_decode_fabric : ∀ p ∈ ([(0x80000000#32, Instr.fsend), (0x81005000#32, Instr.fsacc 5), (0x82005000#32, Instr.fqsend 5),
    (0x83005000#32, Instr.wmapw 5), (0x84005000#32, Instr.wmapr 5), (0x85005000#32, Instr.rxww 5),
    (0x86000000#32, Instr.fslotw), (0x87000000#32, Instr.fslotgo), (0x88005000#32, Instr.fslotst 5),
    (0x89005000#32, Instr.fgrp 5), (0x8A005000#32, Instr.fpath 5), (0x8B005000#32, Instr.fqst 5)] : List (Word × Instr)), (decode p.1).toOption = some p.2 := by
  decide +kernel

theorem test_decode_common : ∀ p ∈ ([(0xE0000000#32, Instr.nopc), (0xE1008005#32, Instr.safept 32773), (0xE2800005#32, Instr.loopk 8388613),
    (0xE3800005#32, Instr.lexit 8388613), (0xE4000000#32, Instr.endt), (0xE5AC8005#32, Instr.rfence 21 4 32773)] : List (Word × Instr)), (decode p.1).toOption = some p.2 := by
  decide +kernel

/-! ## Numbers, by hand calculation from the formats (R36–R53), and SHA-256 of 64 zero bytes (the value FIPS 180-4 gives, computed with sha256sum) -/

def add32 (x y : Word) : Word := encF32 (rne (fadd (f32 x) (f32 y)))
def mul32 (x y : Word) : Word := encF32 (rne (fmul (f32 x) (f32 y)))

theorem test_add_ties_to_even : add32 0x3F800000 0x33800000 = 0x3F800000 ∧ add32 0x3F800001 0x33800000 = 0x3F800002 := by decide +kernel

theorem test_add_overflows_to_infinity : add32 0x7F7FFFFF 0x7F7FFFFF = 0x7F800000 ∧ add32 0x7F800000 0xFF800000 = 0x7FC00000 := by decide +kernel

theorem test_add_of_opposites : add32 0x3F800000 0xBF800000 = 0 ∧ add32 0x80000000 0x80000000 = 0x80000000 := by decide +kernel

theorem test_mul_subnormal : mul32 0x00800000 0x3F000000 = 0x00400000 ∧ mul32 0x00000001 0x3F000000 = 0 ∧ mul32 0x00000003 0x3F000000 = 2 := by decide +kernel

theorem test_div_and_sqrt : encF32 (rne (fdiv (f32 0x3F800000) (f32 0x40400000))) = 0x3EAAAAAB ∧ encF32 (rne (fsqrt (f32 0x40000000))) = 0x3FB504F3 ∧
    encF32 (rne (fsqrt (f32 0xBF800000))) = 0x7FC00000 := by decide +kernel

theorem test_e4m3_values : encF32 (rne (fval fmtE4m3 0x7E)) = 0x43E00000 ∧ fval fmtE4m3 0x7F = .nan ∧ encF32 (rne (fval fmtE4m3 0x01)) = 0x3B000000 ∧
    encF32 (rne (fval fmtE4m3 0x81)) = 0xBB000000 := by decide +kernel

theorem test_sha256 : (sha256 (List.replicate 64 0#8)).take 8 = [0xF5, 0xA5, 0xFD, 0x42, 0xD1, 0x6A, 0x20, 0x30] ∧
    (sha256 [0x61, 0x62, 0x63]).take 8 = [0xBA, 0x78, 0x16, 0xBF, 0x8F, 0x01, 0xCF, 0xEA] ∧
    (sha256 []).take 8 = [0xE3, 0xB0, 0xC4, 0x42, 0x98, 0xFC, 0x1C, 0x14] := by decide +kernel

/-! ## States that meet the hypotheses of the statements -/

/-- An instance of launch 1 under context 0, with a partition of two units. -/
def inst0 : Inst := { launch := 1, ctx := 0, cls := 1, lrec := { kern := 1, trips := 4, part := 2 }, tab := {}, count := 1, units := 2, placed := 1 }

/-- A core on which it runs. -/
def idle : Core := { active := true, inst := some inst0 }

/-- Core 0 and the sequencer whose turn it is. -/
def at_ (c : Core) (e : Eng) : State := { State.reset with cores := ⟨[(0, c)]⟩, curEng := e }

def st (e : Eng) : State := at_ idle e

/-- Sequencer e of core 0 stands as given. -/
def seqAt (q : SeqState) (e : Eng) : State := at_ { idle with seqs := ⟨[(e.tag, q)]⟩ } e

/-- S has registers s1 and s2. -/
def withS (x y : W64) : State := at_ { idle with sreg := ⟨[(1, x), (2, y)]⟩ } .s

/-- The engine's stack. -/
def withStack (l : List W64) (e : Eng) : State := at_ { idle with stack := ⟨[(e.tag, l)]⟩ } e

theorem witness_ScalarRegisterAlu : ((withS (2 ^ 63) (-1)).sval 1).toInt = -(2 ^ 63) ∧ ((withS (2 ^ 63) (-1)).sval 2).toInt = -1 ∧
    27 ≤ (27#9).toNat := by decide +kernel

theorem witness_ScalarImmediates : (st .s).q.pfx = [] ∧ (seqAt { pfx := [5] } .s).q.pfx = [5] ∧ (seqAt { pfx := [5, 6] } .s).q.pfx = [5, 6] :=
  ⟨rfl, rfl, rfl⟩

theorem witness_PrefixesAreHeld : (st .v).q.pfx.length < 2 ∧ (seqAt { pfx := [5] } .v).q.pfx.length < 2 ∧
    2 ≤ (seqAt { pfx := [5, 6] } .v).q.pfx.length := by decide +kernel

theorem witness_ScalarControlFlow : inText (st .s).q.pc 0#14 ∧ inText (seqAt { pc := 65535 } .s).q.pc 0#24 ∧
    ¬inText (st .s).q.pc (-1 : BitVec 14) ∧ ¬inText (seqAt { pc := 65535 } .s).q.pc 1#24 ∧ ((withS 65535 65536).sval 1).toNat ≤ 65535 ∧
    65536 ≤ ((withS 65535 65536).sval 2).toNat ∧ (1#5 : BitVec 5) ≠ 0 := by
  unfold inText; decide +kernel

theorem witness_ScalarFloat : (1#5 : BitVec 5) ≠ 0 ∧ 12 ≤ (12#9).toNat := by decide

theorem witness_EngineWords : (withStack [] .v).stk.length < 8 ∧ (withStack [1, 2, 3, 4, 5, 6, 7] .f).stk.length < 8 ∧
    8 ≤ (withStack [1, 2, 3, 4, 5, 6, 7, 8] .m).stk.length ∧ (withStack [1, 2, 3, 4, 5, 6, 7] .c).stk = 1 :: [2, 3, 4, 5, 6, 7] ∧
    (withStack [1] .v).stk = 1 :: [] ∧ (withStack [1, 2] .v).stk = 1 :: 2 :: [] ∧ (withStack [] .v).stk.length < 1 ∧
    (withStack [1] .v).stk.length < 2 ∧ inText (seqAt { pc := 65535 } .c).q.pc 0#18 ∧ ¬inText (seqAt { pc := 65535 } .c).q.pc 1#18 := by
  unfold inText; decide +kernel

theorem witness_VectorFloatLanes : (at_ { idle with nser := 2 ^ 32 - 1 } .v).me.nser < 2 ^ 32 ∧ (at_ { idle with nser := 2 ^ 32 - 1 } .v).me.nwait < 2 ^ 16 := by decide +kernel

theorem witness_VectorIntegerLanes : 15 ≤ (15#6).toNat ∧ 2 ≤ (2#6).toNat := by decide

theorem witness_VectorMasksAndSelects : (5#3).toNat ≤ 5 := by decide

theorem witness_VectorConversions : (4#3).toNat ≤ 4 := by decide

/-- v1 holds 2.0 in lanes 0 and 1 and NaN in lane 2; m1 has lanes 1 and 2, m2 lane 2. -/
def lanes0 : State := at_ { idle with vreg := ⟨[(1, ⟨[(0, 0x40000000), (1, 0x40000000), (2, 0x7FC00000)]⟩)]⟩, mreg := ⟨[(1, 6), (2, 4)]⟩ } .v

theorem witness_VectorReductions :
    let takes (m : BitVec 3) (l : Nat) : Prop := l < 256 ∧ (lanes0.mask m).getLsbD l = true ∧ (f32 ((lanes0.vec 1).lane l)).isNan = false
    (takes 1 1 ∧ ∀ k, takes 1 k → k = 1) ∧ ∀ l, ¬takes 2 l := by
  have h1 : ∀ l, l < 256 → ((lanes0.mask 1).getLsbD l && !(f32 ((lanes0.vec 1).lane l)).isNan) = decide (l = 1) := by decide +kernel
  have h2 : ∀ l, l < 256 → ((lanes0.mask 2).getLsbD l && !(f32 ((lanes0.vec 1).lane l)).isNan) = false := by decide +kernel
  exact ⟨⟨by decide +kernel, fun k h => by have := h1 k h.1; rw [h.2.1, h.2.2] at this; simpa using this⟩,
    fun l h => by have := h2 l h.1; rw [h.2.1, h.2.2] at this; cases this⟩

theorem witness_VectorScansAndSort : phys 1 (st .v).me.rrb ≠ phys 2 (st .v).me.rrb ∧
    phys (1#5).toNat (st .v).me.rrb = phys (1#5).toNat (st .v).me.rrb := by decide +kernel

/-- ADDI s1, s0, 7 placed after n foreign words. -/
def fetch0 (n : Nat) : State :=
  { (st .s) with imem := ⟨(List.range n).map (fun k => (k, 0x22000000#32)) ++ [(n, 0x01080007#32)]⟩, phase := .seq 0 .s }

theorem test_step_passes_foreign_words :
    (match step (fetch0 7) with
      | .next t => (t.sval 1, t.q.pc, t.q.wc)
      | _ => (0, 0, 0)) = (7, 8, 1) := by decide +kernel

theorem test_step_first_after_reset :
    (match step (State.reset.withFetchWord 32 0x01080007) with
      | .next t => (t.sval 1, t.q.pc)
      | _ => (0, 0)) = (7, 1) := by decide +kernel

theorem witness_StepRunsDecodedInstruction :
    let s := fetch0 7
    let u : State := { begun s with phase := phaseAfter (begun s) 0 .s, curCore := 0, curEng := .s, defer := false }
    let v : State := { (u.notePc u.q.pc).notePc 7 with word := wordAt s 0 7 }
    s.sched = [] ∧ s.phase = .seq 0 .s ∧ canIssue s 0 .s = true ∧ deliverDue u = none ∧ u.q.pc ≤ 7 ∧ 7 < u.q.pc + 8 ∧ 7 < textLimit s 0 ∧
    takes s 0 .s (wordAt s 0 7) = true ∧ (∀ a, a < 7 → takes s 0 .s (wordAt s 0 a) = false) ∧ textBusy u u.q.pc 8 = false ∧
    (decode (wordAt s 0 7)).toOption = some (.addi 1 0 7) ∧ u.q.pfx = [] ∧ rteStop v = false ∧ reservedHere v = false ∧
    interlocked v 0 .s v.word = false := by decide +kernel

theorem witness_StepRunsDecodedInstruction_scheduled :
    let s := { fetch0 0 with sched := [.seq 0 .s true] }
    let u : State := { begun s with sched := [], curCore := 0, curEng := .s, defer := true }
    let v : State := { (u.notePc u.q.pc).notePc 0 with word := wordAt s 0 0 }
    canIssue s 0 .s = true ∧ deliverDue u = none ∧ takes s 0 .s (wordAt s 0 0) = true ∧ textBusy u u.q.pc 1 = false ∧
    (decode (wordAt s 0 0)).toOption = some (.addi 1 0 7) ∧ u.q.pfx = [] ∧ rteStop v = false ∧ reservedHere v = false ∧
    interlocked v 0 .s v.word = false := by decide +kernel

/-- Eight foreign words for S, and S one word before the end of the text. -/
def foreign0 : State := { (st .s) with imem := ⟨(List.range 8).map (fun k => (k, 0x22000000#32))⟩ }
def lastWord : State := { (seqAt { pc := 65535 } .s) with imem := ⟨[(65535, 0x22000000#32)]⟩, word := 0x00000200 }

theorem witness_WordsThatAreNoInstruction :
    (∀ a, a < 8 → a < textLimit foreign0 0 ∧ takes foreign0 0 .s (wordAt foreign0 0 a) = false) ∧
    textLimit lastWord 0 ≤ 65536 ∧ 65535 < textLimit lastWord 0 ∧ takes lastWord 0 .s (wordAt lastWord 0 65535) = false ∧
    rteStop { lastWord with word := 0x000001FF } = false ∧ (decode 0x000001FF).toOption = none ∧
    reservedHere { lastWord with word := 0x000001FF } = false := by decide +kernel

theorem witness_StepKeepsMemoryCanonical : Memory.wf (fetch0 0).mem = true ∧ (match step (fetch0 0) with
    | .next _ => true
    | _ => false) = true := by decide +kernel

/-- Own-scratchpad bytes of core 0 in the partition of `inst0`. -/
theorem own_of {s : State} {a n : Nat} (hc : s.curCore = 0) (hi : s.me.inst = some inst0) (ha : a + n ≤ 0x20000) :
    OwnAt s a n (0x100000000 + a) :=
  ⟨by omega, inst0, hi, ha, by decide, by rw [hc]; show _ = spLoc 0 (0 * 0x10000 + a); unfold spLoc spBase; omega⟩

theorem witness_CommonWords :
    let s := st .s
    let agrees (s : State) (a : Nat) : Bool := s.me.cwRec[s.q.cc.toNat - s.me.cwBase]? = some a && a ≠ s.q.pc
    let ahead := at_ { idle with seqs := ⟨[(0, { cc := 4 })]⟩, cwRec := [0, 1, 2, 3] } .s
    let behind := at_ { idle with cwRec := [7] } .s
    (s.me.mode = .run ∧ s.q.cc.toNat + 1 < 2 ^ 32 ∧ s.me.stopReq = none ∧ s.me.cancel = none ∧ s.q.ended = false ∧
      s.me.cwRec[s.q.cc.toNat - s.me.cwBase]? = none ∧ slipOk s.me 0 .s = true) ∧
    (slipOk ahead.me 0 .s = false ∧ ahead.me.cwRec[ahead.q.cc.toNat - ahead.me.cwBase]? = none) ∧ agrees behind 7 = true ∧
    (let q : SeqState := { cc := 1, unpassed := [0] }
     let t := seqAt q .s
     (t.core 0).seqs.get {} 0 = q ∧ heldBefore t 0 .s 0 = false ∧
       heldBefore { t with accs := [{ id := 0, n := 0, eng := 0, cls := 3, eff := .counter 0 true 1 }] } 0 .s 1 = true) := by
  decide +kernel

/-- Core 0 with posts pending on event 3. -/
def posts0 (l : List Post) (e : Eng) : State := at_ { idle with events := ⟨[(3, l)]⟩ } e

/-- S of core 0 waits. -/
def waits0 (k : WaitKind) : State := seqAt { wait := some ⟨k, 0, 0⟩ } .s

theorem witness_Posts : (st .v).me.mode ≠ .handler ∧ ((posts0 (List.replicate 7 {}) .v).me.fifo 3).length < 8 ∧
    queuedBefore (posts0 (List.replicate 7 {}) .v) (WaitKind.posts 3) = false ∧ 8 ≤ ((posts0 (List.replicate 8 {}) .v).me.fifo 3).length ∧
    queuedBefore { waits0 (.post 3) with curEng := .v, order := 1 } (WaitKind.posts 3) = true := by decide +kernel

theorem witness_Awaits : (posts0 [{ value := 9 }] .s).me.fifo 3 = { value := 9 } :: [] ∧
    queuedBefore (posts0 [{ value := 9 }] .s) (WaitKind.takes 3) = false ∧
    ({ value := 9 : Post }).rel.any (pendingAt (posts0 [{ value := 9 }] .s) true) = false ∧ (st .s).me.fifo 3 = [] ∧ (st .s).q.wait = none ∧
    (((withS 0 1).sval 1).extractLsb' 0 32 : Word) = 0 ∧ (((withS 0 1).sval 2).extractLsb' 0 32 : Word) ≠ 0 ∧
    ({ waits0 (.tawait 3 0) with cycle := 1 }).q.wait = some ⟨.tawait 3 0, 0, 0⟩ ∧ 0 < ({ waits0 (.tawait 3 0) with cycle := 1 }).cycle := by
  decide +kernel

/-- A waiting S of core 0 and its word. -/
def wakes0 (k : WaitKind) (i : Instr) (c : Core → Core) : State :=
  { at_ (c { idle with seqs := ⟨[(0, { wait := some ⟨k, 0, 0⟩ })]⟩ }) .s with imem := ⟨[(0, (encode i).getD 0)]⟩ }

theorem witness_WakesRunTheWaitingWord :
    let ready (s : State) (i : Instr) : Prop := canIssue s 0 .s = true ∧ ((s.core 0).seq .s).wait.isSome = true ∧
      (decode (wordAt s 0 ((s.core 0).seq .s).pc)).toOption = some i
    (ready (wakes0 .slip .nopc id) .nopc ∧ slipOk ((wakes0 .slip .nopc id).core 0) 0 .s = true) ∧
    (ready (wakes0 (.await 3) (.await 3) id) (.await 3) ∧ (WaitKind.await 3).isAwait = true) ∧
    (ready (wakes0 (.ring 5 false) (.awaitf 1 5) id) (.awaitf 1 5) ∧ (WaitKind.ring 5 false).isRing = true) ∧
    ready (wakes0 (.counter 0) (.ctwait 1 1 2) id) (.ctwait 1 1 2) ∧
    (let s := wakes0 .wfi .wfi (fun c => { c with events := ⟨[(3, [{}])]⟩ })
     ready s .wfi ∧ wakes s 0 = true ∧ 0 ∈ s.cores.keys) ∧
    (let s := wakes0 (.tawait 3 0) (.tawait 1 3) id
     ready s (.tawait 1 3) ∧ 0 ≤ s.cycle ∧ (s.core 0).fifo 3 = []) := by decide +kernel

/-- Ring 5 of core 0, with four slots of 128 bytes at offset 256, the first of which is as given. -/
def ring0 (j : Slot) : Ring := { valid := true, base := 256, size := 128, count := 4, slots := ⟨[(0, j)]⟩ }
def withRing (r : Ring) (x : W64) : State := at_ { idle with rings := ⟨[(5, r)]⟩, sreg := ⟨[(1, x)]⟩ } .s

/-- Own-scratchpad bytes from offset 0 of core 0, and s1. -/
def withBytes (bs : List Byte) (x : W64) : State :=
  { at_ { idle with sreg := ⟨[(1, x)]⟩ } .s with mem := ⟨(locate 0x100000000 bs).filter (fun e => e.2 ≠ 0)⟩ }

theorem unhindered_of {s : State} (h : (s.defer, s.accs, s.fabric.sends, s.fabric.bulks, s.me.copies, s.me.bmvs, s.me.replay, s.me.detmode,
    slipHeld s (fun _ => true)) = (false, [], [], [], [], [], [], false, false)) : Unhindered s := by simpa [Unhindered] using h

theorem witness_RingWords :
    let slot (j : Slot) : Slot := let x := (withRing (ring0 j) 0).me.rings.get {} 5; x.slot x.rd
    (((st .s).me.rings.get {} 5).valid = false ∧ (slot { tag := 2 }).tag = 2 ∧
      queuedBefore (withRing (ring0 { tag := 2 }) 0) (WaitKind.onRing 5 false) = false ∧
      ((slot { tag := 3 }).tag = 3 ∧ (slot { tag := 3 }).owner = Eng.s.tag) ∧ ((slot { tag := 3, owner := 1 }).tag ≠ 2) ∧ (slot {}).tag ≠ 3) ∧
    (let x := (withRing (ring0 {}) 128).me.rings.get {} 5
     ((withRing (ring0 {}) 129).sval 1).toNat > x.size ∧ ((withRing (ring0 {}) 128).sval 1).toNat ≤ x.size ∧ (x.slot x.cl).tag = 0 ∧
      ((withRing (ring0 { tag := 1 }) 128).me.rings.get {} 5).fabric = false ∧ x.rd < 4096 ∧ x.cl < 4096) := by decide +kernel

/-- A ring record: base, slot size, slot count. -/
def record0 (size count : Nat) : List Byte := leBytes 8 256 ++ leBytes 4 size ++ leBytes 4 count ++ leBytes 4 1 ++ leBytes 12 0

theorem witness_RingWords_init : Unhindered (withBytes (record0 128 4) 0) ∧ OwnAt (withBytes (record0 128 4) 0) 0 32 0x100000000 ∧
    Clean (withBytes (record0 128 4) 0) 0x100000000 32 ∧ Holds (withBytes (record0 128 4) 0) 0 0x100000000 (record0 128 4) ∧
    Holds (withBytes (record0 128 0) 0) 0 0x100000000 (record0 128 0) ∧ Holds (withBytes (record0 100 4) 0) 0 0x100000000 (record0 100 4) ∧
    256 + 4 * 128 ≤ ownBytes (withBytes (record0 128 4) 0) ∧ tagsUsed (withBytes (record0 128 4) 0).me 5 + 4 ≤ 65536 ∧
    ((withRing (ring0 { tag := 1 }) 0).me.rings.get {} 5).slots.entries.any (fun e => e.2.tag = 1 ∨ e.2.tag = 3) = true := by
  refine ⟨unhindered_of rfl, own_of rfl rfl (by decide), ?_, ?_, ?_, ?_, ?_⟩ <;>
    first | (unfold Clean; decide +kernel) | (unfold Holds; decide +kernel) | decide +kernel

/-- Context 0: counters 8 to 11, barriers 4 and 5. s1 names one, s2 is a value. -/
def counts0 (x y : W64) : State :=
  { withS x y with plinth := { ctxTab := ⟨[(0x0E, 8), (0x10, 4), (0x12, 4), (0x13, 2)]⟩ }, tasks := { counters := ⟨[(11, 7)]⟩ } }

theorem witness_Counters :
    let s := counts0 3 7
    let far := counts0 3 (7 + 2 ^ 63)
    (s.me.mode ≠ .handler ∧ (s.sval 1).toNat < ctxField s 0 0x10 2 ∧ 11 = ctxField s 0 0x0E 2 + (s.sval 1).toNat ∧
      released s 0 .s = true ∧ classBusy s noClass = false ∧ (s.counter 11 - s.sval 2).toNat < 2 ^ 63 ∧
      2 ^ 63 ≤ (far.counter 11 - far.sval 2).toNat) ∧ ¬((counts0 4 0).sval 1).toNat < ctxField (counts0 4 0) 0 0x10 2 ∧
    released { s with accs := [{ id := 0, n := 0, eng := 0, cls := 3, eff := .counter 0 true 1 }] } 0 .s = false := by decide +kernel

/-- Barrier 5 as given, and the arrival that S waits on. -/
def barriers0 (u : Barrier) (w : Option (Nat × Nat × Bool)) : State :=
  let s := counts0 1 2
  { s with tasks := { barriers := ⟨[(5, u)]⟩ }, cores := ⟨[(0, { s.me with inst := some { inst0 with
    barw := w.toList.map (fun x => ⟨s.q.pc, x.1, x.2.1, x.2.2⟩) } })]⟩ }

theorem witness_Barriers :
    let names (s : State) : Prop := (s.sval 1).toNat < ctxField s 0 0x13 1 ∧ 5 = ctxField s 0 0x12 1 + (s.sval 1).toNat
    let ready (s : State) : Prop := names s ∧ (∀ x ∈ s.barw, x.1 ≠ 5) ∧ released s 0 .s = true ∧ classBusy s noClass = false
    (ready (barriers0 {} none) ∧ ((barriers0 {} none).barrier 5).fills = []) ∧
    (ready (barriers0 { fills := [(2, 2), (2, 1)] } none) ∧
      ((barriers0 { fills := [(2, 2), (2, 1)] } none).barrier 5).fills = [(2, 2)] ++ (2, 1) :: [] ∧ 1 < 2 ∧ 2 ≤ 2) ∧
    (ready (barriers0 { fills := [(1, 1), (1, 1)] } none) ∧ ∀ p ∈ ((barriers0 { fills := [(1, 1), (1, 1)] } none).barrier 5).fills, p.1 ≤ p.2) ∧
    ready (barriers0 {} (some (4, 0, true))) ∧
    (names (barriers0 { gen := 1 } (some (5, 0, true))) ∧ (barriers0 { gen := 1 } (some (5, 0, true))).barw = some (5, 0, true) ∧ 0 < ((barriers0 { gen := 1 } (some (5, 0, true))).barrier 5).gen) ∧
    (names (barriers0 { fills := [(2, 1)] } (some (5, 0, false)))) ∧
    ((barriers0 { fills := [(2, 2)] } none).barrier 5).fills = (2, 2) :: [] := by
  decide +kernel

/-- A page of main memory at its own address, readable, writable or neither, under key slot 5. -/
def page0 (r w : Bool) : TlbEnt := { ctx := 0, va := 0x10000000000, bits := 21, pa := 2 ^ 43, r := r, w := w, x := false, layout := 0, key := 5 }

/-- s1 addresses that page, of which the first byte is 9. -/
def withPage (r w : Bool) : State :=
  { at_ { idle with sreg := ⟨[(1, 0x10000000000), (2, 7)]⟩, tlb := [page0 r w] } .s with
    plinth := { keyVal := ⟨[(5, true)]⟩ }, mem := ⟨[(2 ^ 60, 9), (2 ^ 60 + 1, 0), (2 ^ 60 + 2, 0), (2 ^ 60 + 3, 0)]⟩
    lineKey := ⟨[(2 ^ 53, 6)]⟩ }

theorem witness_ScalarLoads :
    let at1 (s : State) (n : Nat) : Nat := (s.sval 1 + BitVec.ofNat 64 (0 * n)).toNat
    (at1 (withS 1 0) 2 % 2 ≠ 0 ∧ at1 (withS 0x300000000 0) 8 = 0x300000000 ∧ at1 (withS 0x3FFFFFFF8 0) 8 < 0x400000000 ∧
      at1 (withS 0x20000 0) 1 + 1 ≤ 0x400000 ∧ inst0.units * 0x10000 < at1 (withS 0x20000 0) 1 + 1 ∧ at1 (withS 0x1FFFF 0) 1 = 0x1FFFF) ∧
    (Unhindered (withS 0 0) ∧ OwnAt (withS 0x1FFF8 0) 0x1FFF8 8 0x10001FFF8 ∧ Clean (withS 0x1FFF8 0) 0x10001FFF8 8 ∧
      Holds (withBytes [5] 0) 0 0x100000000 (leBytes 8 5) ∧ ({ withS 0 0 with poison := ⟨[(0x2000000, true)]⟩ }).poison.get false (0x100000000 / 128) = true) ∧
    (let s := withPage true false
     Unhindered s ∧ s.me.tlb.find? (fun t => t.hits s.ctxNow 0x10000000000) = some (page0 true false) ∧
      (page0 true false).place s 0x10000000000 = (2 ^ 60, 5) ∧ Clean s (2 ^ 60) 4 ∧ Holds s 5 (2 ^ 60) (leBytes 4 9) ∧
      (withPage false false).me.tlb.find? (fun t => t.hits s.ctxNow 0x10000000000) = some (page0 false false)) := by
  refine ⟨by decide +kernel, ⟨unhindered_of rfl, own_of rfl rfl (by decide), ?_, ?_, by decide +kernel⟩,
    unhindered_of rfl, by decide +kernel, by decide +kernel, ?_, ?_, by decide +kernel⟩ <;>
    first | (unfold Clean; decide +kernel) | (unfold Holds; decide +kernel)

theorem witness_ScalarStores :
    let s := withPage false true
    Unhindered s ∧ s.curEng = .s ∧ s.me.tlb.find? (fun t => t.hits s.ctxNow 0x10000000000) = some (page0 false true) ∧
    (page0 false true).place s 0x10000000000 = (2 ^ 60, 5) ∧ 5 ≠ deadKey ∧ mainBase ≤ 2 ^ 60 ∧ s.lineKey.get 0 (2 ^ 60 / 128) = 6 ∧
    (withPage false false).me.tlb.find? (fun t => t.hits s.ctxNow 0x10000000000) = some (page0 false false) ∧
    OwnAt (withS 0x1FFFF 0) 0x1FFFF 1 0x10001FFFF := by
  exact ⟨unhindered_of rfl, rfl, by decide +kernel, by decide +kernel, by decide, by decide, by decide +kernel,
    by decide +kernel, own_of rfl rfl (by decide)⟩

/-- g1 of V is x and g2 is y; lanes 0 and 255 are on in m1. -/
def vecMem (x y : W64) : State := at_ { idle with greg := ⟨[(17, x), (18, y)]⟩, mreg := ⟨[(1, 1 + 2 ^ 255)]⟩ } .v

theorem witness_VectorMemory :
    let s := vecMem 0x100 4
    let on (l : Nat) : Bool := (s.mask 1).getLsbD l
    let str (l : Nat) : Nat := (s.gval 1 + BitVec.ofNat 64 l * s.gval 2).toNat
    s.curEng = .v ∧ s.curCore < 128 ∧ Unhindered s ∧ (s.gval 1 + BitVec.ofNat 64 (128 * 0)).toNat % 128 = 0 ∧
    ((vecMem 0x104 4).gval 1).toNat % 128 ≠ 0 ∧ (∀ l, l < 256 → on l = true → OwnAt s (str l) 4 (0x100000000 + str l)) ∧
    (∀ l, l < 256 → on l = true → str l % 4 = 0 ∧ Clean s (0x100000000 + str l) 4) ∧
    (((vecMem 2 4).mask 1).getLsbD 255 = true ∧ ((vecMem 2 4).gval 1 + BitVec.ofNat 64 255 * (vecMem 2 4).gval 2).toNat % 4 ≠ 0) := by
  refine ⟨rfl, by decide, unhindered_of rfl, by decide +kernel, by decide +kernel, fun l hl _ => own_of rfl rfl ?_, ?_,
    by decide +kernel⟩
  · have h : ∀ l, l < 256 → ((vecMem 0x100 4).gval 1 + BitVec.ofNat 64 l * (vecMem 0x100 4).gval 2).toNat + 4 ≤ 0x20000 := by decide +kernel
    exact h l hl
  · unfold Clean; decide +kernel

/-- An own store of class 3, and what it becomes. -/
def store0 (atCore : Bool) : Access := { id := 0, n := 0, eng := 0, cls := 3, atCore := atCore, eff := .write 0 [(0x100000000, 7)] }
def withAccs (l : List Access) : State := { (st .s) with accs := l, nextId := 4 }

/-- The service core. -/
def service (c : Core) : State := { State.reset with cores := ⟨[(128, c)]⟩, curCore := 128 }

theorem witness_FencesAndTranslations :
    let i : Tlbi := { id := 2, core := 128, kind := 0, ctx := 0, va := 0x10000000000 }
    ((st .s).me.mode ≠ .handler ∧ (st .s).q.wait = none ∧ (st .s).q.acq = []) ∧
    ((withAccs [store0 false]).me.replay = [] ∧ (1#16).getLsbD 3 = false ∧ (8#16).getLsbD 3 = true ∧ 0 < (withAccs [store0 false]).nextId) ∧
    ((st .s).me.priv 0 = false ∧ (service {}).me.priv 128 = true ∧ ((service {}).sval 1).toNat < 64 ∧
      ((service {}).tlbis = [] ∧ ({ service {} with tlbis := [i] }).tlbis.find? (fun x => x.id = 2) = some i)) ∧
    ((st .s).me.tlb.find? (fun t => t.hits 0 0x10000000000) = none ∧ (st .s).shared.find? (fun t => t.hits 0 0x10000000000) = none) ∧
    usedLocs { service {} with tlbis := [i] } = [] := by decide +kernel

theorem witness_FencesAndTranslations_unhindered : Unhindered (st .s) ∧ Unhindered (service {}) := ⟨unhindered_of rfl, unhindered_of rfl⟩

theorem witness_AccessesArePerformed :
    let add : Access := { id := 0, n := 0, eng := 0, cls := 3, eff := .counter 5 true 1 }
    let load : Access := { id := 0, n := 0, eng := 0, cls := 3, eff := .read (.sreg 1 8 true) ((List.range 8).map (fun k => (0x100000000 + k, 0))) }
    ((withAccs [add]).accs.find? (fun x => x.id = 0) = some add ∧ precededBy (withAccs [add]) add false = false) ∧
    (precededBy (withAccs [store0 false]) (store0 false) true = false ∧ precededBy (withAccs [store0 true]) (store0 true) false = false ∧
      isMain 0x100000000 = false ∧ precededBy (withAccs [load]) load true = false) ∧
    precededBy (withAccs [store0 false, { load with id := 1 }]) { load with id := 1 } true = true := by decide +kernel

theorem witness_SystemRegisters : (st .s).me.priv (st .s).curCore = false ∧ (service {}).me.priv (service {}).curCore = true ∧
    (service {}).curCore = 128 ∧ (0x7FF#12).toNat = 2047 := by decide +kernel

/-- A core whose handler takes every cause. -/
def trapping : Core := { idle with trapVec := 0xFFFFFFFF, trapBase := 0x080 }

theorem witness_TakingATrap :
    let s := at_ trapping .s
    (s.core 0).mode = .run ∧ (s.core 0).stopReq = none ∧ (s.core 0).trapVec.getLsbD (0x1F % 32) = true ∧ provisional s 0 = none ∧
    drained s 0 = true ∧ drained { s with accs := [store0 false] } 0 = false ∧
    (at_ { trapping with trapPend := some ⟨5, 1, 0, false⟩ } .s).me.trapPend = some ⟨5, 1, Eng.s.tag, false⟩ ∧
    ((st .v).me.seqs.get {} 0).pfx = [] := by decide +kernel

/-- A core in its handler, with M at the pc of S in RTE or not. -/
def handling (m : SeqState) : Core := { idle with mode := .handler, hseqs := ⟨[(0, { pc := 4 }), (2, m)]⟩, trapPc := ⟨[(0, (9, 1))]⟩ }

theorem witness_LimitsRaiseTraps :
    let late (s : State) : State := { s with cycle := 65536 }
    ((late (at_ (handling {}) .s)).me.mode = .handler ∧ (late (at_ (handling {}) .s)).me.trapPend = none ∧
      (late (at_ (handling {}) .s)).me.handlerSince + 65536 ≤ (late (at_ (handling {}) .s)).cycle) ∧
    (let s := late (waits0 (.await 63))
     canIssue s 0 .s = true ∧ s.me.mode ≠ .handler ∧ s.me.seq .s = { wait := some ⟨.await 63, 0, 0⟩ } ∧ 0 + s.me.wdog ≤ s.cycle) ∧
    (let s := { waits0 .slip with cycle := 0x7FFF }
     canIssue s 0 .s = true ∧ s.cycle < 0 + s.me.wdog) ∧
    (let s := at_ { idle with spdist := 0x10000 } .s
     s.me.active = true ∧ s.me.inst.isSome = true ∧ s.me.trapPend = none ∧ s.me.abandon = none ∧ (s.me.seqs.get {} 0).ended = false ∧
      s.me.leader = some .s ∧ s.me.spdmax ≤ s.me.spdist ∧ (st .s).me.spdist < (st .s).me.spdmax) := by decide +kernel

theorem witness_SystemInstructions :
    let m : SeqState := { pc := 4, wait := some ⟨.rte, 0, 0⟩ }
    ((posts0 [{}] .s).me.events.entries.any (fun e => decide (e.2 ≠ [])) = true ∧ (st .s).me.events.entries = [] ∧ (st .s).me.stopReq = none) ∧
    ((service {}).plinth.intPend &&& (service {}).plinth.intEn = 0 ∧
      ({ service {} with plinth := { intPend := 1, intEn := 1 } }).plinth.intPend &&& 1#8 ≠ 0 ∧ (service {}).me.fwHandler = false) ∧
    ((st .s).me.mode = .run ∧ (at_ (handling m) .s).me.mode = .handler ∧ ((at_ (handling m) .s).me.seq .m).pc = ((at_ (handling m) .s).me.seq .s).pc ∧
      ((at_ (handling m) .s).me.seq .m).wait.any (fun w => w.kind = .rte) = true ∧ (handling m).modeFrom ≠ .stub ∧
      ((at_ (handling {}) .s).me.seq .m).wait = none) := by decide +kernel

theorem cleanArea_of {s : State} {base : Nat} {offs : List Nat} (hc : s.curCore = 0) (hi : s.me.inst = some inst0) (hp : s.poison = {})
    (h : offs.all (fun o => decide (base + o + 1 ≤ 0x20000)) = true) : CleanArea s base offs (0x100000000 + base) := by
  refine ⟨fun o ho => ?_, fun o _ k _ => by rw [hp]; rfl⟩
  have := own_of hc hi (of_decide_eq_true (List.all_eq_true.1 h o ho))
  rwa [← Nat.add_assoc] at this

/-- A core whose tile 1 is absent and whose tile 2 another context holds active. -/
def tiles0 (l : List W64) : State :=
  at_ { idle with stack := ⟨[(2, l)]⟩, tileAbs := 2, tileSt := ⟨[(2, .active)]⟩, tileOwner := ⟨[(2, 5)]⟩ } .m

theorem witness_TileArithmetic : MayTouch (tiles0 [1]) [0, 3] ∧ (tiles0 [1]).stk = 1 :: [] ∧ (2 ^ 32 - 1 : W64).toNat < 2 ^ 32 ∧
    2 ^ 32 ≤ (2 ^ 32 : W64).toNat ∧ (tiles0 []).stk = [] ∧ ¬MayTouch (tiles0 []) [1] ∧ ¬MayTouch (tiles0 []) [2] ∧ MayTouch (tiles0 []) [0] := by
  unfold MayTouch; decide +kernel

/-- The offsets of 32 rows of 128 bytes, and of an operand image. -/
def rows0 (st span : Nat) : List Nat := (List.range 32).flatMap (fun i => (List.range 128).map (fun b => swz (i * st + b) span))

theorem witness_TileLoadsAndStores :
    let s := tiles0 [0x1000, 0x3000, 3]
    (Unhindered s ∧ s.stk = 0x1000 :: 0x3000 :: 3 :: [] ∧ CleanArea s 0x1000 ((List.range 2048).map (swz · 3)) 0x100001000 ∧
      CleanArea s 0x3000 (List.range 128) 0x100003000) ∧
    (let w : W64 := 0x01000007
     (tiles0 [0x1000, w]).stk = 0x1000 :: w :: [] ∧ w.toNat < 2 ^ 32 ∧ w.toNat / 2 ^ 8 % 2 ^ 8 = 0 ∧ w.toNat / 8 % 2 = 0 ∧ 128 ≤ w.toNat / 2 ^ 16 ∧
      CleanArea (tiles0 [0x1000, w]) 0x1000 (rows0 256 7) 0x100001000) ∧
    ((tiles0 [0x1000]).stk = 0x1000 :: [] ∧ CleanArea (tiles0 [0x1000]) 0x1000 (List.range 64) 0x100001000) := by
  exact ⟨⟨unhindered_of rfl, by decide +kernel, cleanArea_of rfl rfl rfl (by decide +kernel), cleanArea_of rfl rfl rfl (by decide +kernel)⟩,
    ⟨by decide +kernel, by decide, by decide, by decide, by decide, cleanArea_of rfl rfl rfl (by decide +kernel)⟩, by decide +kernel,
    cleanArea_of rfl rfl rfl (by decide +kernel)⟩

theorem witness_MultiplyAccumulate :
    let s := tiles0 [0x1000, 0x3000, 0]
    let offs (len : Nat) : List Nat := (List.range 32).flatMap (fun i => (List.range len).map (fun x => swz (i * len + x) 0))
    (s.stk = 0x1000 :: 0x3000 :: 0 :: [] ∧ MayTouch s [3, 4] ∧ Unhindered s) ∧
    ((resolvePair s 2 2).toOption = some (2, 2) ∧ pairK 2 2 = 128 ∧ CleanArea s 0x1000 (offs (128 * mxWidth 2 / 8)) 0x100001000 ∧
      CleanArea s 0x3000 (List.range (32 * (128 / 32))) 0x100003000) ∧
    ((resolvePair s 5 5).toOption = some (5, 5) ∧ CleanArea s 0x1000 (offs (16 * mxWidth 5 / 8)) 0x100001000) ∧
    ((resolvePair s 3 4).toOption = some (3, 4) ∧ 2 < 3 ∧ (tiles0 [0x1000, 0x3000, 8]).stk = 0x1000 :: 0x3000 :: 8 :: [] ∧ (8 : W64).toNat / 8 % 2 = 1) ∧
    ((s.me.seqs.get {} 2).iter.toNat % 16 = 0 ∧ (s.me.fmtTab.get 0 0).getLsbD 31 = false) := by
  refine ⟨⟨by decide +kernel, ?_, unhindered_of rfl⟩, ⟨by decide +kernel, by decide, cleanArea_of rfl rfl rfl (by decide +kernel),
    cleanArea_of rfl rfl rfl (by decide +kernel)⟩, ⟨by decide +kernel, cleanArea_of rfl rfl rfl (by decide +kernel)⟩, by decide +kernel,
    by decide +kernel⟩
  unfold MayTouch; decide +kernel

theorem witness_OutliersAndDrain :
    let s := tiles0 [0x1000, 1, 0]
    let wide := tiles0 [0x1000, 257]
    let drain := tiles0 [0x1000, 0x3000, 0]
    let offs (len : Nat) : List Nat := (List.range 32).flatMap (fun i => (List.range len).map (fun x => swz (i * len + x) 0))
    (s.stk = 0x1000 :: 1 :: [0] ∧ Unhindered s ∧ (resolvePair s 0 0).toOption = some (0, 0) ∧ CleanArea s 0x1000 (List.range 4) 0x100001000 ∧
      (∀ e ∈ (List.range 1).map (fun i => readNat s 0 (0x100001000 + 4 * i) 4), e / 2 ^ 28 = 0 ∧ e / 2 ^ 16 % 2 ^ 7 < pairK 0 0)) ∧
    (wide.stk = 0x1000 :: 257 :: [] ∧ 256 < (257 : W64).toNat) ∧
    (drain.stk = 0x1000 :: 0x3000 :: 0 :: [] ∧ AreaAt drain 0x1000 (offs 128) 0x100001000 ∧ AreaAt drain 0x1000 (offs 64) 0x100001000 ∧
      AreaAt drain 0x1000 (offs (4 * mxWidth 4)) 0x100001000 ∧ AreaAt drain 0x3000 (List.range 32) 0x100003000 ∧
      ∀ x ∈ offs (4 * mxWidth 4), ∀ y, y < 32 → 0x100001000 + x ≠ 0x100003000 + y) := by
  refine ⟨⟨by decide +kernel, unhindered_of rfl, by decide +kernel, cleanArea_of rfl rfl rfl (by decide +kernel), by decide +kernel⟩,
    by decide +kernel, by decide +kernel, (cleanArea_of rfl rfl rfl (by decide +kernel)).1, (cleanArea_of rfl rfl rfl (by decide +kernel)).1,
    (cleanArea_of rfl rfl rfl (by decide +kernel)).1, (cleanArea_of rfl rfl rfl (by decide +kernel)).1, fun x hx y _ => ?_⟩
  have h : ((List.range 32).flatMap (fun i => (List.range (4 * mxWidth 4)).map (fun x => swz (i * (4 * mxWidth 4) + x) 0))).all
      (fun x => decide (x < 0x2000)) = true := by decide +kernel
  have := of_decide_eq_true (List.all_eq_true.1 h x hx)
  omega

/-- Privileged code on M of core 0: its handler. -/
def privileged0 (l : List W64) (c : Core) : State := at_ { c with mode := .handler, hstack := l } .m

theorem witness_TileTransfers :
    let s := privileged0 [0x3FF000] idle
    let r := privileged0 [0x1000, 63 + 64 * 2] idle
    ((st .m).me.priv 0 = false ∧ s.me.priv s.curCore = true ∧ s.curCore ≤ 128 ∧ s.stk = 0x3FF000 :: [] ∧ s.me.tfull = false ∧
      (0x3FF000 : W64).toNat + 4096 ≤ 0x400000) ∧
    (r.stk = 0x1000 :: BitVec.ofNat 64 (63 + 64 * 2) :: [] ∧ Clean r (spLoc 0 0x1000) 4096) ∧
    (({} : Core).inst = none ∧ ({} : Core).tbusy = false ∧ ({} : Core).tfull = false ∧ ({ ctile := 0x4000 : Core }).ctile.extractLsb' 14 2 = 1#2 ∧
      (idle.inst.isSome = true) ∧ ({ tbusy := true, ctile := 0x10 : Core }).ctile.getLsbD 4 = true) := by
  refine ⟨by decide +kernel, ⟨by decide +kernel, fun k _ => rfl⟩, by decide +kernel⟩

/-- M of core 0 with a matrix of two rows of FP8 on a page in layout 2, x at 0x1000, and ring 1 with a slot that fills at 0x2000. -/
def bank0 : State :=
  let page : TlbEnt := { page0 true false with layout := 2, bits := 16 }
  let ring : Ring := { valid := true, base := 0x2000, size := 128, count := 1, slots := ⟨[(0, { tag := 1, x := 8 })]⟩ }
  at_ { idle with tlb := [page], rings := ⟨[(1, ring)]⟩, stack := ⟨[(2, [0x10000000000, 2, 32, 3, 0x1000, 0x1002000])]⟩ } .m

theorem witness_BankProducts :
    let s := bank0
    let ent : TlbEnt := { page0 true false with layout := 2, bits := 16 }
    let o : BmvOp := { id := 3, owner := (1, 1), fmt := 3, cols := 32, stride := 128, perPage := 512, pages := [(2 ^ 60, 5)], xs := List.replicate 32 0
                       rows := [1], dest := 0x100002000, count := ⟨0, 1, 0, 1, 1⟩ }
    let t := at_ { s.me with bmvs := [o] } .m
    (s.stk = 0x10000000000 :: 2 :: 32 :: 3 :: 0x1000 :: 0x1002000 :: [] ∧ s.me.tlb.find? (fun t => t.hits s.ctxNow 0x10000000000) = some ent ∧
      (0x10000000000 : W64).toNat % 2 ^ ent.bits = 0 ∧ 2 * ((32 * mxWidth 3 / 8 + 32 / 32 + 127) / 128 * 128) ≤ 2 ^ ent.bits ∧
      (s.me.rings.get {} 1).filling 0x2000 8 = some 0) ∧
    (Unhindered s ∧ OwnAt s 0x1000 64 0x100001000 ∧ Clean s 0x100001000 64 ∧ OwnAt s 0x2000 8 0x100002000) ∧
    ((t.core 0).bmvs = [o] ∧ 1 ∈ o.rows ∧ isMain (o.dest + 4 * 1 + 3) = false ∧ (t.core 0).owner = (1, 1) ∧
      (((t.core 0).rings.get {} 1).slot 0).tag = 1 ∧ (((t.core 0).rings.get {} 1).slot 0).a + 4 ≤ 8 ∧ countHeld t (some o.count) = false) := by
  exact ⟨by decide +kernel, ⟨unhindered_of rfl, own_of rfl rfl (by decide), fun k _ => rfl, own_of rfl rfl (by decide)⟩, by decide +kernel⟩

/-- C of core 0 with its stack. -/
def copies0 (l : List W64) : State := withStack l .c

theorem own_copies (l : List W64) (m : Memory) {a n : Nat} (h : a + n ≤ 0x20000) : OwnAt { copies0 l with mem := m } a n (0x100000000 + a) :=
  own_of rfl rfl h

theorem own_copies_at (l : List W64) (m : Memory) {a n loc : Nat} (h : a + n ≤ 0x20000) (hl : loc = 0x100000000 + a) :
    OwnAt { copies0 l with mem := m } a n loc := hl ▸ own_copies l m h

theorem witness_CopiesAreIssued :
    let cw (n : Nat) : W64 := BitVec.ofNat 64 (n + 2 ^ 32 * 15)
    (∀ l, (copies0 l).curEng = .c ∧ (copies0 l).curCore < 128 ∧ Unhindered (copies0 l)) ∧
    (let s := copies0 [0x1000, 0x1FFFF, 0x100, cw 1]
     OwnAt s 0x1000 1 0x100001000 ∧ OwnAt s 0x1FFFF 1 0x10001FFFF ∧ s.stk = 0x1000 :: BitVec.ofNat 64 0x1FFFF :: 0x100 :: cw 1 :: []) ∧
    (let s := copies0 [0x2000, 0x100, cw 8, 7]
     OwnAt s 0x2000 8 0x100002000 ∧ s.stk = BitVec.ofNat 64 0x2000 :: 0x100 :: cw 8 :: 7 :: []) ∧
    (let s := copies0 [0x1000, 0x20003FFFC, 0x100, cw 4]
     OwnAt s 0x1000 4 0x100001000 ∧ 0x20003FFFC = 0x200000000 + 4 * 65535 ∧ 65535 + 4 / 4 ≤ 65536 ∧
     (∀ e ∈ team s.curCore, ∀ i, i < 4 / 4 → inSlipWindow s (s.me.seqs.get {} e.tag) (65535 + i) = false) ∧
     s.stk = 0x1000 :: BitVec.ofNat 64 0x20003FFFC :: 0x100 :: cw 4 :: []) ∧
    (let ow : W64 := BitVec.ofNat 64 (5 + 2 ^ 4 * 15 + 2 ^ 8 * 1)
     let s := copies0 [ow, 0x1FFFC, 0x1000, 0x2000, 0x100, 0x3000]
     OwnAt s 0x1000 (4 * 1) 0x100001000 ∧ OwnAt s 0x2000 (4 * 1) 0x100002000 ∧ OwnAt s 0x3000 (4 * 1) 0x100003000 ∧
     (∀ j, j < 1 → OwnAt s (0x1FFFC + 4 * readNat s 0 (0x100001000 + 4 * j) 4) 4 (0x10001FFFC + 4 * readNat s 0 (0x100001000 + 4 * j) 4)) ∧
     s.stk = ow :: 0x1FFFC :: 0x1000 :: 0x2000 :: 0x100 :: 0x3000 :: []) ∧
    (let rec_ (permit : Nat) : List Byte := leBytes 8 0x4000 ++ leBytes 1 3 ++ leBytes 1 1 ++ leBytes 2 (permit + 2 ^ 8 * 15) ++ leBytes 4 0 ++
       leBytes 4 2 ++ leBytes 16 0 ++ leBytes 2 3 ++ leBytes 26 0
     let s (permit : Nat) (x : W64) : State := { copies0 [0x40, 0x2000, 0x100, x] with
       mem := ⟨(locate 0x100000040 (rec_ permit)).filter (fun e => e.2 ≠ 0)⟩ }
     (∀ permit x, OwnAt (s permit x) 0x40 64 0x100000040 ∧ Clean (s permit x) 0x100000040 64 ∧ OwnAt (s permit x) 0x2000 (3 * 8) 0x100002000) ∧
     (∀ permit, permit < 2 → Holds (s permit (-1)) 0 0x100000040 (rec_ permit)) ∧
     (∀ j, j < 3 → (0 : Int) ≤ (-1 : W64).toInt + j → OwnAt (s 1 (-1)) (0x4000 + ((-1 : W64).toInt + j).toNat * 8) 8 (0x100004000 + ((-1 : W64).toInt + j).toNat * 8)) ∧
     (s 1 (-1)).stk = 0x40 :: BitVec.ofNat 64 0x2000 :: 0x100 :: (-1) :: [] ∧ ¬(0 ≤ (-1 : W64).toInt + (0 : Nat))) := by
  refine ⟨fun l => ⟨rfl, show (0 : Nat) < 128 by decide, unhindered_of rfl⟩, ⟨own_copies _ _ (by decide), own_copies _ _ (by decide), by decide +kernel⟩,
    ⟨own_copies _ _ (by decide), by decide +kernel⟩, ⟨own_copies _ _ (by decide), rfl, by decide, by decide +kernel, by decide +kernel⟩,
    ⟨own_copies _ _ (by decide), own_copies _ _ (by decide), own_copies _ _ (by decide), fun j hj => own_copies_at _ {} ?_ (by omega), by decide +kernel⟩,
    fun p x => ⟨own_copies _ _ (by decide), fun k _ => rfl, own_copies _ _ (by decide)⟩, ?_, fun j hj _ => own_copies_at _ _ ?_ (by omega), by decide +kernel, by decide⟩
  · have h : ∀ j, j < 1 → 0x1FFFC + 4 * readNat (copies0 [BitVec.ofNat 64 (5 + 2 ^ 4 * 15 + 2 ^ 8 * 1), 0x1FFFC, 0x1000, 0x2000, 0x100, 0x3000]) 0
      (0x100001000 + 4 * j) 4 + 4 ≤ 0x20000 := by decide +kernel
    exact h j hj
  · unfold Holds; decide +kernel
  · have : (-1 : W64).toInt = -1 := by decide
    omega

/-- A copy of one line to 0x2000 by core 0, counted by ring 1's filling slot. -/
def lines0 (u : Unit_) (rest : List Unit_) (ct : Bool) : State × CopyOp :=
  let o : CopyOp := { id := 3, cls := 1, ctx := 0, owner := (1, 1), units := u :: rest, count := if ct then some ⟨0, 1, 0, 1, 1⟩ else none }
  let ring : Ring := { valid := true, base := 0x2000, size := 128, count := 1, slots := ⟨[(0, { tag := 1, x := 4 })]⟩ }
  (at_ { idle with copies := [o], rings := ⟨[(1, ring)]⟩ } .s, o)

theorem witness_CopyLinesAreWritten :
    let goes (u : Unit_) (rest : List Unit_) (ct : Bool) : Prop :=
      let (s, o) := lines0 u rest ct
      (s.core 0).copies = [o] ∧ o.units = u :: rest ∧ copyMay s 0 o u = true ∧ ∀ a ∈ u.reads, s.poison.get false (a / 128) = false
    let mv : List (Nat × Src) := [(0, .loc 0x100001000 0), (1, .loc 0x100001001 0), (126, .const 7), (127, .const 8)]
    let line : Unit_ := .line 0x100002000 0 mv 0
    (goes line [] true ∧ goes line [line] false ∧ (0x100002000 : Nat) % 128 = 0 ∧ isMain (0x100002000 + 127) = false ∧ (mv.map (·.1)).Nodup ∧
      (∀ m ∈ mv, m.1 < 128) ∧ ((lines0 line [] true).1.core 0).owner = (1, 1) ∧
      (((lines0 line [] true).1.core 0).rings.get {} 1 |>.slot 0).a + mv.length + 0 ≤ 4) ∧
    (let s := { (lines0 line [] true).1 with poison := ⟨[(0x100001000 / 128, true)]⟩ }
     copyMay s 0 (lines0 line [] true).2 line = true ∧ ¬∀ a ∈ line.reads, s.poison.get false (a / 128) = false) ∧
    goes (.text 65535 [.const 1, .const 2, .const 3, .const 4]) [] false ∧ goes (.accum 0x100003000 5 [(0x100001000, some 0x100003004)]) [] false ∧
    goes (.accum 0x100003000 0 [(0x100001000, some 0x100002FFC)]) [line] false := by
  decide +kernel

/-- F of core 0 on device 0 with its stack, and the fabric. -/
def sends0 (l : List W64) (f : Fabric) : State := { withStack l .f with fabric := f }

/-- A transmit map entry of 128 bytes to window 2 of device 1. -/
def tx0 : TxMap := { dests := [(1, 2)] }

/-- A queue entry of one line under transmit map entry 3. -/
def bulk0 : Bulk := { id := 8, core := 0, owner := (1, 1), ctx := 0, cls := 1, queued := true, dev := 1, idx := 3, src := 0x100001000, t := 0, lines := 1 }

theorem own_sends (l : List W64) (f : Fabric) (m : Memory) {a n : Nat} (h : a + n ≤ 0x20000) :
    OwnAt { sends0 l f with mem := m } a n (0x100000000 + a) := own_of rfl rfl h

theorem witness_FabricSends :
    let s (f : Fabric) : State := sends0 [0x1000, 0x300000000, BitVec.ofNat 64 (128 * 1)] f
    let f : Fabric := { txmap := ⟨[(3, some tx0)]⟩ }
    let room (f : Fabric) : Bool := decide ((bulkOps (s f) 0).length < 16)
    (∀ f, (s f).me.detmode = false ∧ OwnAt (s f) 0x1000 (128 * 1) 0x100001000) ∧ (s f).stk = 0x1000 :: 0x300000000 :: BitVec.ofNat 64 (128 * 1) :: [] ∧
    txFind (s {}) 0 (0x300000000 - 0x300000000) = none ∧ txFind (s f) 0 (0x300000000 - 0x300000000) = some (3, tx0) ∧ 0 + 128 * 1 ≤ tx0.w + 2 ^ tx0.z ∧
    room f = true ∧ room { f with bulks := (List.range 15).map (fun i => { bulk0 with id := i }) } = true ∧ room { f with bulks := (List.range 16).map (fun i => { bulk0 with id := i, queued := false }) } = false ∧
    64 ≤ ((List.replicate 64 bulk0).filter (fun b => b.queued ∧ b.dev = (tx0.dests.headD (0, 0)).1 ∧ b.lines ≠ 0 ∧ b.st = 0)).length ∧
    txFind (s { f with txmap := ⟨[(1, some { tx0 with loop := true })]⟩ }) 0 0 = some (1, { tx0 with loop := true }) := by
  exact ⟨fun f => ⟨rfl, own_sends _ _ {} (by decide)⟩, by decide +kernel⟩

/-- A reduction record: window 1,023, operation 1, position a, 32 elements, the owner table at 0x2000. -/
def redRecord (a : Nat) : List Byte := leBytes 2 1023 ++ leBytes 1 (1 + 0 + 16 * 15) ++ leBytes 1 0 ++ leBytes 2 a ++ leBytes 2 0 ++ leBytes 4 32 ++
  leBytes 4 0 ++ leBytes 8 0x2000 ++ leBytes 8 (2 ^ 64 - 1) ++ leBytes 32 0

/-- F joins that reduction at position a, alone or with device 9 at position x; the values are at 0x8000. -/
def joins0 (a : Nat) (sib : Option Nat) (f : Fabric) : State :=
  let entry (v : Nat) (d : Nat) : List (Nat × Byte) := locate (0x100002000 + 2 * v) (leBytes 2 (2 ^ 15 + d))
  { sends0 [0x1000, 0x8000] f with mem := ⟨locate 0x100001000 (redRecord a) ++ entry a 0 ++ (sib.map (entry · 9)).getD []⟩ }

/-- A byte that the memory does not list reads zero. -/
theorem unlisted (s : State) (key a : Nat) (h : isMain a = false) (hm : s.mem.entries.all (fun e => e.1 ≠ a) = true) : memRead s key a = 0 := by
  have : ∀ l : List (Nat × Byte), l.all (fun e => decide (e.1 ≠ a)) = true → listGet a l = none := by
    intro l
    induction l with
    | nil => intro _; rfl
    | cons e l ih =>
      intro hl
      rw [List.all_cons, Bool.and_eq_true] at hl
      rw [listGet, if_neg (of_decide_eq_true hl.1), ih hl.2]
  rw [memRead, if_neg (by rw [h]; decide), Sparse.get, this _ hm]; rfl

/-- So do the entries of an owner table that name no owner. -/
theorem table_of {s : State} {ks : List Nat} (h : s.mem.entries.all (fun e => decide (e.1 < 0x100002000) ||
    ks.any (fun v => decide (e.1 = 0x100002000 + 2 * v) || decide (e.1 = 0x100002000 + 2 * v + 1))) = true) {v : Nat} (hv : v ∉ ks) (hb : v < 4096) :
    readNat s 0 (0x100002000 + 2 * v) 2 = 0 := by
  have hz : ∀ k, k < 2 → memRead s 0 (0x100002000 + 2 * v + k) = 0 := fun k hk => unlisted _ _ _
    (by unfold isMain mainBase; exact decide_eq_false (by omega)) (List.all_eq_true.2 (fun e he => decide_eq_true (fun hc => by
      have := List.all_eq_true.1 h e he
      rw [Bool.or_eq_true, List.any_eq_true] at this
      rcases this with h1 | ⟨u, hu, h1⟩
      · have := of_decide_eq_true h1; omega
      · rw [Bool.or_eq_true] at h1
        have : v = u := by
          rcases h1 with h1 | h1 <;> have := of_decide_eq_true h1 <;> omega
        exact hv (this ▸ hu))))
  show leNat [memRead s 0 (0x100002000 + 2 * v + 0), memRead s 0 (0x100002000 + 2 * v + 1)] = 0
  rw [hz 0 (by decide), hz 1 (by decide)]; rfl

theorem witness_FabricSends_fsacc :
    let f : Fabric := { circuits := [(9, [3], [])] }
    let meets (a : Nat) (sib : Option Nat) (f : Fabric) : Prop :=
      (joins0 a sib f).stk = 0x1000 :: 0x8000 :: [] ∧ Holds (joins0 a sib f) 0 0x100001000 (redRecord a) ∧
      (∀ v, v < 4096 → readNat (joins0 a sib f) 0 (0x100002000 + 2 * v) 2 = if v = a then 2 ^ 15 + 0 else if sib = some v then 2 ^ 15 + 9 else 0)
    (∀ a sib f, f.sends = [] → f.bulks = [] → Unhindered (joins0 a sib f) ∧ OwnAt (joins0 a sib f) 0x1000 64 0x100001000 ∧
      Clean (joins0 a sib f) 0x100001000 64 ∧ OwnAt (joins0 a sib f) 0x2000 8192 0x100002000 ∧ Clean (joins0 a sib f) 0x100002000 8192 ∧
      OwnAt (joins0 a sib f) 0x8000 (32 * 4) 0x100008000 ∧ Clean (joins0 a sib f) 0x100008000 (32 * 4)) ∧
    meets 0 none {} ∧ meets 4095 (some 4094) f ∧ meets 0 (some 1) f ∧ f.member 9 = true ∧ ({} : Fabric).member 9 = false ∧
    (({ reds := List.replicate 8 { win := 3, seq := 3 } } : Fabric).red? 1023 ((2 ^ 64 - 1) % 256) = none) := by
  have table (a : Nat) (sib : Option Nat) (f : Fabric) (h : (joins0 a sib f).mem.entries.all (fun e => decide (e.1 < 0x100002000) ||
      (a :: sib.toList).any (fun v => decide (e.1 = 0x100002000 + 2 * v) || decide (e.1 = 0x100002000 + 2 * v + 1))) = true)
      (h1 : readNat (joins0 a sib f) 0 (0x100002000 + 2 * a) 2 = 2 ^ 15 + 0)
      (h2 : ∀ v, sib = some v → readNat (joins0 a sib f) 0 (0x100002000 + 2 * v) 2 = 2 ^ 15 + 9) (v : Nat) (hb : v < 4096) :
      readNat (joins0 a sib f) 0 (0x100002000 + 2 * v) 2 = if v = a then 2 ^ 15 + 0 else if sib = some v then 2 ^ 15 + 9 else 0 := by
    by_cases ha : v = a
    · rw [if_pos ha, ha, h1]
    · rw [if_neg ha]
      by_cases hs : sib = some v
      · rw [if_pos hs, h2 v hs]
      · rw [if_neg hs, table_of h (by
          cases sib with
          | none => simpa using ha
          | some w => simp at hs; simp; exact ⟨ha, fun h => hs h.symm⟩) hb]
  refine ⟨fun a sib f h1 h2 => ⟨⟨rfl, rfl, h1, h2, rfl, rfl, rfl, rfl, rfl⟩, own_sends _ _ _ (by decide), fun k _ => rfl, own_sends _ _ _ (by decide),
    fun k _ => rfl, own_sends _ _ _ (by decide), fun k _ => rfl⟩,
    ⟨by decide +kernel, by unfold Holds; decide +kernel, table _ _ _ (by decide +kernel) (by decide +kernel) (fun v h => by cases h)⟩,
    ⟨by decide +kernel, by unfold Holds; decide +kernel, table _ _ _ (by decide +kernel) (by decide +kernel) (fun v h => by cases h; decide +kernel)⟩,
    ⟨by decide +kernel, by unfold Holds; decide +kernel, table _ _ _ (by decide +kernel) (by decide +kernel) (fun v h => by cases h; decide +kernel)⟩,
    by decide +kernel, by decide +kernel, by decide +kernel⟩

/-- A send of one line to window 2 of device 1, and the fabric that holds it. -/
def send0 : Send := { id := 4, acc := 4, core := 0, eng := 4, owner := (1, 1), ctx := 0, cls := 1, dev := 1, win := 2, load := .line 0 0 (List.range 128) [] }
def near0 : Fabric := { quiesce := false, circuits := [(1, [3], [])], fibres := ⟨[(3, { up := true })]⟩, sends := [send0], txmap := ⟨[(3, some tx0)]⟩ }

theorem witness_PacketsAndTheFence :
    let s (f : Fabric) : State := { st .s with fabric := f }
    let found (f : Fabric) : Prop := f.sends.find? (fun y => y.id = send0.id ∧ y.st = 0) = some send0
    let x (f : Fabric) (b : Nat) := f.fibres.get {} b
    (found near0 ∧ sendBlocked (s near0) send0 = false ∧ near0.member 1 = true ∧ near0.pathFor 1 0 = some 3 ∧ (x near0 3).up = true) ∧
    (sendBlocked (s { near0 with sends := [{ send0 with id := 3, acc := 3 }, send0] }) send0 = true ∧
      { near0 with circuits := [] }.member 1 = false ∧ (∀ k, k < 4 → keyValid (s near0) k = false)) ∧
    (let b := bulk0
     let f : Fabric := { near0 with sends := [], bulks := [b] }
     f.bulks.find? (fun y => y.id = b.id ∧ y.queued ∧ y.lines ≠ 0 ∧ y.st = 0) = some b ∧ (f.queue 1).head?.map (·.id) = some b.id ∧
      f.txmap.get none b.idx = some tx0 ∧ tx0.dests = [(b.dev, 2)] ∧ b.t + 128 ≤ tx0.w + 2 ^ tx0.z ∧ b.dev ≠ f.devid.toNat ∧
      f.pathFor b.dev (b.t - tx0.w) = some 3 ∧ { f with txmap := {} }.txmap.get none b.idx = none) ∧
    (let d : Send := { send0 with dev := 0, loopb := true }
     let f : Fabric := { near0 with sends := [d], rxwin := ⟨[(2, some { base := 0x100000000 })]⟩ }
     f.sends.find? (fun y => y.id = d.id ∧ y.st = 0) = some d ∧ sendBlocked (s f) d = false ∧
      f.rxwin.get none d.win = some { base := 0x100000000 } ∧ 0 + 128 ≤ 2 ^ 7 ∧ (List.range 128).Nodup) ∧
    (let d : Send := { send0 with st := 1, fibre := 3, resends := 15 }
     let f : Fabric := { near0 with sends := [d] }
     f.sends.find? (fun y => y.id = d.id ∧ y.st = 1) = some d ∧ f.sends.find? (fun y => y.st = 1 ∧ y.fibre = 3 ∧ y.loopb = false) = some d) := by
  decide +kernel

/-- Every sequencer of core 0 waits at RFENCE, for the classes in m. -/
def fences0 (m : BitVec 16) (sends : List Send) : State :=
  { at_ { idle with seqs := ⟨(List.range 5).map (fun k => (k, { wait := some ⟨.rfence, 0, 0⟩ }))⟩ } .s with
    imem := ⟨[(0, (encode (.rfence 1 3 m)).getD 0)]⟩, fabric := { sends := sends } }

theorem witness_PacketsAndTheFence_rfence :
    let there (s : State) (m : BitVec 16) : Prop := (s.core 0).mode = .run ∧ (s.core 0).active = true ∧ (s.core 0).trapPend = none ∧
      (∀ e ∈ team 0, ((s.core 0).seqs.get {} e.tag).wait.any (fun w => w.kind = .rfence) = true) ∧
      (decode (wordAt s 0 ((s.core 0).seqs.get {} 0).pc)).toOption = some (.rfence 1 3 m)
    let bad : Send := { send0 with st := 3, status := 2 }
    there (fences0 0xFFFF [send0]) 0xFFFF ∧ there (fences0 2 [bad]) 2 ∧ fenceOpen (fences0 2 [bad]) 0 2 = false ∧
    send0.owner = ((fences0 2 []).core 0).owner ∧ (2#16).getLsbD send0.cls = true ∧ fenceOpen (fences0 0 [send0]) 0 0 = false ∧
    (∀ p ∈ team (st .s).curCore, (st .s).q.cc.toNat + 1 ≤ ((st .s).me.seq p).cc.toNat - ((st .s).me.seq p).unpassed.length + (st .s).me.slipw.toNat) := by
  decide +kernel

/-- A transmit map record, as WMAPW reads it. -/
def txRecord (m : TxMap) : List Byte := leBytes 8 m.w ++ leBytes 1 m.z ++ leBytes 1 m.dests.length ++
  leBytes 2 ((if m.loop then 1 else 0) + 2 * m.op + 2 ^ 8 * m.cls) ++ leBytes 2 m.loopWin ++ leBytes 2 0 ++
  (List.range 16).flatMap (fun i => leBytes 4 (match m.dests[i]? with
    | some d => d.1 + 2 ^ 12 * d.2
    | none => 0)) ++ leBytes 48 0

/-- A receive window record. -/
def rxRecord (b z fl ring : Nat) : List Byte := leBytes 8 b ++ leBytes 1 z ++ leBytes 1 fl ++ leBytes 2 ring ++ leBytes 20 0

/-- F of core 0 with a record at 0x1000 for entry k. -/
def maps0 (k : W64) (bs : List Byte) (f : Fabric) : State :=
  { sends0 [0x1000, k] f with mem := ⟨(locate 0x100001000 bs).filter (fun e => e.2 ≠ 0)⟩ }

theorem witness_FabricMaps :
    let last : TxMap := { w := 2 ^ 32 - 128, z := 7, loop := true, op := 4, cls := 15, loopWin := 1023, dests := List.replicate 16 (4095, 1023) }
    let other (x : Nat) : Fabric := { txmap := ⟨[(1023, some { last with ctx := x })]⟩ }
    let valid (m : TxMap) : Prop := 7 ≤ m.z ∧ m.z ≤ 32 ∧ m.w % 2 ^ m.z = 0 ∧ m.w + 2 ^ m.z ≤ 2 ^ 32 ∧ m.op ≤ 4 ∧ m.loopWin ≤ 1023 ∧ (m.loop = false → m.loopWin = 0)
    let meets (f : Fabric) (k : Nat) (m : TxMap) : Bool := f.txmap.entries.any (fun e => match e.2 with
      | some y => e.1 ≠ k ∧ y.ctx = 0 ∧ y.w < m.w + 2 ^ m.z ∧ m.w < y.w + 2 ^ y.z
      | none => false)
    (∀ k bs f, f.sends = [] → f.bulks = [] → Unhindered (maps0 k bs f) ∧ OwnAt (maps0 k bs f) 0x1000 128 0x100001000 ∧
      Clean (maps0 k bs f) 0x100001000 128 ∧ OwnAt (maps0 k bs f) 0x1000 32 0x100001000 ∧ Clean (maps0 k bs f) 0x100001000 32) ∧
    ((maps0 1023 (txRecord last) {}).stk = 0x1000 :: 1023 :: [] ∧ Holds (maps0 1023 (txRecord last) {}) 0 0x100001000 (txRecord last) ∧ valid last ∧
      ¬valid { last with op := 5 } ∧ ¬valid { last with loop := false } ∧ Holds (maps0 0 (txRecord {}) {}) 0 0x100001000 (txRecord {}) ∧
      meets (other 0) 1023 last = false ∧ meets (other 0) 1022 last = true ∧ meets (other 5) 1022 last = false ∧
      (other 5).txmap.get none 1023 = some { last with ctx := 5 } ∧ (other 0).txmap.get none 1023 = some last) ∧
    (let pad (z : Nat) : Nat := 0x100000000 + 127 * 0x400000 + 59 * 0x10000 - 2 ^ z
     let w (b : Nat) (bound : Bool) (ring : Nat) : RxWin := { base := BitVec.ofNat 64 b, z := 7, bound := bound, ring := ring }
     let taken : State := maps0 1023 (rxRecord 0x100000000 7 1 255) {}
     Holds (maps0 1023 (rxRecord (pad 7) 7 1 255) {}) 0 0x100001000 (rxRecord (pad 7) 7 1 255) ∧
      Holds (maps0 0 (rxRecord 0x10000000000 39 2 0) {}) 0 0x100001000 (rxRecord 0x10000000000 39 2 0) ∧
      Holds (maps0 0 (rxRecord 0 0 0 0) {}) 0 0x100001000 (rxRecord 0 0 0 0) ∧ 0x10000000000 + 2 ^ 39 ≤ 0x10000000000000 ∧
      (pad 7 - 0x100000000) % 0x400000 + 2 ^ 7 ≤ (63 - taken.tasks.cl0Part) * 0x10000 ∧ pad 7 < 0x100000000 + 128 * 0x400000 ∧
      rxTaken taken 0 1023 (w 0x100000000 true 255) = false ∧
      rxTaken { taken with cores := ⟨[(0, { taken.me with inst := some { inst0 with ctx := 5 } })]⟩ } 0 1023 (w 0x100000000 true 255) = true) ∧
    (let s (f : Fabric) : State := sends0 [1, 0] f
     (s near0).stk = 1 :: 0 :: [] ∧ (near0.paths 1).length < 64 ∧ (near0.forwarder 1).getD 0 < 4096 ∧ near0.member 1 = true ∧
      (near0.paths 1)[(0 : W64).toNat]? = some 3 ∧ ({} : Fabric).member 1 = false ∧ (near0.paths 1).length ≤ (1 : W64).toNat) := by
  refine ⟨fun k bs f h1 h2 => ⟨⟨rfl, rfl, h1, h2, rfl, rfl, rfl, rfl, rfl⟩, own_sends _ _ _ (by decide), fun k _ => rfl, own_sends _ _ _ (by decide),
    fun k _ => rfl⟩, ?_, ?_, by decide +kernel⟩
  all_goals unfold Holds; decide +kernel

/-- A device whose window 2 is as given, and which hears fibre 64. -/
def hears0 (w : Option RxWin) (reds : List Red) (x : Slot) : State :=
  let ring : Ring := { valid := true, base := 0x1000, size := 128, count := 1, fabric := true, slots := ⟨[(0, x)]⟩ }
  { at_ { idle with rings := ⟨[(7, ring)]⟩ } .s with fabric := { fibres := ⟨[(64, { up := true })]⟩, rxwin := ⟨[(2, w)]⟩, reds := reds } }

theorem witness_FabricArrivals :
    let w : RxWin := { base := 0x100001000 }
    let b : RxWin := { w with bound := true, ring := 7 }
    let p : Arrival := { src := 1, dest := 0, win := 2, line := 0, op := 0, poison := true, isSealed := false, authOk := true, enables := none, bytes := [], fibre := 64 }
    let s := hears0 (some b) [] { tag := 1, a := 0, x := 128 }
    let x (s : State) : Fibre := s.fabric.fibres.get {} 64
    ((x s).paused = false ∧ (x s).up = true ∧ p.dest = s.fabric.devid.toNat ∧ { p with dest := 4095 }.dest ≠ s.fabric.devid.toNat ∧ s.fabric.seal_ = false ∧ (hears0 none [] {}).fabric.rxwin.get none 2 = none) ∧
    ((hears0 (some w) [] {}).fabric.rxwin.get none 2 = some w ∧ w.off = false ∧ w.base.toNat < 0x10000000000 ∧ 128 * 0 + 128 ≤ 2 ^ w.z ∧
      2 ^ w.z < 128 * 1 + 128 ∧ w.base.toNat % 128 = 0 ∧ w.base.toNat + 128 ≤ 2 ^ 60 ∧ (List.range 128).Nodup) ∧
    (¬((∀ i, i < 4 → 4 * 0 + i ∈ [0, 1, 2]) ∨ ∀ i, i < 4 → 4 * 0 + i ∉ [0, 1, 2]) ∧
      ∀ k, k < 32 → (∀ i, i < 4 → 4 * k + i ∈ [0, 1, 2, 3]) ∨ ∀ i, i < 4 → 4 * k + i ∉ [0, 1, 2, 3]) ∧
    ((b.base.toNat - 0x100000000) / 0x400000 = 0 ∧ (s.core 0).inst = some inst0 ∧ inst0.ctx = b.ctx ∧
      slotOfLine 0 inst0 ((s.core 0).rings.get {} 7) (b.base.toNat + 0) = some 0 ∧ (((s.core 0).rings.get {} 7).slot 0).tag = 1 ∧
      (((s.core 0).rings.get {} 7).slot 0).a + (p.enables.getD (List.range 128)).length ≤ (((s.core 0).rings.get {} 7).slot 0).x) := by
  decide +kernel

theorem witness_FabricArrivals_reductions :
    let part (ended : Bool) : Part := { core := 0, owner := (1, 1), acc := 3, ctx := 0, cls := 1, op := 1, level := 11, pos := 0
                                        v := List.replicate 32 1, owners := ⟨[(0, 1), (2048, 10)]⟩, ended := ended }
    let red (x : Option Part) : Red := { win := 2, seq := 255, part := x }
    let b : RxWin := { base := 0x100001000, bound := true, ring := 7 }
    let find (s : State) : Option Red := s.fabric.reds.find? (fun r => r.win = 2 ∧ r.seq = 255)
    let s (x : Option Part) : State := hears0 (some b) [red x] {}
    (find (hears0 none [] {}) = none ∧ 8 ≤ (hears0 none (List.replicate 8 { win := 3, seq := 0 }) {}).fabric.reds.length ∧
      find (hears0 none (List.replicate 8 { win := 3, seq := 0 }) {}) = none) ∧
    (find (s none) = some (red none) ∧ find (s (some (part true))) = some (red (some (part true))) ∧ (part true).ended = true) ∧
    ((part false).v.length = 32 ∧ (part false).combiner 11 1 = some 9 ∧ (red (some (part false))).partials = []) ∧
    (let t := s (some (part true))
     t.fabric.rxwin.get none 2 = some b ∧ find t = some ⟨2, 255, some (part true), [], []⟩ ∧ (∀ d ∈ t.fabric.sends, d.acc ≠ (part true).acc) ∧
      (t.core ((b.base.toNat - 0x100000000) / 0x400000)).inst = some inst0 ∧ slotOfLine 0 inst0 ((t.core 0).rings.get {} 7) b.base.toNat = some 0 ∧
      (((t.core 0).rings.get {} 7).slot 0).tag = 0 ∧ ((t.core 0).rings.get {} 7).size = 128 ∧ ((t.core 0).rings.get {} 7).rel = []) := by
  decide +kernel

/-- A slot record: 1,000 ns with a guard of 500, for one device. -/
def slotBytes0 (dur guard : Nat) (ds : List (Nat × Nat × BitVec 64)) : List Byte :=
  leBytes 4 dur ++ leBytes 4 guard ++ leBytes 1 ds.length ++ leBytes 7 0 ++ (List.range 16).flatMap (fun i => match ds[i]? with
    | some d => leBytes 2 d.1 ++ leBytes 2 0 ++ leBytes 4 d.2.1 ++ leBytes 8 d.2.2.toNat
    | none => leBytes 16 0)

/-- F of core 0 in a handler of its own context, which FAB_SLOTUSR allows, with that record and the two operands. -/
def slots0 (a k : W64) (bs : List Byte) (f : Fabric) : State :=
  { sends0 [a, k] { f with slotUsr := 64 } with mem := ⟨(locate 0x100001000 bs).filter (fun e => e.2 ≠ 0)⟩ }

theorem witness_SlotsAndGroup :
    let ds : List (Nat × Nat × BitVec 64) := [(4095, 2 ^ 32 - 128, 0xFFFF000000000000), (1, 0, 1)]
    let allowed (s : State) : Prop := s.me.priv s.curCore = true ∨ (s.fabric.slotUsr.getLsbD 6 = true ∧ (s.fabric.slotUsr.extractLsb' 0 6).toNat = s.ctxNow)
    let valid (dur guard : Nat) (ds : List (Nat × Nat × BitVec 64)) : Prop := 1000 ≤ dur ∧ dur ≤ 1000000 ∧ 500 ≤ guard ∧ guard + 500 ≤ dur ∧
      ds.Pairwise (fun x y => x.1 ≠ y.1 ∧ x.2.2 &&& y.2.2 = 0) ∧ ∀ d ∈ ds, d.2.1 % 128 = 0 ∧ 1 ≤ (bitList d.2.2).length ∧ (bitList d.2.2).length ≤ 16
    let f : Fabric := { fslot := ⟨[(0, { dur := 1000, guard := 500 }), (1, { dur := 1000000, guard := 999500 })]⟩ }
    let run (k cur : Nat) (stop : Bool) : Rotation := { start := 1000, count := k, running := true, cur := cur, curStart := 1000, stopping := stop }
    let s (f : Fabric) : State := { st .s with fabric := f, ftime := 2000 }
    let at_ (f : Fabric) (r : Rotation) : Nat := r.curStart + (f.fslot.get {} r.cur).dur
    (∀ a k bs f, f.sends = [] → f.bulks = [] → Unhindered (slots0 a k bs f) ∧ OwnAt (slots0 a k bs f) 0x1000 272 0x100001000 ∧
      Clean (slots0 a k bs f) 0x100001000 272) ∧
    ((∀ a k bs f, allowed (slots0 a k bs f)) ∧ ¬allowed (sends0 [0x1000, 0] f) ∧ (slots0 0x1000 63 [] f).stk = 0x1000 :: 63 :: [] ∧
      valid 1000 500 ds ∧ ¬valid 999 500 [] ∧ ¬valid 1000 501 [] ∧ Holds (slots0 0x1000 63 (slotBytes0 1000 500 ds) f) 0 0x100001000 (slotBytes0 1000 500 ds) ∧
      Holds (slots0 0x1000 0 (slotBytes0 999 500 []) f) 0 0x100001000 (slotBytes0 999 500 [])) ∧
    ((1000 : W64).toNat < ({ slots0 1000 2 [] f with ftime := 1 }).ftime + 1000 ∧ (slots0 1000 2 [] f).ftime + 1000 ≤ (1000 : W64).toNat ∧
      (∀ i, i < 2 → (f.fslot.get {} i).dur ≠ 0) ∧ (f.fslot.get {} 2).dur = 0 ∧ 63 < (run 64 0 false).count) ∧
    (at_ f (run 2 0 false) ≤ (s f).ftime ∧ 0 + 1 < 2 ∧ (s f).ftime < at_ f (run 2 1 false) ∧ (s f).ftime < ({ run 2 0 false with start := 2001 }).start ∧
      (run 1 0 true).count ≤ 0 + 1 ∧ 1000 + (1000 - 500) ≤ (s f).ftime ∧ (s f).fabric.reds = []) ∧
    ({ f with quiesce := false, retraining := true }).reds = [] := by
  refine ⟨fun a k bs f h1 h2 => ⟨⟨rfl, rfl, h1, h2, rfl, rfl, rfl, rfl, rfl⟩, own_sends _ _ _ (by decide), fun k _ => rfl⟩,
    ⟨fun a k bs f => .inr ⟨show (64 : BitVec 7).getLsbD 6 = true by decide, show (BitVec.extractLsb' 0 6 (64 : BitVec 7)).toNat = 0 by decide⟩, ?_⟩, ?_⟩
  all_goals first | (unfold Holds; decide +kernel) | decide +kernel

theorem witness_RingHeaters :
    let y : Fibre := { paused := true, wholeAt := some 5, pausedAt := 5, up := true }
    let d : Send := { send0 with st := 1, fibre := 127 }
    let s (t : Nat) : State := { st .s with fabric := { sends := [d], fibres := ⟨[(127, y)]⟩ }, ftime := t }
    (0#12 : BitVec 12) = 0 ∧ (4095#12 : BitVec 12) = 4095 ∧ (1#12 ≠ 0 ∧ 4094#12 ≠ 4095) ∧ ((s 0).fabric.fibres.get {} 127).paused = true ∧
    ((s 0).fabric.fibres.get {} 127).wholeAt = some 5 ∧ 5 + 1000 ≤ (s 1005).ftime ∧ (s 1004).ftime < 5 + 1000 ∧
    (s 10000005).ftime ≤ y.pausedAt + 10000000 ∧ y.pausedAt + 10000000 < (s 10000006).ftime ∧ y.failed = false ∧
    (∀ d ∈ (s 0).fabric.sends, ∃ o op en bs, d.load = .line o op en bs) := by
  refine ⟨rfl, rfl, by decide, by decide, by decide, by decide, by decide, by decide, by decide, by decide, fun d h => ?_⟩
  rw [List.mem_singleton.1 h]; exact ⟨_, _, _, _, rfl⟩

/-- A set of four slices, open or not, of the given mode. -/
def set0 (state : Nat) (token : Bool) : SliceSet := { state := state, opener := (0, 1, 1), token := token, w := 4, h := 4, first := 0 }

/-- An instance that holds the token of slice 1 of set 2, bound or not, and has text. -/
def holder0 (bound : Bool) : Inst := { inst0 with lrec := { inst0.lrec with textLen := 10 }, tokens := [(2, 1, 1)]
                                                  bind := if bound then some ⟨2, 1, 1, 3, 9⟩ else none }

/-- S of core 0 with s1 a token of set 2 and s2 a value, and that set. -/
def slices0 (x : SliceSet) (tok v : W64) (bound : Bool) : State :=
  { at_ { idle with inst := some (holder0 bound), sreg := ⟨[(1, tok), (2, v)]⟩ } .s with slices := ⟨[(2, x)]⟩ }

/-- Slice 1 is seeded, and in flight or not. -/
def seeded0 (x : SliceSet) (c : Slice) : SliceSet := { x with slices := ⟨[(1, { c with seeded := true, gen := 1 })]⟩ }

theorem witness_SliceSets :
    let tok : W64 := 0x100010002
    let isOpen (s : State) : Prop := (s.set 2).state = 1 ∧ (s.set 2).ctx = s.ctxNow
    let s := slices0 (set0 1 false) tok 0 false
    let t := slices0 (set0 1 true) tok 0 false
    let taken (x : SliceSet) (m : Nat) : Bool := (x.slice m).seeded && !decide ((x.slice m).fine = 1) && !(x.slice m).infl
    (s.me.mode ≠ .handler ∧ s.sval 1 = tok ∧ tokSet tok = 2 ∧ tokN tok = 1 ∧ tokG tok = 1 ∧ tokBad tok = false ∧ tokBad 0x8000000000000000 = true ∧
      tokBad 0x10 = true ∧ isOpen s ∧ released s 0 .s = true ∧ (s.set 3).state = 0) ∧
    (released { s with accs := [{ id := 0, n := 0, eng := 0, cls := 3, eff := .counter 0 true 1 }] } 0 .s = false) ∧
    ((s.set 2).out = [] ∧ (set0 2 false).state ≠ 1 ∧ ({ set0 1 false with out := [(1, 1)] }).out ≠ []) ∧
    (¬((set0 1 false).base ≤ 4 ∧ 4 < (set0 1 false).h) ∧ (s.set 2).h ≤ 3 + 1 ∧ 1 + 1 < (s.set 2).h ∧ 2 < (s.set 2).h ∧ (s.set 2).p ≤ 1 ∧
      ((slices0 (set0 1 false) tok 1 false).sval 2).toNat ≠ 0 ∧ (t.set 2).p ≤ 1 ∧ ((seeded0 (set0 1 false) {}).slice 1).seeded = true ∧
      1 < ({ set0 1 false with p := 2 }).p ∧ (0xFFFFFFFF : W64).toNat < 2 ^ 32) ∧
    (textWords s = 10 ∧ (9 + 2 ^ 16) % 2 ^ 16 < textWords s ∧ (∃ i, s.me.inst = some i ∧ i.bind = none) ∧
      ((slices0 (set0 1 false) tok 0 true).me.inst.any (fun i => i.bind.isSome)) = true ∧ (set0 1 false).p < (set0 1 false).h ∧
      ({ set0 1 false with p := 4 }).h ≤ 4 ∧ ({ set0 1 false with exhausted := true }).exhausted = true ∧
      (∀ m, m < 4 → taken (set0 1 false) m = false) ∧ taken (seeded0 (set0 1 false) {}) 1 = true ∧ 1 + 2 ≤ (set0 1 false).h ∧
      taken (seeded0 (set0 1 false) {}) 0 = false ∧ (seeded0 (set0 1 true) {}).onPath 1 = false) ∧
    (let u := slices0 (seeded0 { set0 1 false with out := [(1, 1)] } { infl := true }) tok 1 true
     holdsToken u tok = true ∧ holdsToken u 0x200010002 = false ∧ isOpen u ∧ ((u.set 2).slice 1).ist = false ∧ ((u.set 2).slice 1).gen = tokG tok ∧
      (u.sval 2).toNat ≤ 1 ∧ ({ set0 2 false with out := [(1, 1)] }).state = 2 ∧ ((seeded0 (set0 1 false) { ist := true }).slice 1).ist = true) ∧
    (s.set 2).sweeps < 2 ^ 16 - 1 := by
  refine ⟨by decide +kernel, by decide +kernel, by decide, by decide +kernel, ⟨by decide +kernel, by decide, ⟨holder0 false, rfl, rfl⟩, ?_⟩, ?_⟩
  all_goals decide +kernel

/-- A parameter block. -/
def setBlock (mode tree w parts tol first tab : Nat) : List Byte := leBytes 4 (mode + 2 ^ 8 * tree) ++ leBytes 4 w ++ leBytes 4 parts ++ leBytes 4 tol ++
  leBytes 4 0 ++ leBytes 4 first ++ leBytes 8 tab

/-- S of core 0 with s1 at 0x1000, where that block lies, and the sets. -/
def opens0 (bs : List Byte) (sets : Sparse SliceSet) : State :=
  { withS 0x1000 0 with mem := ⟨(locate 0x100001000 bs).filter (fun e => e.2 ≠ 0)⟩, slices := sets }

theorem witness_SliceSets_open :
    let all (w : Nat) : Sparse SliceSet := ⟨(List.range 16).map (fun j => (j, { set0 1 false with h := w }))⟩
    let lastFree (w : Nat) : Sparse SliceSet := ⟨(List.range 15).map (fun j => (j, { set0 1 false with h := w }))⟩
    let b := setBlock 0 0 64 128 0x7F7FFFFF 0xFFFFFFFF 0x1000
    let c := setBlock 1 1 2 1 0 0 0
    (∀ bs sets, OwnAt (opens0 bs sets) 0x1000 32 0x100001000 ∧ Unhindered (opens0 bs sets) ∧ Clean (opens0 bs sets) 0x100001000 32 ∧
      OwnAt (opens0 bs sets) 0x1000 (32 * 64) 0x100001000) ∧
    ((opens0 b {}).me.mode ≠ .handler ∧ released (opens0 b {}) 0 .s = true ∧ Holds (opens0 b {}) 0 0x100001000 b ∧ Holds (opens0 c {}) 0 0x100001000 c ∧
      ((withS 0x1001 0).sval 1).toNat % 32 ≠ 0) ∧
    ((∀ j, j < 16 → ((opens0 b (all 4)).set j).state ≠ 0) ∧ ((opens0 b (lastFree 4)).set 15).state = 0 ∧ 64 ≤ freeContexts (opens0 b (lastFree 4)) ∧
      freeContexts (opens0 b (lastFree 17)) < 2 ∧ (∀ j, j < 15 → ((opens0 b (lastFree 4)).set j).state ≠ 0)) := by
  refine ⟨fun bs sets => ⟨own_of rfl rfl (by decide), unhindered_of rfl, fun k _ => rfl, own_of rfl rfl (by decide)⟩, ?_, ?_⟩
  all_goals first | (unfold Holds; decide +kernel) | decide +kernel

theorem witness_SliceResults :
    let tok : W64 := 0x100010002
    let passes (s : State) : Bool := let q : FVal := rne (fmul (f32 ((s.sval 3).setWidth 32)) (f32 ((s.sval 2).extractLsb' 32 32)))
      let p : FVal := f32 ((s.sval 2).setWidth 32)
      !p.isNan && !q.isNan && fleVal q p
    let fine (x : SliceSet) : SliceSet := seeded0 x { fine := 1, fg := 1 }
    let s := slices0 (fine (set0 1 true)) tok 0x3F8000003F800000 false
    (s.me.mode ≠ .handler ∧ tokBad tok = false ∧ 1 ≤ (s.set 2).p ∧ ¬(2 ≤ (s.set 2).p ∨ (s.set 2).h ≤ (s.set 2).p)) ∧
    ((set0 1 false).base ≤ 1 ∧ 3 < (set0 1 false).h ∧ ((s.set 2).slice 1).fine = 1 ∧ ((set0 1 false).slice 1).fine ≠ 1 ∧ ((s.set 2).slice 1).frec = none ∧
      ((seeded0 (set0 1 false) { frec := some ⟨5, 4, 0, 7, 0, 1, false, false⟩ }).slice 1).frec = some ⟨5, 4, 0, 7, 0, 1, false, false⟩) ∧
    (let x : SliceSet := { set0 1 false with p := 2 }
     0 = x.base ∧ 0 + 1 < x.p ∧ (x.slice 0).infl = false ∧ x.h ≤ 4095 ∧ (set0 1 false).p ≤ 0 + 1 ∧ 4095 < ({ x with h := 4096 }).h) ∧
    ((s.set 2).p = tokN tok ∧ tokG tok = ((s.set 2).slice 1).gen ∧ passes s = true ∧
      passes { s with cores := ⟨[(0, { s.me with sreg := ⟨[(1, tok), (2, 0x3F80000000000000), (3, 0x3F800000)]⟩ })]⟩ } = false ∧
      ((seeded0 (set0 1 true) { fine := 1, fg := 1, verdict := 2 }).slice 1).verdict = 2 ∧ (0x1FFFFFFFF : W64).toNat < 2 ^ 33) ∧
    (let t (n : Nat) (out : List (Nat × Nat)) (accs : List Access) : State := { at_ { idle with inst := some (holder0 true), abandon := some 0x800000000000000B } .s with
       slices := ⟨[(2, seeded0 { set0 n false with out := out } { infl := true })]⟩, accs := accs }
     drained (t 2 [(1, 1)] []) 0 = true ∧ drained (t 2 [(1, 1)] [{ id := 0, n := 0, eng := 0, cls := 0, eff := .write 0 [] }]) 0 = false ∧
      ((t 2 [(1, 1)] []).core 0).abandon = some 0x800000000000000B ∧ ((t 2 [(1, 1)] []).core 0).inst = some (holder0 true) ∧
      (holder0 true).bind = some ⟨2, 1, 1, 3, 9⟩ ∧ ((t 2 [(1, 1)] []).set 2).state = 2 ∧ ((t 3 [(1, 1)] []).set 2).state = 3 ∧
      (∀ e ∈ ((t 3 [(1, 1)] []).set 2).out, e.1 = 1) ∧ (∃ e ∈ ((t 3 [(1, 1), (2, 1)] []).set 2).out, e.1 ≠ 1)) := by
  decide +kernel

/-- C of core 0 combines slice 1 of set 2, part 0, one element; every row of the set's table at 0x2000 names 0x3000. -/
def combines0 (x : SliceSet) (pw : Nat) : State :=
  let row : List Byte := leBytes 8 0x3000 ++ leBytes 8 0x3000 ++ leBytes 8 0x3000 ++ leBytes 8 0x3000
  { copies0 [0x100010002, BitVec.ofNat 64 pw, 0x100] with slices := ⟨[(2, { x with tab := 0x100002000 })]⟩
                                                          mem := ⟨((List.range 4).flatMap (fun m => locate (0x100002000 + 32 * m) row)).filter (fun e => e.2 ≠ 0)⟩ }

theorem own_combines (x : SliceSet) (pw : Nat) {a n : Nat} (h : a + n ≤ 0x20000) : OwnAt (combines0 x pw) a n (0x100000000 + a) := own_of rfl rfl h

theorem own_combines_at (x : SliceSet) (pw : Nat) {a n v : Nat} (h : v = a) (hb : a + n ≤ 0x20000) : OwnAt (combines0 x pw) v n (0x100000000 + a) :=
  (congrArg (fun z => OwnAt (combines0 x pw) z n (0x100000000 + a)) h).mpr (own_combines x pw hb)

theorem witness_Combine :
    let x := seeded0 (set0 1 false) { fine := 1, fg := 1 }
    let s := combines0 x (0 + 2 ^ 8 * 15 + 2 ^ 16 * 1)
    let row (m j : Nat) : Nat := readNat s 0 ((s.set 2).tab + 32 * (m % 4) + 8 * j) 8
    (s.curEng = .c ∧ s.curCore = 0 ∧ Unhindered s ∧ s.stk = 0x100010002 :: BitVec.ofNat 64 (0 + 2 ^ 8 * 15 + 2 ^ 16 * 1) :: 0x100 :: [] ∧
      (combines0 (set0 2 false) 0x10000).stk.length = 3 ∧ (127 + 2 ^ 8 * 15 + 2 ^ 16 * (2 ^ 20 - 1)) < 2 ^ 64) ∧
    ((s.set 2).state = 1 ∧ (s.set 2).base ≤ 1 ∧ 1 + 1 < (s.set 2).h ∧ 0 < (s.set 2).parts ∧ (s.set 2).parts ≤ 1 ∧ ((s.set 2).slice 1).fine = 1 ∧
      ((s.set 2).slice 1).fg = tokG 0x100010002 ∧ (s.set 2).tabMain = false) ∧
    (∀ v ∈ [row 1 3, row 1 1, row 1 2, row 2 0], v = 0x3000) ∧ (∀ m, Clean s (0x100002000 + 32 * m) 32) ∧
    OwnAt s (row 1 3 + 4 * 0 * 1) (4 * 1) 0x100003000 ∧
    (let r : Report := { set := 2, opened := 0, n := 1, part := 0, settled := false, norm := 5, differs := true }
     let o : CopyOp := { id := 3, cls := 1, ctx := 0, owner := (1, 1), units := [], report := some r }
     let t (parts : Nat) : State := { at_ { idle with copies := [o] } .s with slices := ⟨[(2, { set0 1 false with parts := parts })]⟩ }
     ((t 1).core 0).copies.find? (fun y => y.id = o.id ∧ y.units = []) = some o ∧ ((t 1).core 0).replay = [] ∧
      ((t 1).set 2).state ≠ 0 ∧ ((t 1).set 2).opened = r.opened ∧ ((t 1).set 2).base ≤ r.n ∧ r.n + 1 < ((t 1).set 2).h ∧ 1 < ((t 2).set 2).parts ∧
      (((t 1).set 2).slice 1).roundOpen = false ∧ ({ set0 1 false with opened := 1 }).opened ≠ r.opened) := by
  have hr : readNat (combines0 (seeded0 (set0 1 false) { fine := 1, fg := 1 }) (0 + 2 ^ 8 * 15 + 2 ^ 16 * 1)) 0 (0x100002000 + 32 * (1 % 4) + 8 * 3) 8 = 0x3000 := by
    decide +kernel
  exact ⟨⟨rfl, rfl, unhindered_of rfl, by decide +kernel, by decide +kernel, by decide⟩, by decide +kernel, by decide +kernel, fun m k _ => rfl,
    own_combines_at _ _ hr (by decide), by decide +kernel⟩

/-- S of core 0 spawns from the record at 0x1000: its context's descriptor may spawn, or not, and its queue has places. -/
def spawns0 (may : Byte) (rec_ : List Byte) (pool ovf : List Child) : State :=
  { withS 0x1000 0 with plinth := { ctxTab := ⟨[(0xB, may), (0x28, 4)]⟩ }, mem := ⟨(locate 0x100001000 rec_).filter (fun e => e.2 ≠ 0)⟩
                        tasks := { pools := ⟨[(0, pool)]⟩, ovf := ⟨[(0, ovf)]⟩ } }

def child0 : Child := { ctx := 0, lrec := {}, tab := {}, tabAddr := 0, by_ := 1 }

theorem own_spawns (may : Byte) (r : List Byte) (p o : List Child) {a n : Nat} (h : a + n ≤ 0x20000) :
    OwnAt (spawns0 may r p o) a n (0x100000000 + a) := own_of rfl rfl h

theorem witness_WorkInstructions :
    let text := leBytes 2 0 ++ leBytes 2 0 ++ leBytes 2 0 ++ leBytes 2 0 ++ leBytes 4 1 ++ leBytes 4 0
    (∀ may r p o, Unhindered (spawns0 may r p o) ∧ OwnAt (spawns0 may r p o) 0x1000 64 0x100001000 ∧ Clean (spawns0 may r p o) 0x100001000 64) ∧
    ((spawns0 0 [] [] []).me.mode ≠ .handler ∧ bitsOf (ctxField (spawns0 0 [] [] []) 0 0x0B 1) 1 1 = 0 ∧
      bitsOf (ctxField (spawns0 2 [] [] []) 0 0x0B 1) 1 1 = 1 ∧ recValid (spawns0 2 text [] []) 0 (readLocs (spawns0 2 text [] []) 0 0x100001000 64)
        (recOf (readLocs (spawns0 2 text [] []) 0 0x100001000 64) 0) = false ∧ released (spawns0 2 [] [] []) 0 .s = true) ∧
    ((spawns0 2 [] (List.replicate 959 child0) []).tasks.pools.get [] 0).length < 960 ∧
    (960 ≤ ((spawns0 2 [] (List.replicate 960 child0) []).tasks.pools.get [] 0).length ∧
      ((spawns0 2 [] (List.replicate 960 child0) []).tasks.ovf.get [] 0).length < 2 ^ ctxField (spawns0 2 [] [] []) 0 0x28 1 ∧
      2 ^ ctxField (spawns0 2 [] [] []) 0 0x28 1 ≤ ((spawns0 2 [] [] (List.replicate 16 child0)).tasks.ovf.get [] 0).length) ∧
    ((st .s).me.inst = some inst0 ∧ (st .s).curCore ≠ 128 ∧ ({ State.reset with curEng := .s }).me.inst = none ∧ 12 < (13#5).toNat ∧
      inst0.tab.levels[3]? = none ∧ inst0.tab.levels[0]? = some ⟨1, 1, true⟩ ∧ ∀ y ∈ inst0.tab.levels, y.kind ≤ 2) := by
  refine ⟨fun m r p o => ⟨unhindered_of rfl, own_spawns _ _ _ _ (by decide), fun k _ => rfl⟩, ?_⟩
  decide +kernel

/-- A record of one word of text at main-memory address 2^40, one trip and one unit, which is valid. -/
def loop0 : LoopRec := { trips := 1, part := 1, slipw := 4, text := 0x10000000000, textLen := 1, cls := 1, est := 1 }

/-- A launch of one instance that is not placed yet, and one that has nothing to place. -/
def launch0 (num cls : Nat) (todo : List Unplaced) : Launch :=
  { num := num, ctx := 0, queue := 0, cls := cls, lrec := { loop0 with policy := 8#8 }, tab := {}, todo := todo }

theorem witness_LaunchesArePlaced :
    let entry : QEntry := { recAddr := 64 }
    let q (w : Byte) : State := { State.reset with tasks := { master := 0 }
                                                   plinth := { stage := 0xF, queues := ⟨[(0, { pend := [entry] })]⟩, ctxTab := ⟨[(0xB, 1), (0x14, w)]⟩ } }
    (q 1).plinth.stage = 0xF ∧ (q 1).tasks.master ∈ (q 1).tasks.live ∧ ctxValid (q 1) 0 = true ∧ ((q 1).queue (16 * 0 + 0)).pend = entry :: [] ∧
    entry.read = none ∧ (q 1).launch? ((q 1).queue 0).lastLaunch = none ∧ (∀ d, d < 4 → (q 1).tasks.pools.get [] d = []) ∧
    ctxField (q 1) 0 (0x14 + 0) 1 ≠ 0 ∧ (q 1).plinth.inVisit = false ∧ readEntry (q 1) 0 entry = .inl 2 ∧ State.reset.plinth.stage ≠ 0xF := by
  decide +kernel

/-- Die 3 has one launch of class 1 to place, and core 127 holds an instance of another launch, of class 2, or nothing. -/
def places0 (busy : Option Inst) : State :=
  { State.reset with tasks := { launches := [launch0 7 1 [⟨0, 0, 3, 0⟩], launch0 1 2 []] }
                     cores := ⟨(List.range 32).map (fun k => (96 + k, { active := busy.isSome, inst := if k = 31 then busy else busy.map (fun i => { i with cls := 0 }) }))⟩ }

theorem witness_LaunchesArePlaced_distributor :
    let l := launch0 7 1 [⟨0, 0, 3, 0⟩]
    let i : Inst := { launch := 1, ctx := 0, cls := 2, lrec := { loop0 with policy := 9#8 }, tab := {}, units := 1, placed := 1 }
    let takes (s : State) (k : Nat) : Bool := (s.core k).mayTake 1 && (roomAt s k 0 1 1).isSome
    (3 ∈ (places0 none).tasks.live ∧ (places0 none).tasks.launches = [l, launch0 1 2 []] ∧ (launch0 1 2 []).tab.steps ≤ 0 + 1 ∧ l.cls < 4 ∧
      ⟨0, 0, 3, 0⟩ ∈ l.todo ∧ ((places0 none).core 96).mayTake 1 = true ∧ (roomAt (places0 none) 96 0 1 1).isSome = true) ∧
    ((∀ k, k < 32 → takes (places0 (some i)) (96 + k) = false) ∧ ((places0 (some i)).core 127).inst = some i ∧
      (roomAt (places0 (some i)) 127 0 1 1).isSome = true ∧ 1 < i.cls ∧ i.lrec.policy.getLsbD 0 = true ∧ i.lrec.policy.getLsbD 3 = true ∧
      i.lrec.policy.getLsbD 1 = false ∧ i.lrec.policy.getLsbD 2 = false ∧ (launch0 1 2 []).stopped = false) ∧
    (∀ e ∈ (places0 (some i)).cores.entries, e.2.stopReq = none) := by
  decide +kernel

/-- Core 0 stages one word from the page at 2^40, of which the text is executable, or not. -/
def stages0 (x : Bool) : State :=
  { at_ { inst := some { inst0 with lrec := loop0 } } .s with
    shared := [{ page0 true false with x := x }], plinth := { keyVal := ⟨[(5, true)]⟩ }, mem := ⟨[(2 ^ 60, 1)]⟩, lineKey := ⟨[(2 ^ 53, 6)]⟩ }

theorem witness_LaunchesArePlaced_staging :
    let s := stages0 true
    (s.core 0).inst = some { inst0 with lrec := loop0 } ∧ (s.core 0).active = false ∧ loop0.textLen = 1 ∧
    loop0.text.toNat = 0x10000000000 ∧ (State.reset.core 0).active = false := by
  decide +kernel

theorem witness_InstancesAndLaunchesEnd :
    let ended (r : List Parked) : Core := { idle with seqs := ⟨(List.range 5).map (fun k => (k, { ended := true }))⟩, replay := r }
    let fail : Parked := { id := 1, va := 0x10000000000, cls := 1, eng := 4, cause := 9, bytes := [], size := 4, ctx := 0, owner := (1, 1), failed := true }
    let done (queue : Nat) (comp : W64) : State := { State.reset with tasks := { launches := [{ launch0 1 1 [] with
       queue := queue, started := true, retired := 1, compAddr := comp, compCtr := 0x8FFF, flags := 2, stopped := true }] } }
    let s (r : List Parked) : State := at_ (ended r) .s
    (((s []).core 0).inst = some inst0 ∧ ((s []).core 0).active = true ∧ ((s []).core 0).mode = .run ∧ ((s []).core 0).abandon = none ∧
      (∀ e : Eng, (((s []).core 0).seqs.get {} e.tag).ended = true) ∧ (s []).accs = [] ∧ inst0.tokens = [] ∧ (∀ k, k < 16 → ((s []).set k).state = 0)) ∧
    (((st .s).core 0).seqs.get {} 0 |>.ended) = false ∧ (((s [fail]).core 0).replay = fail :: [] ∧ fail.owner = (1, 1) ∧ fail.failed = true) ∧
    (let l := { launch0 1 1 [] with queue := 7, started := true, retired := 1, compAddr := 0, compCtr := 0x8FFF, flags := 2, stopped := true }
     (done 7 0).tasks.launches.find? (fun x => x.num = l.num) = some l ∧ l.desc = none ∧ launchDone (done 7 0) l = true) ∧
    launchDone (done 8 8) ((done 8 8).tasks.launches.headD (launch0 1 1 [])) = true ∧ (8 : W64).toNat % 16 ≠ 0 ∧
    launchDone (places0 none) (launch0 7 1 [⟨0, 0, 3, 0⟩]) = false ∧
    (let o (k : Nat) : State := { State.reset with tasks := { ovf := ⟨[(63, [child0])]⟩, pools := ⟨[(3, List.replicate k child0)]⟩ } }
     (o 959).tasks.ovf.get [] 63 = child0 :: [] ∧ 3 ∈ (o 959).tasks.live ∧ ((o 959).tasks.pools.get [] 3).length < 960 ∧
      960 ≤ ((o 960).tasks.pools.get [] 3).length) := by
  refine ⟨⟨by decide +kernel, by decide +kernel, by decide +kernel, by decide +kernel, fun e => by cases e <;> decide +kernel, ?_⟩, ?_⟩ <;> decide +kernel

theorem witness_InstancesAndLaunchesEnd_record :
    let l := { launch0 1 1 [] with compAddr := 0x10000000000, stopped := true }
    let e : TlbEnt := page0 true true
    l.compAddr.toNat % 16 = 0 ∧ e.w = true ∧ l.queue < 8 ∧ bitsOf 0x8FFF 15 1 = 1 ∧ bitsOf 0x7FFF 15 1 = 0 := by
  decide +kernel

/-- Context 0's tables map a page of 1 GiB at 2^40 to the start of main memory, where they lie themselves, under key slot 5. A loop
record lies at 2^40 + 0x3000. -/
def mapEnt : TlbEnt := { ctx := 0, va := 0x10000000000, bits := 30, pa := 2 ^ 43, r := true, w := true, x := true, layout := 0, key := 5 }
def loopRecord : List Byte := leBytes 12 0 ++ leBytes 4 1 ++ leBytes 16 0 ++ leBytes 4 1 ++ leBytes 1 0 ++ leBytes 1 1 ++ leBytes 1 1 ++ leBytes 1 4 ++
  leBytes 8 0x10000000000 ++ leBytes 4 1 ++ leBytes 12 0
def mapped0 (s : State) : State :=
  { s with mem := ⟨locate (2 ^ 60) (leBytes 8 (2 ^ 43 + 4096 + 1)) ++ locate (2 ^ 60 + 4096 + 16) (leBytes 8 (2 ^ 43 + 8192 + 1) ++ leBytes 8 0) ++
             locate (2 ^ 60 + 8192) (leBytes 8 (2 ^ 43 + 5 * 2 ^ 44 + 31)) ++ locate (2 ^ 60 + 0x3000) loopRecord⟩
           lineKey := ⟨[(2 ^ 53, 6), (2 ^ 53 + 32, 6), (2 ^ 53 + 64, 6), (2 ^ 53 + 96, 6)]⟩
           plinth := { s.plinth with keyVal := ⟨[(5, true)]⟩, ctxTab := ⟨[(5, 8), (8, 5), (0xB, 3), (0xD, 1), (0x14, 1), (0x28, 4)]⟩ } }

theorem witness_walk : walk (mapped0 State.reset) 0 0x10000000000 = some mapEnt ∧
    mapEnt.place (mapped0 State.reset) 0x10000000000 = (2 ^ 60, 5) := by decide +kernel

theorem witness_WorkInstructions_valid :
    let s := mapped0 (withS 0x10000003000 0)
    recValid s 0 loopRecord (recOf loopRecord 0) = true ∧
    released { s with accs := [{ id := 0, n := 0, eng := 0, cls := 3, eff := .counter 0 true 1 }] } 0 .s = false := by decide +kernel

theorem witness_LaunchesArePlaced_cost :
    let entry : QEntry := { recAddr := 0x10000003000 }
    let s := mapped0 { State.reset with tasks := { master := 0 }, plinth := { stage := 0xF, queues := ⟨[(0, { pend := [entry] })]⟩ } }
    let z := mapped0 { State.reset with tasks := { master := 0 }, plinth := { stage := 0xF, queues := ⟨[(0, { pend := [{ entry with recAddr := 1 }] })]⟩ } }
    (match readEntry s 0 entry with
      | .inr (r, t) => decide (r.est * r.trips * (t.steps * t.nd * ((t.nc + t.grain - 1) / t.grain)) = 1 ∧ t.grain = 1)
      | .inl _ => false) = true ∧
    ctxValid s 0 = true ∧ (s.queue 0).pend = entry :: [] ∧ readEntry z 0 { entry with recAddr := 1 } = .inl 2 ∧ ctxField s 0 0x14 1 = 1 ∧
    ({ entry with read := some (.inl 2) }).read ≠ none := by decide +kernel

theorem witness_LaunchesArePlaced_staged :
    let s := mapped0 (at_ { inst := some { inst0 with lrec := loop0 } } .s)
    let t := mapped0 (at_ { inst := some { inst0 with lrec := { loop0 with text := 0x18000000000 } } } .s)
    (walk s 0 (loop0.text.toNat + 4 * 0) = some mapEnt ∧ mapEnt.x = true ∧ s.poison.get false ((mapEnt.place s 0x10000000000).1 / 128) = false) ∧
    ((s.core 0).active = false ∧ (s.core 0).inst = some { inst0 with lrec := loop0 }) ∧
    (t.core 0).inst = some { inst0 with lrec := { loop0 with text := 0x18000000000 } } ∧ walk t 0 (0x18000000000 + 4 * 0) = none := by decide +kernel

theorem witness_InstancesAndLaunchesEnd_completion :
    let l := { launch0 1 1 [] with compAddr := 0x10000003000, compCtr := 0x8FFF, stopped := true }
    let s := mapped0 { State.reset with tasks := { launches := [l] } }
    s.tasks.launches.find? (fun x => x.num = l.num) = some l ∧ launchDone s l = true ∧ walk s l.ctx l.compAddr.toNat = some mapEnt ∧ mapEnt.w = true ∧
    l.queue < 8 ∧ l.compAddr.toNat % 16 = 0 := by decide +kernel

/-- R167: a younger store of another class passes an older one; R166: not once the core has seen the older one. -/
theorem test_stores_pass :
    let y (c : Bool) : Access := { store0 c with id := 1, cls := 4 }
    precededBy (withAccs [store0 false, y false]) (y false) true = false ∧
    precededBy (withAccs [store0 true, y true]) (y true) false = true ∧
    (seenByCore [store0 false, y false] (y false)).map (·.id) = [1, 0] := by decide +kernel

/-- R239: the second line of a copy reads byte 127 of the first, which the copy has overwritten. -/
theorem test_copy_overlap :
    let line (k : Nat) : Unit_ := .line (0x100002000 + 128 * k) 0 [(127, .loc (0x100001FFF + 128 * k) 0)] 0
    let o : CopyOp := { id := 3, cls := 1, ctx := 0, owner := (1, 1), units := [line 0, line 1] }
    let s : State := { State.reset with mem := ⟨[(0x100001FFF, 5), (0x10000207F, 6)]⟩ }
    (noteBefore s 0 o (line 0)).get none 0x10000207F = some 6 := by decide +kernel

theorem witness_DecodeInvertsEncode : (decode 0x0108000A#32).toOption = some (.addi 1 0 10) := by decide +kernel

theorem witness_VectorRandomNumbers : 2 ≤ (63#6).toNat := by decide

theorem witness_StopsAndResumptions :
    let drain : StopReq := { serves := (9, 0, 0), drain := true, since := 100, budget := 0x4000 }
    let check (k : Option (BitVec 32)) : StopReq := { drain := false, since := 100, k := k, index := 3 }
    let s (r : StopReq) (cc : BitVec 32) (accs : List Access) (cycle : Nat) : State := { at_ { idle with
      stopReq := some r, seqs := ⟨(List.range 5).map (fun k => (k, { cc := cc }))⟩, tileSt := ⟨[(15, .active)]⟩ } .s with accs := accs, cycle := cycle }
    let write (core : Bool) : Access := { id := 0, n := 0, eng := 0, cls := 0, atCore := core, eff := .write 0 [] }
    ((s drain 0 [] 16483).cycle < drain.since + drain.budget ∧ drain.since + drain.budget ≤ (s drain 0 [] 16484).cycle ∧
      ((s drain 0 [] 0).core 0).stopReq = some drain ∧ ((s drain 0 [] 0).core 0).mode ≠ .handler) ∧
    (((s (check none) 0 [] 0).core 0).inst = some inst0 ∧ ((s (check none) 0 [] 0).core 0).active = true ∧ ((s (check none) 0 [] 0).core 0).parked = none ∧
      inst0.overlay = false ∧ inst0.lrec.spTab = 0 ∧ (∀ a ∈ (s (check none) 0 [write true] 0).accs, a.n = 0 → a.atCore = true) ∧
      (∃ a ∈ (s (check none) 0 [write false] 0).accs, a.n = 0 ∧ a.atCore = false)) ∧
    (∀ e ∈ [Eng.s, .v, .m, .c, .f], (5#32).toNat ≤ (((s (check (some 5)) 5 [] 0).core 0).seqs.get {} e.tag).cc.toNat) ∧
    (((s (check (some 5)) 4 [] 0).core 0).seqs.get {} 0).cc.toNat < (5#32).toNat ∧
    ((s (check none) 0 [] 65635).cycle < (check none).since + ((s (check none) 0 [] 0).core 0).spdmax ∧
      (check none).since + ((s (check none) 0 [] 0).core 0).spdmax ≤ (s (check none) 0 [] 65636).cycle) ∧
    (((s (check none) 0 [] 0).core 0).tileSt.get .free 15 = .active ∧ ((s (check none) 0 [] 0).core 0).tileOwner.get 0 15 = inst0.ctx) := by
  refine ⟨by decide +kernel, ⟨by decide +kernel, by decide +kernel, by decide +kernel, by decide, by decide, by decide +kernel, ?_⟩, by decide +kernel,
    by decide +kernel, by decide +kernel, by decide +kernel⟩
  exact ⟨_, List.mem_singleton.2 rfl, rfl, rfl⟩

theorem witness_StopsAndResumptions_resume :
    let p : Stopped := { inst := inst0 }
    let s (p : Stopped) (copies : List CopyOp) : State := { at_ { parked := some p, copies := copies, tileSt := ⟨[(15, .held)]⟩ } .s with
      mem := ⟨[(0x100000000 + 63 * 0x10000 + 0x6D, 0x80)]⟩ }
    let word (s : State) (o k : Nat) : Nat := readNat s 0 (0x100000000 + 0 * 0x400000 + 63 * 0x10000 + o) k
    let o : CopyOp := { id := 0, cls := 0, ctx := 0, owner := (1, 1), units := [] }
    let wants : State := { s p [] with tasks := { launches := [launch0 7 0 [⟨0, 0, 0, 0⟩]] } }
    (((s p []).core 0).parked = some p ∧ ((s p []).core 0).spilled = [] ∧ ((s p []).core 0).inst = none ∧ newcomerFor (s p []) 0 1 = false ∧
      ((s p []).core 0).copies = [] ∧ (s p []).accs = [] ∧ p.inst.bind = none ∧ (word (s p []) 4 4).testBit 1 = false ∧
      (word (s p []) 4 4).testBit 3 = false ∧ (word (s p []) 0x6C 2).testBit 15 = true ∧ (word (s p []) 0x6E 2).testBit 15 = false ∧
      ((s p []).core 0).tileSt.get .free 15 = .held) ∧
    (((s p [o]).core 0).copies = [o] ∧ o.owner = (p.inst.launch, p.inst.placed)) ∧ newcomerFor wants 0 1 = true ∧
    ((s { p with escalated := true } []).core 0).parked = some { p with escalated := true } := by decide +kernel

theorem witness_ContextsAndQueues :
    let s := mapped0 { State.reset with plinth := { queues := ⟨[(16 * 0 + 0, { tail := 63, head := 63, nextSeq := 65535, check := some 5 })]⟩ }, cycle := 1050005 }
    let f (s : State) (o n : Nat) : Nat := ctxField s 0 o n
    let legal (s : State) : Bool := decide (f s 8 2 < 448 ∧ f s 0xA 1 < 4 ∧ f s 0xB 1 < 4 ∧ 1 ≤ f s 0xC 1 ∧ f s 0xC 1 ≤ 8 ∧ f s 0xE 2 < 4096) &&
      decide (f s 0xE 2 + f s 0x10 2 ≤ 4096 ∧ f s 0x12 1 < 64 ∧ f s 0x12 1 + f s 0x13 1 ≤ 64 ∧ f s 0x1C 4 = 0 ∧ f s 0x20 8 % 128 = 0) &&
      decide (4 ≤ f s 0x28 1 ∧ f s 0x28 1 ≤ 20 ∧ f s 0x29 7 = 0 ∧ f s 0x30 8 % 65536 = 0 ∧ f s 0x38 8 = 0)
    let d (counts first : Byte) : State := { State.reset with plinth := { ctxTab := ⟨[(0xC, 8), (0xE, 0xFF), (0xF, 0x0F), (0x10, counts), (0x12, first), (0x13, 1), (0x28, 20)]⟩ } }
    let q : State := { s with plinth := { s.plinth with ctxTab := ⟨[(0xB, 1), (0xC, 1)]⟩ } }
    let u := q.queue 0
    legal (d 1 63) = true ∧ legal (d 2 63) = false ∧ legal (d 1 64) = false ∧ ((d 1 63).plinth.ctxTab.get 0 0xB).getLsbD 0 = false ∧
    (s.plinth.ctxTab.get 0 0xB).getLsbD 0 = true ∧
    (ctxValid q 0 = true ∧ 0 < ctxField q 0 0x0C 1 ∧ ¬(ctxValid s 0 = true ∧ 0 < ctxField s 0 0x0C 1) ∧ u.halted = false ∧ u.head < 64 ∧ 1 ≤ u.nextSeq ∧
      u.nextSeq < 65536 ∧ u.tail < 64 ∧ u.check = some 5 ∧ 5 + 1050000 ≤ q.cycle ∧ ({ q with cycle := 1050004 }).cycle < 5 + 1050000) ∧
    (2 ∈ s.tasks.live ∧ 4 ∉ s.tasks.live ∧ s.tasks.live.Pairwise (· < ·) ∧ s.tasks.live ≠ []) := by decide +kernel

theorem witness_PlinthBlocks :
    let p : Plinth := { ltsLast := some 5 }
    let s (p : Plinth) (t c : Nat) : State := { State.reset with plinth := p, ftime := t, cycle := c }
    let refused (s : State) : Bool := s.plinth.ltsBusy || (match s.plinth.ltsLast with
      | some f => decide (s.ftime < f + 3600000000000)
      | none => false) || decide (2 ^ 20 ≤ s.plinth.ncommit)
    (refused (s p 3600000000004 0) = true ∧ refused (s p 3600000000005 0) = false ∧ refused (s { ncommit := 2 ^ 20 } 0 0) = true ∧
      refused (s { ltsBusy := true } 0 0) = true) ∧
    State.reset.plinth.powered = false ∧ ({ powered := true : Plinth }).powered = true ∧ State.reset.plinth.ltsBusy = false ∧
    (State.reset.plinth.pwrLim < 1501 ∧ ¬State.reset.plinth.pwrLim < 1500 ∧ [99, 100].any (fun y => 100 ≤ y) = true ∧ 110 ≤ [0, 0, 0, 110].getD 3 0) ∧
    ((s {} 0 1049999).cycle < (0 : Nat) + 1050000 ∧ 0 + 1050000 ≤ (s {} 0 1050000).cycle) ∧
    (let b : Bar2 := { base := 2 ^ 43, en := true, key := 511 }
     b.key < 512 ∧ b.base % 2 ^ 32 = 0 ∧ (2 ^ 32 - 1) + [0#8].length ≤ 2 ^ 32 ∧ (paLoc (b.base + (2 ^ 32 - 1))).isSome = true) := by decide +kernel

theorem witness_ReplayScrubAndQuoin :
    let p (k : Nat) : Parked := { id := k, va := 0x10000003000, cls := 1, eng := 4, cause := 9, bytes := [(0, 7)], size := 4, ctx := 0, owner := (1, 1) }
    let s (l : List Parked) (tlb : List TlbEnt) : State := mapped0 (at_ { idle with replay := l, tlb := tlb } .s)
    (((s [p 1, p 2] []).core 0).replay.filter (fun x => x.failed = false) = [p 1, p 2] ∧ (p 2).id > (p 1).id) ∧
    ((xlate (s [p 1] []) 0 0 0x10000003000).2 = some mapEnt ∧ (xlate (s [p 1] [{ mapEnt with w := false }]) 0 0 0x10000003000).2 = some { mapEnt with w := false } ∧
      (xlate (s [p 1] []) 0 0 0x18000000000).2 = none) ∧
    ((p 1).owner ≠ (0, 0) ∧ (∃ i ∈ ((s [] []).core 0).insts, (i.launch, i.placed) = (p 1).owner) ∧ ({} : Core).insts = []) ∧
    (let q : Parked := { p 2 with retry := true }
     ((s [p 1, q] [mapEnt]).core 0).replay = [p 1, q] ∧ ((s [p 1, q] [mapEnt]).core 0).tlb.find? (fun x => x.hits 0 0x10000003000) = some mapEnt) ∧
    (2 ^ 60 ≤ 2 ^ 60 + 2 ^ 43 - 1 ∧ 0x100000000 + 128 * 0x400000 + 0x100000 - 1 < 0x100000000 + 128 * 0x400000 + 0x100000) ∧
    (let r : Region := { base := 0, len := 4, write := true, eng := 0, count := 5, span := none }
     let past (v : BitVec 24) : Prop := (v - r.count).toNat < 2 ^ 23
     past 5 ∧ ¬past 4) := by
  refine ⟨by decide +kernel, by decide +kernel, ⟨by decide +kernel, ⟨inst0, by decide +kernel, rfl⟩, by decide +kernel⟩, by decide +kernel, by decide,
    by decide +kernel⟩

/-! ## States that meet the further hypotheses of the statements -/

theorem witness_PrefixesAreHeld_others :
    let s := seqAt { pfx := [5] } .s
    let x := { seqAt { pfx := [5] } .s with word := 0x00000002#32 }
    (s.q.pfx = 5 :: [] ∧ s.q.pfx ≠ []) ∧ (decode x.word).toOption = some (.mul 0 0 0) ∧ takesPrefix (.mul 0 0 0) = false ∧
    rteStop x = false ∧ heldTag x = false ∧ reservedHere x = false := by decide +kernel

theorem witness_StepRunsDecodedInstruction_turn :
    let s := fetch0 7
    let u : State := { begun s with phase := phaseAfter (begun s) 0 .s, curCore := 0, curEng := .s, defer := false }
    let u := u.setMe (u.me.turned .s)
    let v : State := { (u.notePc u.q.pc).notePc 7 with word := wordAt s 0 7 }
    inTurn s 0 .s = true ∧ deliverDue u = none ∧ textBusy u u.q.pc 8 = false ∧ rteStop v = false ∧ heldTag v = false ∧
    reservedHere v = false ∧ interlocked v 0 .s v.word = false := by decide +kernel

theorem witness_WordsThatAreNoInstruction_common :
    let bad : Word := 0xFF000000
    let s (cores : Core) (e : Eng) : State := { at_ cores e with word := bad }
    let come (s : State) : Prop := s.curEng = .s ∧
      ∀ p ∈ team s.curCore, (s.me.seqs.get {} p.tag).ended = true ∨ (s.me.seqs.get {} p.tag).pc = s.q.pc
    (rteStop (st .s) = false ∧ heldTag (st .s) = false ∧ reservedHere { st .s with word := 0xA0000000 } = true ∧
      reservedHere { service {} with word := 0x20000000 } = true) ∧
    ((decode bad).toOption = none ∧ fld bad 29 3 = 7 ∧ reservedHere (s idle .s) = false ∧ (s idle .s).q.pfx = [] ∧ (s idle .s).me.mode = .run ∧
      come (s idle .s) ∧ ¬come (s { idle with seqs := ⟨[(1, { pc := 9 })]⟩ } .s) ∧ ¬come (s idle .v)) := by decide +kernel

theorem witness_CommonWords_modes :
    (at_ { idle with mode := .stub } .s).me.mode = .stub ∧ (at_ (handling {}) .s).me.mode = .handler ∧
    (let c := { idle with seqs := ⟨[(0, { cc := 1 }), (1, { cc := 1 })]⟩, cwRec := [7] }
     c.cwBase + c.cwRec.length = (at_ c .s).q.cc.toNat ∧ (∀ p ∈ team 0, c.cwBase ≤ (c.seq p).cc.toNat) ∧
      ∃ p ∈ team 0, p ≠ .s ∧ (c.seq p).cc.toNat ≤ (at_ c .s).q.cc.toNat) ∧
    (at_ { idle with seqs := ⟨[(2, { cc := 1 })]⟩ } .s).q.cc.toNat + 1 < 2 ^ 32 := by decide +kernel

theorem witness_Awaits_held :
    let s := { posts0 [{ rel := [0] }] .s with accs := [store0 false], nextId := 4 }
    s.me.fifo 3 = { rel := [0] } :: [] ∧ queuedBefore s (WaitKind.takes 3) = false ∧ ({ rel := [0] : Post }).rel.any (pendingAt s true) = true ∧
    queuedBefore { at_ { idle with events := ⟨[(3, [{}])]⟩, seqs := ⟨[(0, { wait := some ⟨.await 3, 0, 0⟩ })]⟩ } .v with order := 1 }
      (WaitKind.takes 3) = true := by decide +kernel

theorem witness_WakesRunTheWaitingWord_timeout :
    let s := { wakes0 (.tawaitHeld 3 0) (.tawait 1 3) id with cycle := 1 }
    canIssue s 0 .s = true ∧ ((s.core 0).seq .s).wait = some ⟨.tawaitHeld 3 0, 0, 0⟩ ∧
    (decode (wordAt s 0 ((s.core 0).seq .s).pc)).toOption = some (.tawait 1 3) ∧ 0 < s.cycle ∧ (s.core 0).mode ≠ .handler := by decide +kernel

theorem witness_ScalarStores_parked :
    let none_ (e : Eng) : State := mapped0 (at_ { idle with sreg := ⟨[(1, 0x18000000000)]⟩, greg := ⟨[(49, 0x18000000000)]⟩ } e)
    let ro (e : Eng) : State := at_ { idle with sreg := ⟨[(1, 0x10000000000)]⟩, greg := ⟨[(49, 0x10000000000)]⟩, tlb := [page0 true false] } e
    Unhindered (none_ .s) ∧ Unhindered (ro .c) ∧ (none_ .c).gval 1 = 0x18000000000 ∧ (none_ .s).sval 1 = 0x18000000000 ∧
    (ro .c).me.tlb.find? (fun t => t.hits 0 0x10000000000) = some (page0 true false) ∧ (page0 true false).w = false ∧
    (none_ .c).me.tlb.find? (fun t => t.hits 0 0x18000000000) = none ∧ (none_ .c).shared.find? (fun t => t.hits 0 0x18000000000) = none ∧
    walk (none_ .c) 0 0x18000000000 = none := by
  exact ⟨unhindered_of rfl, unhindered_of rfl, by decide +kernel, by decide +kernel, by decide +kernel, by decide, by decide +kernel,
    by decide +kernel, by decide +kernel⟩

theorem witness_FencesAndTranslations_waits :
    let load : Access := { id := 0, n := 0, eng := 0, cls := 3, eff := .read (.sreg 1 8 true) [] }
    let own (s : State) (x : Access) : Prop := s.accs = [x] ∧ x.n = s.curCore ∧ x.eng = s.curEng.tag ∧ x.atCore = false ∧ x.no < s.nextId
    own (withAccs [store0 false]) (store0 false) ∧ own (withAccs [load]) load ∧ (1#3).toNat = 1 ∧ (0#2) ≠ 1 ∧
    (let c := { service {} with cores := ⟨[(128, { sreg := ⟨[(1, 64)]⟩ })]⟩ }
     64 ≤ (c.sval 1).toNat ∧ c.me.priv 128 = true) := by decide +kernel

theorem witness_AccessesArePerformed_parked :
    let s := withAccs [store0 false]
    parkedByte s 0 (s.core 0).owner .s 0x100000000 = none ∧ ([(0x100000000, (7 : Byte))].map (·.1)).Nodup ∧
    (∀ x ∈ s.accs, x.id ≠ 0 → x.n = 0 → x.eng = 0 → x.atCore = false → 0x100000000 ∉ x.bytes.map (·.1)) := by decide +kernel


theorem witness_LimitsRaiseTraps_service :
    let h := { service { active := true, fwHandler := true } with cycle := 65536 }
    let two := { at_ { idle with spdist := 0x10000, wdog := 256, seqs := ⟨[(1, { wait := some ⟨.await 3, 0, 0⟩ })]⟩ } .s with cycle := 256 }
    (h.me.fwHandler = true ∧ h.me.halted = false ∧ h.me.trapPend = none ∧ h.me.handlerSince + 65536 ≤ h.cycle ∧ drained h 128 = true) ∧
    (∀ p ∈ [Eng.s, .v, .m, .c, .f], overdue (at_ { idle with spdist := 0x10000 } .s) 0 p = none) ∧ overdue two 0 .v ≠ none := by decide +kernel

theorem witness_SystemInstructions_returns :
    (at_ { idle with mode := .stub, stubPc := 9 } .s).me.mode = .stub ∧ (service { fwHandler := true }).me.fwHandler = true ∧
    (service { fwHandler := true }).me.mode = .run := by decide +kernel

theorem witness_TileTransfers_commands :
    ({ tbusy := true, tjob := 0x4012 : Core }).tjob.getLsbD 4 = true ∧ ({ tbusy := true, tjob := 2 : Core }).tjob.getLsbD 4 = false ∧
    ¬(({ tbusy := true : Core }).inst = none ∧ ({ tbusy := true : Core }).tbusy = false) ∧ ¬(idle.inst = none ∧ idle.tbusy = false) ∧
    ¬(({ ctile := 0 : Core }).ctile.extractLsb' 14 2 = 1#2 ∨ ({ ctile := 0 : Core }).ctile.extractLsb' 14 2 = 2#2) := by decide +kernel

theorem witness_BankProducts_held :
    let s (core : Bool) : State := { at_ { idle with rings := ⟨[(1, { valid := true, size := 128, count := 1, slots := ⟨[(0, { tag := 1, x := 8 })]⟩ })]⟩ } .m with
      accs := [{ store0 core with eff := .write 0 [(0x100002004, 7)] }] }
    let ct : Count := ⟨0, 1, 0, 1, 1⟩
    let held (s : State) : Bool := countHeld s (some ct) || seenOver s 0 ((List.range 4).map (0x100002000 + 4 * 1 + ·))
    held (s true) = true ∧ held (s false) = false := by decide +kernel

theorem witness_CopyLinesAreWritten_order :
    let line : Unit_ := .line 0x100002000 0 [(0, .loc 0x100001000 0), (127, .const 8)] 0
    let s := (lines0 line [] true).1
    let o := (lines0 line [] true).2
    (lineLater s 0 o line = false ∧ lineLater { s with defer := true } 0 o line = true ∧ copyMay { s with defer := true } 0 o line = true) ∧
    copyMay { s with accs := [{ store0 true with eff := .write 0 [(0x10000207F, 7)] }] } 0 o line = false := by decide +kernel

theorem witness_FabricSends_range :
    let f : Fabric := { txmap := ⟨[(3, some tx0)]⟩ }
    let s := sends0 [0x1000, 0x300000000, BitVec.ofNat 64 (128 * 2)] f
    txFind s 0 0 = some (3, tx0) ∧ tx0.w + 2 ^ tx0.z < 0 + 128 * 2 ∧ tx0.loop = false ∧ tx0.dests.length = 1 ∧
    OwnAt s 0x1000 (128 * 2) 0x100001000 ∧ ¬({ tx0 with loop := true }.loop = false ∧ { tx0 with loop := true }.dests.length = 1) := by
  exact ⟨by decide +kernel, by decide, by decide, by decide, own_of rfl rfl (by decide), by decide⟩

theorem witness_PacketsAndTheFence_sealing :
    let d : Send := { send0 with st := 1, fibre := 3 }
    let s (f : Fabric) : State := { st .s with fabric := f, plinth := { keyVal := ⟨[(448, true)]⟩ } }
    let sealed : Fabric := { near0 with seal_ := true, lkey := ⟨[(448, { peer := 1 })]⟩ }
    (({ near0 with sends := [d] }).sends.find? (fun y => y.id = d.id ∧ y.st = 1 ∧ y.load.isAck = false ∧ y.fwd = none) = some d ∧
      ({ near0 with sends := [d] }).sends.find? (fun y => y.id = d.id ∧ y.st = 1 ∧ y.loopb = false) = some d) ∧
    (keyValid (s sealed) 448 = true ∧ (sealed.lkey.get {} 448).peer.toNat = d.dev ∧
      (∀ k ∈ sealed.lkey.keys, keyValid (s { sealed with lkey := {} }) k = true → (({} : Sparse LinkKey).get {} k).peer.toNat ≠ d.dev)) ∧
    ((near0.fibres.get {} 3).deafAt = none ∧ (({ up := true, deafAt := some 5 : Fibre })).deafAt = some 5 ∧ 10000005 ≤ 5 + 10000000 ∧
      5 + 10000000 < 10000006) ∧
    (∀ y ∈ [d], y.fwd = none ∧ ∃ o op en bs, y.load = .line o op en bs) ∧
    arrivalHeld { s { rxwin := ⟨[(2, some { base := 0x100000000 })]⟩ } with accs := [store0 true] } 2 0 = true := by
  refine ⟨by decide +kernel, by decide +kernel, by decide +kernel, fun y h => ?_, by decide +kernel⟩
  rw [List.mem_singleton.1 h]; exact ⟨rfl, _, _, _, _, rfl⟩

theorem witness_FabricArrivals_held :
    let w : RxWin := { base := 0x100001000 }
    let s := hears0 (some w) [] {}
    arrivalHeld s 2 0 = false ∧ arrivalHeld { s with accs := [{ store0 true with eff := .write 0 [(0x10000107F, 7)] }] } 2 0 = true ∧
    (let r (x : Part) : Red := { win := 2, seq := 255, part := some x }
     let x : Part := { core := 0, owner := (1, 1), acc := 3, ctx := 0, cls := 1, op := 1, level := 11, pos := 0, v := List.replicate 32 1
                       owners := ⟨[(0, 1), (2048, 10)]⟩, ended := false }
     x.bad = 0 ∧ x.told = false ∧ (hears0 none [r x] {}).fabric.reds.find? (fun r => r.win = 2 ∧ r.seq = 255) = some (r x) ∧
      (hears0 none [r { x with ended := true }] {}).fabric.sends = []) ∧
    ((2, 255) ∈ ({ gone := [(2, 255)] } : Fabric).gone ∧ (2, 255) ∉ ({} : Fabric).gone) ∧
    (let u : State := { hears0 none [] {} with fabric := { fibres := ⟨[(64, { up := true })]⟩, seal_ := true } }
     u.fabric.seal_ = true ∧ (u.fabric.fibres.get {} 64).up = true ∧ (hears0 none [] {}).fabric.seal_ = false) := by decide +kernel

theorem witness_SlotsAndGroup_fibres :
    let f : Fabric := { quiesce := false, fibres := ⟨[(3, { retrain := true })]⟩ }
    f.retraining = false ∧ (f.fibres.get {} 3).retrain = true ∧ (f.fibres.get {} 3).paused = false ∧
    (¬∃ x, ({} : Fabric).rot = some x ∧ x.running = true) ∧ ({ sends0 [0, 0] {} with fabric := { slotUsr := 64 } }).stk = 0 :: 0 :: [] := by
  exact ⟨rfl, by decide +kernel, by decide +kernel, (fun h => by obtain ⟨x, hx, -⟩ := h; cases hx), rfl⟩

theorem witness_RingHeaters_whole :
    let whole (f : Fabric) : Prop := ∀ w, w < 16 → ((List.range 17).filter (fun n => (f.ring 3 n).en && decide ((f.ring 3 n).lambda.toNat = w))).length = 1
    whole {} ∧ ¬whole { rings := ⟨[(32 * 3 + 1, { touched := true })]⟩ } := by decide +kernel

theorem witness_SliceSets_places :
    let s (x : W64) : State := withS x 0
    let b := setBlock 0 0 64 128 0x7F7FFFFF 0xFFFFFFFF 0x1FFE0
    ((s 0x300000000).sval 1).toNat % 32 = 0 ∧ 0x300000000 ≤ ((s 0x3FFFFFFE0).sval 1).toNat ∧ ((s 0x3FFFFFFE0).sval 1).toNat < 0x400000000 ∧
    released { opens0 b {} with accs := [store0 false], nextId := 4 } 0 .s = false ∧ Holds (opens0 b {}) 0 0x100001000 b ∧
    OwnAt (opens0 b {}) 0x1FFE0 1 0x10001FFE0 := by
  exact ⟨by decide +kernel, by decide +kernel, by decide +kernel, by decide +kernel, by unfold Holds; decide +kernel, own_of rfl rfl (by decide)⟩

theorem witness_Combine_rows :
    let x (e : Nat) : SliceSet := { seeded0 (set0 1 false) { fine := 1, fg := 1 } with tabEnd := e, tabVa := 0x2000 }
    let s (e : Nat) (row : List Byte) : State := { combines0 (x e) 0x10F00 with
      mem := ⟨((List.range 4).flatMap (fun m => locate (0x100002000 + 32 * m) row)).filter (fun e => e.2 ≠ 0)⟩ }
    let odd := leBytes 8 0x3000 ++ leBytes 8 0x3001 ++ leBytes 8 0x3000 ++ leBytes 8 0x3000
    let row (m j : Nat) : Nat := readNat (s 0x100020000 odd) 0 (0x100002000 + 32 * (m % 4) + 8 * j) 8
    ((s 0x100020000 odd).set 2).tab + 32 * (1 % 4) + 32 ≤ ((s 0x100020000 odd).set 2).tabEnd ∧
    [row 1 3, row 1 1, row 1 2, row 2 0].find? (fun v => v % 4 ≠ 0) = some 0x3001 ∧
    ((s 0x100002010 odd).set 2).tabEnd < ((s 0x100002010 odd).set 2).tab + 32 * (1 % 4) := by decide +kernel

theorem witness_WorkInstructions_spaces :
    ((withS 0x300000000 0).sval 1).toNat % 64 = 0 ∧ ((withS 0x3FFFFFFC0 0).sval 1).toNat < 0x400000000 ∧
    releasedAll (mapped0 (withS 0x10000003000 0)) 0 .s = true ∧
    releasedAll { withAccs [{ store0 false with cls := 15 }] with curCore := 0 } 0 .s = false ∧
    oldestRunning { State.reset with tasks := { launches := [{ launch0 1 1 [] with started := true }] } } = some 1 := by decide +kernel

theorem witness_InstancesAndLaunchesEnd_moves :
    let o : State := { State.reset with tasks := { ovf := ⟨[(5, [child0]), (63, [child0])]⟩ } }
    o.tasks.ovf.get [] 63 = child0 :: [] ∧ (∃ y ∈ o.tasks.ovf.keys, y < 63) ∧ ∀ y ∈ o.tasks.ovf.keys, 5 ≤ y := by decide +kernel

theorem witness_StopsAndResumptions_cut :
    let r : StopReq := { drain := false, since := 0, cut := true, k := some 0 }
    let s : State := { at_ { idle with mode := .stub, stopReq := some { r with cut := false }, stubPc := 3 } .s with cycle := 65536 }
    (({ idle with stopReq := some r } : Core).stopReq = some r ∧ r.cut = true) ∧
    (s.me.mode = .stub ∧ s.me.stopReq = some { r with cut := false } ∧ s.me.inst = some inst0 ∧ s.me.active = true ∧ s.me.trapPend = none ∧
      s.me.abandon = none ∧ s.me.parked = none ∧ 0 + s.me.spdmax ≤ s.cycle ∧ s.accs = []) := by decide +kernel

theorem witness_ContextsAndQueues_fence :
    let s (a b : Nat) : State := { State.reset with tasks := { pools := ⟨[(0, List.replicate a child0), (1, List.replicate b child0)]⟩ } }
    (1 ∈ (s 0 0).tasks.live ∧ (s 0 0).tasks.live.filter (fun y => y ≠ 1) = [0, 2, 3] ∧
      ((s 1000 24).tasks.pools.get [] 1).length ≤ 1024 - ((s 1000 24).tasks.pools.get [] 0).length ∧
      1024 - ((s 1000 25).tasks.pools.get [] 0).length < ((s 1000 25).tasks.pools.get [] 1).length ∧ 1024 - 1000 = 24) ∧
    ({ live := [1] : Tasks }).live.filter (fun y => y ≠ 1) = [] ∧ ({ stage := 0xE : Plinth }).stage = 0xE ∧
    ({ stage := 0xF : Plinth }).stage ≠ 0xE ∧ ({ check := some 5 : Queue }).check ≠ none := by decide +kernel

theorem witness_PlinthBlocks_host :
    let p : Plinth := { stage := 0xE, mailbox := ⟨[(0, 1)]⟩ }
    let s : State := { State.reset with plinth := p }
    s.plinth.stage = 0xE ∧ leNat ((List.range 4).map (fun i => s.plinth.mailbox.get 0 i)) = 1 ∧ State.reset.plinth.stage ≠ 0xE ∧
    image0.place + image0.image.length ≤ 0x100000 ∧ ({ image0 with place := 0x100000 - 8 }).place + 8 ≤ 0x100000 := by decide +kernel

theorem witness_ReplayScrubAndQuoin_held :
    let p : Parked := { id := 1, va := 0x10000003000, cls := 3, eng := 0, cause := 9, bytes := [(0, 7)], size := 1, ctx := 0, owner := (0, 0), issued := 2 }
    let s : State := { mapped0 (at_ { idle with replay := [p] } .s) with accs := [store0 false] }
    let r : Region := { base := 0, len := 4, write := true, eng := 0, count := 5, span := none }
    writeHeld s 0 p = true ∧ writeHeld { s with accs := [] } 0 p = false ∧
    (∀ e ∈ team 128, e.tag ≠ r.eng → e = .c) ∧ (0x100000000 ≤ 0x100000000 + 128 * 0x400000 + 0xFFFFF) := by decide +kernel

/-- R143: with n = 1, three arrivals join three generations; with n = 2, the second fills the first's. -/
theorem test_barrier_generations :
    ((({} : Barrier).arrive 1).2.1, ((({} : Barrier).arrive 1).1.arrive 1).2.1, (((({} : Barrier).arrive 1).1.arrive 1).1.arrive 1).2.1) = (0, 1, 2) ∧
    ((({} : Barrier).arrive 2).1.arrive 2).2.1 = 0 := by decide +kernel

/-- R331: an S that holds a prefix has its saved pc at the prefix. -/
theorem test_cut_goes_to_prefix : (({ pc := 9, pfx := [5], pfxPc := 7 } : SeqState).cut .s).pc = 7 := by decide +kernel

theorem witness_WordsThatAreNoInstruction_service :
    let s : State := { service { fwHandler := true } with word := 0xFF000000 }
    rteStop s = false ∧ heldTag s = false ∧ reservedHere s = false ∧ fld s.word 29 3 = 7 ∧ s.q.pfx = [] ∧
    (match decode s.word with
      | .error .illegal => true
      | _ => false) = true ∧ s.me.fwHandler = true ∧ s.me.mode = .run := by decide +kernel

theorem witness_CommonWords_fence :
    let s (pc : Nat) : State := at_ { idle with seqs := ⟨[(1, { pc := pc, wait := some ⟨.rfence, 0, 0⟩ })]⟩ } .s
    let there (s : State) (p : Eng) : Prop :=
      (s.me.seq p).wait.any (fun w => w.kind = .rfence) = true ∧ (s.me.seq p).cc = s.q.cc ∧ (s.me.seq p).pc = s.q.pc
    there (s 0) .v ∧ ¬there (s 5) .v ∧ Eng.v ∈ team (s 5).curCore := by decide +kernel

/-- Set 1 has been opened by core 0's instance, and its final slice 0 has an undelivered fault. -/
def due0 (s : State) : State :=
  { s with slices := ⟨[(1, { state := 1, opener := (0, 1, 1), w := 2, h := 2, p := 1
                             slices := ⟨[(0, { frec := some ⟨0x12, 0, 0, 0, 0, 0, false, false⟩ })]⟩ })]⟩ }

theorem witness_WakesRunTheWaitingWord_due :
    let s := wakes0 (.await 3) (.await 3) id
    let y := wakes0 (.tawait 3 0) (.tawait 1 3) (fun c => c)
    deliverDue (s.as 0 .s) = none ∧ (deliverDue ((due0 s).as 0 .s)).isSome = true ∧ canIssue (due0 s) 0 .s = true ∧
    ((due0 s).core 0).seq .s = (s.core 0).seq .s ∧ (deliverDue ((due0 y).as 0 .s)).isSome = true ∧ (y.core 0).mode ≠ .handler := by
  decide +kernel

theorem witness_FencesAndTranslations_engine :
    let s := withAccs [store0 false]
    s.me.mode ≠ .handler ∧ s.me.replay = [] ∧ fenceHeld s (8#16).getLsbD 0 0 s.fenceMark = false ∧ s.accs[0]? = some (store0 false) ∧
    (store0 false).n = s.curCore ∧ (store0 false).eng = s.curEng.tag ∧ (8#16).getLsbD (store0 false).cls = true ∧ (store0 false).fencedAt = none ∧
    (store0 true).fencedAt = none := by decide +kernel

theorem witness_AccessesArePerformed_fenced :
    let x : Access := { store0 false with fencedAt := some 2 }
    let a : Access := { store0 false with id := 3, cls := 0 }
    let s := withAccs [x, a]
    s.accs.find? (fun y => y.id = a.id) = some a ∧ x ∈ s.accs ∧ x.n = a.n ∧ x.eng = a.eng ∧ x.atCore = false ∧ x.no < a.no ∧
    x.fencedAt.any (fun m => decide (m ≤ a.no)) = true ∧ (0x100000000 : Nat) ∈ a.bytes.map (·.1) ∧ (0x100000000 : Nat) ∈ x.bytes.map (·.1) := by
  decide +kernel

theorem witness_TakingATrap_lower :
    let two : State := { at_ { idle with wdog := 256, seqs := ⟨[(0, { wait := some ⟨.await 3, 0, 0⟩ })]⟩ } .v with cycle := 256 }
    let far : State := at_ { idle with spdist := 0x10000 } .v
    ((overdue two 0 .s).isSome = true ∧ Eng.s ∈ team 0 ∧ Eng.s.tag < Eng.v.tag ∧ (∀ x ∈ team 0, x.tag < Eng.s.tag → overdue two 0 x = none)) ∧
    (tooFar far 0 = some .s ∧ ∀ x ∈ team 0, x.tag < Eng.v.tag → overdue far 0 x = none) ∧ tooFar (st .v) 0 = none := by decide +kernel

theorem witness_TileTransfers_held :
    let held (s : State) (loc : Nat) : Prop := ∃ x ∈ s.accs, x.n = s.curCore ∧ (x.eng = 2 ∨ x.atCore = true) ∧ ∃ b ∈ x.bytes, loc ≤ b.1 ∧ b.1 < loc + 4096
    let s (l : List Access) : State := { privileged0 [0] {} with accs := l }
    (s []).me.priv (s []).curCore = true ∧ (s []).stk = 0 :: [] ∧ (s []).me.detmode = false ∧ held (s [store0 true]) 0x100000000 ∧ ¬held (s []) 0x100000000 ∧
    ¬held (s [store0 false]) 0x100000000 ∧ held (s [{ store0 false with eng := 2 }]) 0x100000000 := by decide +kernel

theorem witness_CopyLinesAreWritten_comb :
    let es : List (Nat × (Nat × Nat) × (Nat × Nat) × (Nat × Nat)) :=
      [(0, (0x100001000, 0), (0x100001080, 0), (0x100001100, 0)), (124, (0x10000107C, 0), (0x1000010FC, 0), (0x10000117C, 0))]
    let u : Unit_ := .comb 0x100002000 0 0x2000 none false es
    let r : Report := { set := 2, opened := 1, n := 1, part := 0, settled := false }
    let o : CopyOp := { (lines0 u [] false).2 with report := some r }
    let s : State := at_ { idle with copies := [o] } .s
    (s.core 0).copies = [o] ∧ copyMay s 0 o u = true ∧ (∀ a ∈ u.reads, s.poison.get false (a / 128) = false) ∧ (0x100002000 : Nat) % 128 = 0 ∧
    isMain (0x100002000 + 127) = false ∧ (es.map (·.1)).Nodup ∧ (∀ e ∈ es, e.1 % 4 = 0 ∧ e.1 < 128) ∧ o.count = none ∧
    ¬∀ a ∈ u.reads, ({ s with poison := ⟨[(0x100001080 / 128, true)]⟩ } : State).poison.get false (a / 128) = false := by decide +kernel

theorem witness_FabricSends_slip :
    let s : State := { sends0 [0x1000, 0x300000000, BitVec.ofNat 64 (128 * 1)] { txmap := ⟨[(3, some tx0)]⟩ } with accs := [store0 false] }
    let p : State := s.setMe { s.me with seqs := ⟨[(0, { ended := true, crel := [[0]] }), (4, { acq := [0] })]⟩ }
    slipHeld p (fun c => c = tx0.cls) = true ∧ slipHeld s (fun c => c = tx0.cls) = false ∧ (bulkOps p p.curCore).length < 16 ∧
    txFind p 0 0 = some (3, tx0) ∧ p.stk = s.stk := by decide +kernel

theorem witness_PacketsAndTheFence_queue :
    let b := bulk0
    let f : Fabric := { near0 with sends := [], bulks := [b] }
    let gone : State := { st .s with fabric := { f with txmap := {} } }
    let line : CopyOp := { id := 3, cls := 1, ctx := 0, owner := (1, 1), units := [.tx 0 tx0 [] 0] }
    let far : TxMap := { tx0 with dests := [(b.dev, 2)] }
    let copying : State := { at_ { idle with copies := [{ line with units := [.tx 0 far [] 0] }] } .s with fabric := f }
    (f.sends.find? (fun y => y.id = b.id ∧ y.st = 0) = none ∧ (∀ y ∈ f.sends, y.dev = b.dev → y.st ≠ 0) ∧
      (∀ y ∈ f.bulks, y.queued = false → y.lines ≠ 0 → y.st = 0 → ∀ z ∈ y.ver.dests, z.1 ≠ b.dev)) ∧
    (gone.fabric.txmap.get none b.idx = none ∧ copyFor gone b.dev = false ∧ gone.fabric.quiesce = false ∧ gone.fabric.retraining = false ∧
      gone.fabric.slotMode = false) ∧
    copyFor copying b.dev = true ∧ { gone.fabric with quiesce := true }.quiesce = true ∧
    (far.ctx = b.ctx ∧ far.dests = [(b.dev, 2)]) := by decide +kernel

theorem witness_PacketsAndTheFence_deaf :
    let d : Send := { send0 with st := 1, fibre := 3 }
    let f : Fabric := { near0 with sends := [d], fibres := ⟨[(3, { up := true }), (64, { up := true }), (65, { up := true, paused := true })]⟩ }
    ((f.fibres.get {} 64).paused = false ∧ (f.fibres.get {} 64).up = true ∧ (f.fibres.get {} 65).paused = true ∧ (f.fibres.get {} 66).up = false) ∧
    f.sends.find? (fun y => y.id = d.id ∧ y.st = 1 ∧ y.load.isAck = false ∧ y.fwd = none) = some d := by decide +kernel

theorem witness_PacketsAndTheFence_elsewhere :
    let s (pc : Nat) : State := at_ { idle with seqs := ⟨[(1, { pc := pc, wait := some ⟨.rfence, 0, 0⟩ })]⟩ } .s
    let elsewhere (s : State) : Prop := ∃ p ∈ team s.curCore, p ≠ s.curEng ∧ (s.me.seq p).wait.any (fun w => w.kind = .rfence) = true ∧
      (s.me.seq p).cc = s.q.cc ∧ (s.me.seq p).pc ≠ s.q.pc
    (s 5).me.mode = .run ∧ elsewhere (s 5) ∧ ¬elsewhere (s 0) ∧ (s 0).me.replay = [] ∧
    (s 0).me.cwRec[(s 0).q.cc.toNat - (s 0).me.cwBase]? = none := by decide +kernel

theorem witness_FabricArrivals_main :
    let w : RxWin := { base := 0x10000000000 }
    let s := mapped0 (hears0 (some w) [] {})
    (arrivalHeld s 2 0 = false ∧ s.fabric.rxwin.get none 2 = some w ∧ w.off = false ∧ w.bound = false ∧ 0x10000000000 ≤ w.base.toNat ∧ 0 + 128 ≤ 2 ^ w.z) ∧
    (walk s w.ctx w.base.toNat = some mapEnt ∧ mapEnt.w = true ∧ { mapEnt with w := false }.w = false ∧ walk s w.ctx 0x18000000000 = none) ∧
    mapEnt.place s w.base.toNat = (2 ^ 60, 5) ∧ mainBase ≤ 2 ^ 60 ∧ 5 ≠ deadKey ∧ 2 ^ 60 % 128 = 0 ∧ s.lineKey.get 0 (2 ^ 60 / 128) = 5 + 1 ∧
    (List.range 128).Nodup := by decide +kernel

theorem witness_FabricArrivals_kept :
    let s : State := { hears0 none [] {} with fabric := { fibres := ⟨[(64, { up := true })]⟩, seal_ := true } }
    (∀ e ∈ s.fabric.refused, e.2.2 ≠ 0) ∧ s.fabric.reds.find? (fun r => r.win = 2 ∧ r.seq = 255) = none ∧ s.fabric.seal_ = true ∧
    { s.fabric with refused := [(2, 255, 4)] }.refusedWith 2 255 = 4 ∧ s.fabric.refusedWith 2 255 = 0 := by decide +kernel

theorem witness_InstancesAndLaunchesEnd_forestalled :
    let p : Parked := { id := 1, va := 0x10000003000, cls := 3, eng := 1, cause := 9, bytes := [(0, 7)], size := 1, ctx := 0, owner := (1, 1), issued := 2, failed := true }
    let s : State := { at_ { idle with wdog := 256, replay := [p], seqs := ⟨[(0, { wait := some ⟨.await 3, 0, 0⟩ }), (1, { ended := true })]⟩ } .s with cycle := 256 }
    (forestalled s 0 (Eng.ofTag p.eng)).isSome = true ∧ forestalled { s with cycle := 255 } 0 (Eng.ofTag p.eng) = none ∧
    (p.owner = (inst0.launch, inst0.placed) ∧ p.failed = true ∧ ((s.core 0).seqs.get {} p.eng).ended = true) ∧ (s.core 0).replay = p :: [] := by
  decide +kernel

theorem witness_ContextsAndQueues_halt :
    let u : Queue := { tail := 1, check := some 0 }
    let s (num : Byte) : State := { State.reset with
      cycle := 1050000
      plinth := { ctxTab := ⟨[(0xB, 1), (0xC, 1)]⟩, qentry := ⟨[(0x3E, num)]⟩, queues := ⟨[(0, u)]⟩ } }
    let one : Queue := { u with head := 1, nextSeq := 2, check := none, pend := [entryOf (slotBytes (s 1) 0 0 0)] }
    (ctxValid (s 1) 0 = true ∧ 0 < ctxField (s 1) 0 0x0C 1 ∧ u.halted = false ∧ u.head < 64 ∧ u.nextSeq = 1 ∧ 0 + 1050000 ≤ (s 1).cycle) ∧
    Consumes (s 1) 0 0 1 u one ∧ Consumes (s 9) 0 0 0 u { u with nextSeq := 1, check := some 0 } := by
  unfold Consumes; decide +kernel

theorem witness_RingHeaters_reading :
    let x : OptRing := { mon := 7, monAt := 100 }
    let f : Fabric := { rings := ⟨[(32 * 3 + 1, x)]⟩ }
    f.monRead 1099 3 1 = 7 ∧ 1099 < x.monAt + 1000 ∧ ¬1100 < x.monAt + 1000 := by decide +kernel

theorem witness_SliceSets_table :
    let b := setBlock 0 0 64 128 0 0 0x3FFFE0
    Holds (opens0 b {}) 0 0x100001000 b ∧ (0x3FFFE0 : Nat) % 32 = 0 ∧ (0x3FFFE0 : Nat) < 0x400000 ∧
    inst0.units * 0x10000 < 0x3FFFE0 ∧ released (opens0 b {}) 0 .s = true := by unfold Holds; decide +kernel

theorem witness_ScalarStores_transmit :
    ((at_ { idle with greg := ⟨[(32 * 3 + 1, 0x3FFFFFFF8)]⟩ } .c).curEng = .c) ∧
    (0x3FFFFFFF8 : Nat) % 8 = 0 ∧ 0x300000000 ≤ (0x3FFFFFFF8 : Nat) ∧ (0x3FFFFFFF8 : Nat) < 0x400000000 := by decide +kernel

theorem witness_Barriers_left :
    let w (pc : Nat) : BarWait := { unit := 3, gen := 0, differs := false, pc := pc }
    let s : State := at_ { idle with inst := some { inst0 with barw := [w 0, w 7] } } .s
    s.bars = [w 0, w 7] ∧ s.barw = some (3, 0, false) := by decide +kernel

/-- R66, R68: what an ended sequencer left pending holds what follows it by slip. -/
theorem test_slip_holds :
    let s : State := { at_ { idle with seqs := ⟨[(0, { ended := true, crel := [[0]] }), (1, { acq := [0] })]⟩ } .v with accs := [store0 false] }
    slipHeld s (fun _ => true) = true ∧ slipHeld { s with accs := [store0 true] } (fun _ => true) = false := by decide +kernel

/-- R338: an overdue sequencer of lower tag takes the trap that the other raises. -/
theorem test_lower_tag_traps :
    let two : State := { at_ { idle with wdog := 256, seqs := ⟨[(0, { wait := some ⟨.await 3, 0, 0⟩ })]⟩ } .v with cycle := 256 }
    ((raise two 0 .v 1 0 false).core 0).trapCause = 0x17 ∨ (((raise two 0 .v 1 0 false).core 0).trapPend.map (·.cause)) = some 0x17 := by
  decide +kernel

/-! ## Stops, clocks and parked bytes -/

/-- A LOOPK that V has passed is taken back at the cut before it, and at that LOOPK (R76, R77). -/
theorem test_rrb_at_the_cut :
    let s : State := { at_ { idle with rrb := 3, seqs := ⟨[(1, { cc := 2 })]⟩, cwRec := [9, 4] } .s with imem := ⟨[(4, 0xE2800005#32), (9, 0xE0000000#32)]⟩ }
    rrbAt s 0 2 false = 3 ∧ rrbAt s 0 1 false = 2 ∧ rrbAt s 0 0 false = 2 ∧ rrbAt s 0 2 true = 2 ∧ rrbAt s 0 3 true = 3 := by decide +kernel

/-- Bit 0 of m live names nothing (R77). -/
theorem test_live_m0 : (liveOf (leBytes 16 0 ++ [0xFF] ++ leBytes 15 0) 0).m = 0xFE := by decide +kernel

/-- The first clock on a slot is taken as it is, a further one merges; a slot without one teaches nothing (R103). -/
theorem test_slot_clock : (({} : Slot).deposit ⟨1, 0x900000, 0, 0, 0⟩).clk = some ⟨1, 0x900000, 0, 0, 0⟩ ∧
    (({} : Slot).deposit ⟨1, 2, 0, 0, 0⟩ |>.deposit ⟨0, 3, 0, 0, 0⟩).clk = some ⟨1, 3, 0, 0, 0⟩ ∧
    Clk.learn ⟨0, 0x900000, 0, 0, 0⟩ none = ⟨0, 0x900000, 0, 0, 0⟩ := by decide +kernel

theorem witness_FabricRings_clock :
    let r (j : Slot) : Ring := { valid := true, base := 256, size := 128, count := 4, slots := ⟨[(0, j)]⟩ }
    ((r {}).slot 0).clk = none ∧ ((r { clk := some ⟨1, 2, 3, 4, 5⟩ }).slot 0).clk = some ⟨1, 2, 3, 4, 5⟩ := by decide +kernel

/-- A whole line written before, pending or parked with an instance that has stopped, clears the poison for its own reader alone
(R164, R167). -/
theorem test_poison_seen :
    let whole : List (Nat × Byte) := locate 0x100000000 (List.replicate 128 7)
    let s (l : List Access) : State := { withAccs l with poison := ⟨[(0x100000000 / 128, true)]⟩ }
    let line (bs : List (Nat × Byte)) : Access := { store0 false with eff := .write 0 bs }
    poisonSeen (s []) 0 (1, 1) .s (0x100000000 / 128) = true ∧ poisonSeen (s [line whole]) 0 (1, 1) .s (0x100000000 / 128) = false ∧
    poisonSeen (s [line whole]) 0 (1, 1) .c (0x100000000 / 128) = true ∧ poisonSeen (s [line (whole.take 127)]) 0 (1, 1) .s (0x100000000 / 128) = true := by
  decide +kernel

/-- A stopped instance's parked write, saved with it, is what its background copy finds (R167). -/
theorem test_parked_with_its_instance :
    let p : Parked := { id := 1, va := 0x10000000000, cls := 0, eng := 3, owner := (1, 1), ctx := 0, issued := 1, bytes := [(0, 9)], cause := 8, size := 0 }
    let s := mapped0 (at_ { active := true, parked := some { inst := inst0, replay := [p] } } .c)
    parkedByte s 0 (1, 1) .c (2 ^ 60) = some (1, 9) ∧ parkedByte s 0 (2, 1) .c (2 ^ 60) = none := by decide +kernel

/-- A serialised issue waits one cycle for its bank (R175, R176). -/
theorem test_nwait : (countSerial (st .v) 0 4 8).me.nwait = 1 ∧ (countSerial (st .v) 0 4 9).me.nwait = 0 := by decide +kernel

theorem witness_BankProducts_limits :
    let s (w x d : W64) : State := withStack [w, 1, 32, 3, x, d] .m
    (s 0xFFFFFFFFFF 0 0).stk = 0xFFFFFFFFFF :: 1 :: 32 :: 3 :: 0 :: 0 :: [] ∧ (0xFFFFFFFFFF : W64).toNat < 0x10000000000 ∧
    (0x10000000000000 : W64).toNat = 0x10000000000000 ∧ 0x400000 ≤ (0x400000 : W64).toNat ∧ 0x400000 ≤ (0x1400000 : W64).toNat % 2 ^ 24 ∧
    ¬0x400000 ≤ (0x13FFFFC : W64).toNat % 2 ^ 24 ∧ (16385 : W64).toNat > 16384 ∧ (65568 : W64).toNat > 65536 := by decide +kernel

/-! ## The TLB -/

theorem witness_FencesAndTranslations_dropped :
    let i : Tlbi := { id := 7, core := 0, kind := 2, ctx := 0, va := 0 }
    let s : State := { withAccs [{ store0 false with eff := .write 5 [(2 ^ 60, 7)] }] with tlbis := [i], dropped := [mapEnt] }
    s.tlbis.find? (fun x => x.id = i.id) = some i ∧ i.hits mapEnt = true ∧ mapEnt ∈ s.dropped ∧ (∃ a ∈ usedLocs s, mapEnt.covers a = true) := by
  exact ⟨by decide +kernel, by decide +kernel, by decide +kernel, 2 ^ 60, by decide +kernel, by decide +kernel⟩

/-! ## The fabric -/

theorem witness_PacketsAndTheFence_passed_on :
    let d : Send := { send0 with fwd := some (9, 64) }
    let s (f : Fabric) : State := { st .s with fabric := f }
    let near : Fabric := { near0 with sends := [d] }
    near.sends.find? (fun y => y.id = d.id ∧ y.st = 0) = some d ∧ d.loopb = false ∧ sendBlocked (s near) d = false ∧ near.isDirect d.dev = true ∧
    near.pathFor d.dev 0 = some 3 ∧ (near.fibres.get {} 3).failed = false ∧ (near.fibres.get {} 3).paused = false ∧ (near.fibres.get {} 3).up = true ∧
    { near with circuits := [] }.isDirect d.dev = false ∧ near.slotMode = false ∧
    ({ near with fibres := ⟨[(3, { failed := true })]⟩ } : Fabric).pathFor d.dev 0 = some 3 := by decide +kernel

/-- A line for another device is queued to be passed on, and nothing of it is written here (R259). -/
theorem test_line_is_passed_on :
    (match exec (.lineArrival { line0 with dest := 9 }) (hears0 (some { base := 0x100001000 }) [] {}) with
      | .next t => (t.fabric.sends.map (fun y => (y.dev, y.fwd, y.st)), memRead t 0 0x100001000)
      | _ => ([], 1)) = ([(9, some (7, 64), 0)], 0) := by decide +kernel

theorem witness_PacketsAndTheFence_drains :
    let b := bulk0
    let f (x : Fibre) : Fabric := { near0 with sends := [], bulks := [b], fibres := ⟨[(3, x)]⟩, txmap := {} }
    let o (f : Fabric) : Nat := match f.txmap.get none b.idx with
      | some m => if m.ctx = b.ctx ∧ m.w ≤ b.t ∧ b.t < m.w + 2 ^ m.z then b.t - m.w else b.t - b.w
      | none => b.t - b.w
    let waits (x : Fibre) : Prop := (f x).pathFor b.dev (o (f x)) = some 3 ∧ let y := (f x).fibres.get {} 3
      ¬(y.failed = true ∨ (y.paused = false ∧ y.up = true))
    let spent : Fabric := { f { up := true } with
      slotMode := true, fslot := ⟨[(0, { dur := 1000, guard := 500, dests := [(1, 128, 8)] })]⟩
      rot := some { start := 0, count := 1, running := true, budget := [(1, 128)] } }
    waits { up := true, paused := true } ∧ waits {} ∧ ¬waits { failed := true } ∧ ¬waits { up := true } ∧
    (f {}).budgetLeft 0 b.dev 128 = true ∧ spent.budgetLeft 0 b.dev 128 = false ∧ spent.pathFor b.dev (o spent) = some 3 ∧
    (f {}).txmap.get none b.idx = none ∧ (tx0.ctx = b.ctx ∧ tx0.loop = false ∧ tx0.dests.map (·.1) = [b.dev] ∧ tx0.w ≤ b.t ∧
      tx0.w + 2 ^ tx0.z < b.t + 128 * 2 ∧ b.t + 128 * 1 ≤ tx0.w + 2 ^ tx0.z) := by decide +kernel

/-- What is left of a queue entry fails as one where the entry no longer covers all of it, though it covers the next line (R276). -/
theorem test_uncovered_rest_fails :
    (match exec (.packetLaunch 8) { st .s with fabric := { near0 with sends := [], bulks := [{ bulk0 with lines := 2 }] } } with
      | .next t => (t.fabric.sends.length, t.fabric.bulks.map (fun b => (b.lines, b.st)))
      | _ => (1, [])) = (0, [(2, 3)]) := by decide +kernel

theorem witness_FabricSends_abandons :
    let f : Fabric := { reds := [{ win := 1023, seq := 255 }] }
    f.red? 1023 ((2 ^ 64 - 1) % 256) = some { win := 1023, seq := 255 } ∧ ({ win := 1023, seq := 255 } : Red).part = none ∧ f.member 9 = false ∧
    (joins0 0 (some 1) f).stk = 0x1000 :: 0x8000 :: [] ∧ Holds (joins0 0 (some 1) f) 0 0x100001000 (redRecord 0) := by
  refine ⟨by decide +kernel, rfl, by decide +kernel, by decide +kernel, by unfold Holds; decide +kernel⟩

theorem witness_RingHeaters_send :
    let y : Fibre := { paused := true, pausedAt := 5, up := true }
    let d : Send := { send0 with st := 1, fibre := 63 }
    let s (b t : Nat) : State := { st .s with fabric := { sends := [d], fibres := ⟨[(b, y)]⟩ }, ftime := t }
    ((s 63 0).fabric.fibres.get {} 63) = y ∧ ((s 64 0).fabric.fibres.get {} 64) = y ∧ y.pausedAt + 10000000 < (s 63 10000006).ftime ∧
    (∀ d ∈ (s 63 0).fabric.sends, d.fwd = none ∧ ∃ o op en bs, d.load = .line o op en bs) := by
  refine ⟨rfl, rfl, by decide, fun d h => ?_⟩
  rw [List.mem_singleton.1 h]; exact ⟨rfl, _, _, _, _, rfl⟩

/-- A receive fibre that was paused too long hears again once it resumes (R294). -/
theorem test_receive_fibre_hears_again :
    let y : Fibre := { paused := true, wholeAt := some 5, pausedAt := 5, up := true, failed := true }
    (match exec (.fibreResume 64) { st .s with fabric := { fibres := ⟨[(64, y)]⟩ }, ftime := 10001006 } with
      | .next t => rxDeaf t 64
      | _ => true) = false := by decide +kernel

/-! ## Limits and sets -/

theorem witness_LimitsRaiseTraps_tawait :
    let s (l : Nat) : State := { seqAt { wait := some ⟨.tawait 3 l, 0, 0⟩ } .s with cycle := 256 }
    let c (l : Nat) : Core := { (s l).core 0 with wdog := 256 }
    canIssue (s 257) 0 .s = true ∧ (c 257).mode ≠ .handler ∧ ((c 257).seq .s).wait = some ⟨.tawait 3 257, 0, 0⟩ ∧ 0 + (c 257).wdog ≤ (s 257).cycle ∧
    0 + (c 257).wdog < 257 ∧ (256 ≤ 0 + (c 256).wdog) := by decide +kernel

theorem witness_SliceSets_service :
    let b := setBlock 0 0 64 128 0 0 0x100000
    (0x100000 : Nat) % 32 = 0 ∧ ¬(0x100000 : Nat) < (if (128 : Nat) = 128 then 0x100000 else 0x400000) ∧ b.length = 32 := by decide +kernel

/-- m0 reads all ones in the save area too (R174, R344). -/
theorem test_saved_m0 : ((areaBytes (st .s) idle { index := 0 }).filter (fun b => 0x500 ≤ b.1 ∧ b.1 < 0x520)).map (·.2) = List.replicate 32 0xFF := by
  decide +kernel

/-! ## The queue -/

/-- A parked write of a discarded instance, still in the queue of core 0. -/
def left0 : Core :=
  { idle with replay := [{ id := 1, va := 0x10000000000, cls := 3, eng := 3, owner := (9, 9), ctx := 0, issued := 1, bytes := [(0, 9)], cause := 8, size := 0 }] }

theorem witness_FencesAndTranslations_queue :
    let s := at_ left0 .s
    s.me.mode ≠ .handler ∧ s.q.wait = none ∧ (∀ p ∈ s.me.replay, p.failed = false) ∧ (∃ p ∈ s.me.replay, (8#16).getLsbD p.cls = true) := by decide +kernel

theorem witness_InstancesAndLaunchesEnd_queue :
    let s := at_ left0 .s
    (∃ p ∈ (s.core 0).replay, p.failed = false) ∧ (∀ p ∈ (s.core 0).replay, p.owner ≠ (1, 1)) ∧ (s.core 0).inst = some inst0 ∧ (s.core 0).trapPend = none := by
  decide +kernel

/-! ## Rings -/

/-- RELS and a claim of 0 leave the error flag as it is, and a claim of a count clears it (R241). -/
theorem test_error_flag :
    let err (i : Instr) (j : Slot) (x : W64) : Option (Nat × Bool) := match exec i (withRing (ring0 j) x) with
      | .next t => some (((t.me.rings.get {} 5).slot 0).tag, ((t.me.rings.get {} 5).slot 0).err)
      | _ => none
    err (.rels 5) { tag := 3, err := true } 0 = some (0, true) ∧ err (.rclaim 1 5) { err := true } 0 = some (2, true) ∧
    err (.rclaim 1 5) { err := true } 128 = some (1, false) := by decide +kernel

/-! ## The fabric -/

/-- A line for device 1, the one after it on another path, and one that came on another fibre. -/
def onward0 (id rx o : Nat) : Send := { send0 with id := id, acc := id, fwd := some (9, rx), load := .line o 0 (List.range 128) [] }

theorem witness_PacketsAndTheFence_in_order :
    let d := onward0 5 64 128
    let f (rx : Nat) : Fabric := { near0 with circuits := [(1, [3, 4], [])], fibres := ⟨[(3, { up := true }), (4, { up := true })]⟩, sends := [onward0 4 rx 0, d] }
    (f 64).sends.find? (fun y => y.id = d.id ∧ y.st = 0) = some d ∧ onward0 4 64 0 ∈ (f 64).sends ∧ (onward0 4 64 0).id < d.id ∧
    (onward0 4 64 0).st = 0 ∧ (onward0 4 64 0).dev = d.dev ∧ (onward0 4 64 0).fwd = some (9, 64) ∧
    (f 64).pathFor 1 0 ≠ (f 64).pathFor 1 128 ∧ sendBlocked { st .s with fabric := f 64 } d = true ∧
    sendBlocked { st .s with fabric := f 65 } d = false := by decide +kernel

theorem witness_PacketsAndTheFence_queue_failed :
    let b : Bulk := { bulk0 with st := 3 }
    let s : State := { fences0 2 [] with fabric := { bulks := [b] } }
    fenceOpen s 0 2 = false ∧ s.fabric.sends = [] ∧ s.fabric.reds = [] ∧
    s.fabric.bulks.filter (fun b => b.core = 0 ∧ b.owner = (s.core 0).owner ∧ (2#16).getLsbD b.cls ∧ b.st = 3) = [b] := by decide +kernel

/-- What is left of a queue entry that failed gives RFENCE status 6 (R274, R276). -/
theorem test_fence_status_6 :
    (match exec (.rfenceComplete 0) { fences0 2 [] with fabric := { bulks := [{ bulk0 with st := 3 }] } } with
      | .next t => ((t.core 0).s 1, t.fabric.bulks)
      | _ => (0, [])) = (6, []) := by decide +kernel

theorem witness_FabricSends_joins :
    let x (l : List ((Nat × Nat × Nat) × List Word)) : Red := { win := 1023, seq := 255, partials := l, senders := [9] }
    let f (l : List ((Nat × Nat × Nat) × List Word)) : Fabric := { circuits := [(9, [3], [])], reds := [x l] }
    let l := [((0, 1, 0), List.replicate 32 (1 : Word))]
    ((f l).reds = [x l] ∧ (x l).win = 1023 ∧ (x l).seq = (2 ^ 64 - 1) % 256 ∧ (x l).part = none ∧ (f l).member 9 = true) ∧
    (∀ e ∈ (x []).partials, e.1 ≠ (0, 0 + 1, 0)) ∧
    (∀ k, k < 32 / 32 → (List.replicate 32 (1 : Word)).length = 32 ∧
      (x l).partials.find? (fun e => e.1 = (0, 0 + 1, k)) = some ((0, 0 + 1, k), List.replicate 32 1)) ∧
    (joins0 0 (some 1) (f l)).stk = 0x1000 :: 0x8000 :: [] ∧ Holds (joins0 0 (some 1) (f l)) 0 0x100001000 (redRecord 0) := by
  refine ⟨by decide +kernel, by decide, by decide +kernel, by decide +kernel, by unfold Holds; decide +kernel⟩

/-- An accumulate op leaves a poisoned line poisoned, where a written line is no longer so (R164, R272). -/
theorem test_accumulate_keeps_poison :
    let s : State := { hears0 (some { base := 0x100001000 }) [] {} with poison := ⟨[(0x100001000 / 128, true)]⟩ }
    let after (op : Nat) : Option Bool := match exec (.lineArrival { line0 with win := 2, op := op }) s with
      | .next t => some (t.poison.get false (0x100001000 / 128))
      | _ => none
    after 0 = some false ∧ after 2 = some true := by decide +kernel

/-- The record of a failed fibre with no packet in flight names the device that its circuit joins (R356). -/
theorem test_paused_fibre_names_its_peer : near0.peerOf 0 3 = 1 := by decide +kernel

theorem witness_RingHeaters_peer :
    let f : Fabric := { near0 with sends := [{ send0 with st := 1, fibre := 4 }] }
    f.slotMode = false ∧ (∀ d ∈ f.sends, d.st = 1 → d.fibre ≠ 3) ∧ f.circuits.find? (fun c => c.2.1.contains 3) = some (1, [3], []) := by decide +kernel

theorem witness_FabricArrivals_ops :
    ({ line0 with op := 4 }).op ≤ 4 ∧ ¬(∀ i, i < 128 → i ∈ [0]) ∧ ∀ i, i < 128 → i ∈ List.range 128 := by decide +kernel

/-- A queue entry whose map entry is gone waits for the next slot where the budget of this one is spent (R262, R276). -/
theorem test_spent_budget_waits :
    (match exec (.packetLaunch 8) { st .s with fabric := { near0 with
        sends := [], bulks := [bulk0], txmap := {}, slotMode := true, fslot := ⟨[(0, { dur := 1000, guard := 500, dests := [(1, 128, 8)] })]⟩
        rot := some { start := 0, count := 1, running := true, budget := [(1, 128)] } } } with
      | .next t => t.fabric.bulks.map (·.st)
      | _ => []) = [0] := by decide +kernel

/-! ## Slices -/

/-- A tree of ten slices, of which slices 1, 2, 5, 6, 8 and 9 have settled and those below 6 are freed; 7 is a draft under 2, 10 one
under 9. -/
def tree0 (state : Nat) : SliceSet :=
  { set0 state true with tree := true, base := 6, h := 12, p := 7, pt := 9, path := [1, 2, 5, 6, 8, 9]
                         slices := ⟨[(7, { seeded := true, gen := 1, parent := 2 }), (10, { seeded := true, gen := 1, parent := 9, fine := 1, fg := 1 }),
                           (11, { seeded := true, gen := 1, parent := 9 })]⟩ }

/-- A draft under a settled slice that has been freed has final inputs (R307). -/
theorem test_final_under_a_freed_slice : (tree0 1).final 7 = true ∧ (tree0 1).final 11 = true ∧ ({ tree0 1 with path := [] }).final 7 = false := by decide +kernel

theorem witness_SliceSets_tree :
    let x := tree0 1
    let barred (n parent : Nat) : Prop := n = 0 ∨ n ∈ x.path ∨ n ≤ parent ∨ parent < x.base ∨ x.h ≤ parent
    x.token = true ∧ x.tree = true ∧ x.base ≤ 11 ∧ 11 < x.h ∧ barred 9 8 ∧ barred 10 10 ∧ barred 11 5 ∧ ¬barred 11 10 ∧ ¬barred 7 6 ∧
    ¬(x.base ≤ 12 ∧ 12 < x.h) ∧ (0xFFF00000000 : W64).toNat < 2 ^ 44 ∧ 2 ^ 44 ≤ (0x100000000000 : W64).toNat ∧
    ((set0 1 true).tree = false ∧ 2 ^ 32 ≤ (0x100000000 : W64).toNat) := by decide +kernel

theorem witness_SliceSets_not_open :
    let s (n : Nat) : State := slices0 (set0 n false) 0x100010002 0x10009 false
    textWords (s 1) ≤ (0x1000A : W64).toNat % 2 ^ 16 ∧ (0x1000A : W64).toNat < 2 ^ 17 ∧ 2 ^ 17 ≤ (0x20000 : W64).toNat ∧
    ((s 2).set 2).state ≠ 1 ∧ ((s 2).set 2).state ≠ 0 ∧ ((s 2).set 2).ctx = (s 2).ctxNow ∧ ((s 2).set 2).token = false ∧
    ((s 2).sval 2).toNat % 2 ^ 16 < textWords (s 2) := by decide +kernel

theorem witness_SliceResults_tree :
    let x := tree0 1
    let tested (n : Nat) : Bool := decide (n ≠ 0) && (x.slice n).seeded && decide ((x.slice n).parent = x.pt) && (List.range n).all (fun m =>
      decide (m < x.base) || decide (m = 0) || !(x.slice m).seeded || decide ((x.slice m).parent ≠ x.pt) || decide ((x.slice m).verdict = 2))
    let loses (n m : Nat) : Bool := x.below x.pt m && decide (m ≠ n) && !x.below n m && decide (m ≠ 0) && (x.slice m).seeded
    tested 10 = true ∧ tested 11 = false ∧ tested 7 = false ∧ loses 10 11 = true ∧ loses 10 7 = false ∧ (tree0 2).state ≠ 1 ∧
    (tree0 2).state ≠ 0 := by decide +kernel

/-- An accepted child joins the settled path, and its sibling is to be drafted again (R301, R312, R314). -/
theorem test_accept_in_a_tree :
    let s := slices0 (tree0 1) 0x1000A0002 0x3F8000003F800000 false
    (match exec (.saccept 3 1 2) (s.setMe { s.me with sreg := ⟨[(1, 0x1000A0002), (2, 0x3F8000003F800000), (3, 0)]⟩ }) with
      | .next t => ((t.set 2).path, (t.set 2).p, (t.set 2).pt, ((t.set 2).slice 11).seeded, t.sval 3)
      | _ => ([], 0, 0, true, 1)) = ([1, 2, 5, 6, 8, 9, 10], 8, 10, false, 0) := by decide +kernel

/-- The last token of a closing set comes back with an abandonment, and the set closes (R309, R316). -/
theorem test_abandonment_closes :
    (match exec (.abandonment 0) { at_ { idle with inst := some (holder0 true), abandon := some 0x800000000000000B } .s with
        slices := ⟨[(2, seeded0 { set0 3 false with out := [(1, 1)] } { infl := true })]⟩ } with
      | .next t => ((t.set 2).state, (t.core 0).s 3)
      | _ => (1, 0)) = (0, 0x800000000000000B) := by decide +kernel

/-! ## Kernels, parked writes and cuts -/

/-- Foreign words carry pc from 0 past the kernel offset 3 in one cycle: an iteration begins, and pc has not equalled the offset (R17, R70). -/
theorem test_kernel_entered_at_its_offset :
    let q : SeqState := {}
    ((q.comeTo 3 8).inKernel, (q.comeTo 3 8).inIter) = (false, true) ∧ ((q.comeTo 3 3).inKernel, (q.comeTo 3 3).inIter) = (true, true) := by decide

/-- An instance of class 2 that has been stopped on core 0. -/
def stopped0 : Stopped := { inst := { inst0 with launch := 2, placed := 3, cls := 2 } }

/-- A copy of the stopped instance, of which one line has failed translation. -/
def parks0 (l : List Parked) : State × CopyOp :=
  let o : CopyOp := { id := 5, cls := 1, ctx := 0, owner := (2, 3), units := [.park 0x18000000000 8 [(0, .const 7)] 0] }
  (at_ { idle with parked := some stopped0, copies := [o], replay := l } .s, o)

/-- Entry k of a full queue. -/
def entry0 (k : Nat) : Parked :=
  { id := k, va := 0x10000003000, cls := 1, eng := 4, cause := 9, bytes := [(0, 7)], size := 4, ctx := 0, owner := (1, 1) }

/-- It parks in the queue as an entry of its instance, where firmware may fail it (R132, R161). -/
theorem test_background_write_parks :
    (match exec (.copyLineWrite 0 5) (parks0 []).1 with
      | .next t => ((t.core 0).replay.map (·.owner), match exec (.replayFail 0 0) t with
          | .next u => (u.core 0).replay.map (·.failed)
          | _ => [])
      | _ => ([], [])) = ([(2, 3)], [true]) := by decide +kernel

/-- The record counts the entry while it is in the queue (R132, R345). -/
theorem test_record_counts_background_entry :
    let s : State := (parks0 [{ entry0 1 with owner := (2, 3) }]).1
    let count (s : State) : Nat := readNat s 0 (saveLoc 0 0x70) 1
    count (noteSaved s 0 (2, 3) false) = 1 ∧ count (noteSaved s 0 (7, 7) false) = 0 := by decide +kernel

theorem witness_ReplayScrubAndQuoin_parks :
    let u : Unit_ := .park 0x18000000000 8 [(0, .const 7)] 0
    let s (l : List Parked) : State := (parks0 l).1
    let o := (parks0 []).2
    ((s []).core 0).copies.find? (fun x => x.id = o.id) = some o ∧ o.units = u :: [] ∧ copyMay (s []) 0 o u = true ∧
    firstPoison (s []) 0 o u.reads = none ∧ copyMay (s ((List.range 16).map entry0)) 0 o u = true ∧
    16 ≤ (((s ((List.range 16).map entry0)).core 0).replay.filter (fun x => x.failed = false)).length := by decide +kernel

/-- What it parks is no access's business but its own instance's, and a fence waits for it (R132, R170). -/
theorem test_background_entry_holds_no_access :
    let s : State := at_ { idle with replay := [{ entry0 1 with owner := (2, 3), eng := 0 }] } .s
    let held (r : State × Except Stop Unit) : Bool := match r.2 with
      | .error _ => true
      | .ok _ => false
    held (behindParked s false (fun k => k = 1)) = false ∧ held (behindParked s true (fun k => k = 1)) = true := by decide +kernel

/-- A copy that stands behind its own saved entry does not hold the resumption (R346). -/
theorem witness_StopsAndResumptions_stuck :
    let c (l : List Parked) : Core := { parked := some { stopped0 with replay := l } }
    let o : CopyOp := { (parks0 []).2 with id := 5 }
    stuck (c [{ entry0 1 with owner := (2, 3), eng := 3, issued := 5 }]) o = true ∧ stuck (c []) o = false := by decide +kernel

/-- S stalls with a store that failed translation with this cause. -/
def stalls0 (l : List Parked) : State :=
  at_ { idle with sreg := ⟨[(1, 0x18000000000)]⟩, replay := l, seqs := ⟨[(0, { wait := some ⟨.replay 9, 0, 0⟩ })]⟩ } .s

/-- The stalled store parks with the cause that it has, and counts no miss (R158, R160). -/
theorem test_stalled_store_parks_once :
    let after (l : List Parked) : List Nat × Nat := match exec (.st 0 1 3 3 0) (stalls0 l) with
      | .next t => (t.me.replay.map (·.cause), t.me.nmiss)
      | _ => ([], 9)
    after [entry0 1] = ([9, 9], 0) ∧ after ((List.range 16).map entry0) = (List.replicate 16 9, 0) := by decide +kernel

theorem witness_ScalarStores_stalled :
    let s := stalls0 ((List.range 16).map entry0)
    s.q.wait.bind (·.kind.parkCause) = some 9 ∧ s.sval 1 = 0x18000000000 ∧ slipHeld s (fun k => k = (3 : BitVec 4).toNat) = false ∧
    (∀ k ∈ s.me.replay, k.owner = s.me.owner → k.cls = 3 → k.eng ≠ Eng.s.tag) ∧ 16 ≤ (s.me.replay.filter (fun k => k.failed = false)).length ∧
    (withPage false true).q.wait.bind (·.kind.parkCause) = none := by decide +kernel

/-- A store through a translation whose slot is no longer valid is discarded, and not seen by the core's own load (R157). -/
theorem test_dead_slot_reads_zero :
    let s (key : Nat) : State := { st .s with accs := [{ id := 0, n := 0, eng := 0, cls := 3, eff := .write key [(2 ^ 60, 7)] }] }
    loadByte (s deadKey) 0 .s deadKey (2 ^ 60) = 0 ∧ loadByte (s 5) 0 .s 5 (2 ^ 60) = 7 := by decide +kernel

theorem witness_PacketsAndTheFence_cut :
    let s (k : BitVec 32) : State := (fences0 2 []).setCore 0 { (fences0 2 []).core 0 with stopReq := some { drain := false, since := 0, k := some k } }
    let behind (k : BitVec 32) : Prop := ∀ x, ((s k).core 0).stopReq = some x → x.cut = false ∧ ∀ j, x.k = some j → ∀ e ∈ team 0, ((s k).core 0 |>.seq e).cc.toNat < j.toNat
    behind 1 ∧ fenceOpen (s 1) 0 2 = false ∧ ((s 0).core 0).mode = .run ∧ (∃ e ∈ team 0, (0#32).toNat ≤ (((s 0).core 0).seq e).cc.toNat) ∧
    (∀ e ∈ team 0, (((s 1).core 0).seq e).ended = false) ∧ ((s 1).core 0).abandon = none ∧ ((s 1).core 0).copyStalled = false := by
  refine ⟨fun x hx => ?_, by decide +kernel, by decide +kernel, ⟨.s, by decide +kernel, by decide⟩, by decide +kernel, by decide +kernel, by decide +kernel⟩
  obtain rfl : { drain := false, since := 0, k := some (1#32) } = x := Option.some.inj hx
  exact ⟨rfl, fun j hj => by obtain rfl := Option.some.inj hj; decide +kernel⟩

/-- A fence that stands beyond the cut of a checkpoint does not complete (R130). -/
theorem test_fence_stays_behind_the_cut :
    let after (k : BitVec 32) : BitVec 32 := match exec (.rfenceComplete 0) ((fences0 2 []).setCore 0
        { (fences0 2 []).core 0 with stopReq := some { drain := false, since := 0, k := some k } }) with
      | .next t => ((t.core 0).seq .s).cc
      | _ => 9
    after 0 = 0 ∧ after 1 = 1 := by decide +kernel

/-- The saved binding has its deferral enabled: bit 16 of the abandon word (R308, R345). -/
theorem test_saved_binding_is_deferred :
    let i : Inst := { inst0 with bind := some ⟨2, 1, 1, 3, 9⟩ }
    ((headerBytes { idle with inst := some i } i { forced := true }).filter (fun b => 0x90 ≤ b.1 ∧ b.1 < 0x93)).map (·.2) = [9, 0, 7] := by
  decide +kernel

/-- WMAPR writes own scratchpad: elsewhere, transmit space too, it traps 0x0006 (R149, R287). -/
theorem test_wmapr_transmit :
    let s : State := sends0 [0x300000000, 3] {}
    (match exec (.wmapr 1) s with
      | .next t => decide (t = trapHere 6 0x300000000 s)
      | _ => false) = true ∧ ownBytes s < 0x300000000 + 128 := by decide +kernel

theorem witness_StopsAndResumptions_bound :
    ({ inst0 with bind := some ⟨2, 1, 1, 3, 9⟩ } : Inst).bind = some ⟨2, 1, 1, 3, 9⟩ ∧ ({ inst0 with bind := some ⟨2, 1, 1, 3, 9⟩ } : Inst).overlay = false := by
  decide

/-! ## Sender order and overflow entries -/

/-- A line of an FSEND that was issued before a GST, and read after it. -/
def readLate0 : Send := { send0 with id := 13, acc := 10, bulk := true }

/-- The GST of another class that was issued in between. -/
def between0 : Send := { send0 with id := 12, acc := 12, cls := 3 }

/-- The FSEND's line goes first, though it was read last, and neither waits for the other in turn (R264). -/
theorem test_issue_order_decides :
    let s (loop : Bool) : State := { st .s with fabric := { near0 with sends := [{ between0 with loopb := loop }, { readLate0 with loopb := loop }] } }
    (∀ loop, sendBlocked (s loop) { between0 with loopb := loop } = true ∧ sendBlocked (s loop) { readLate0 with loopb := loop } = false) ∧
    readLate0.before between0 = true ∧ between0.before readLate0 = false := by decide +kernel

theorem witness_PacketsAndTheFence_loopback :
    let d : Send := { between0 with loopb := true }
    let y : Send := { readLate0 with loopb := true }
    let f : Fabric := { near0 with sends := [d, y] }
    f.sends.find? (fun y => y.id = d.id ∧ y.st = 0) = some d ∧ d.loopb = true ∧ y ∈ f.sends ∧ y.acc < d.acc ∧ y.st = 0 ∧ y.dev = d.dev := by
  decide +kernel

/-- The parts of an overflow entry: the record, its table address and the launch number low byte first (R2, R125). -/
theorem test_overflow_parts :
    let l := ovfParts (st .s) { ctx := 0, lrec := {}, tab := {}, tabAddr := 0x0102, by_ := 0x0304, image := [7] }
    l.take 3 = [[7], [2, 1, 0, 0, 0, 0, 0, 0], [4, 3, 0, 0, 0, 0, 0, 0]] ∧ l.length = 51 := by
  refine ⟨by decide +kernel, by simp [ovfParts]⟩

end Sys2Proof.Tests
end

/-!
SUPPORT. The words of S: when a word reads as an instruction, and when the decoder refuses one.
-/

namespace Sys2Proof.Machine

open Sys2Proof.Laws

/-! ## Words that read as instructions, and words that are illegal -/

/-- A well-formed instruction's own encoding reads as it. -/
theorem reads_of {w : Word} {i : Instr} (h : RoundTrip.Statement i) (hw : i.wf = true := by rfl)
    (he : encode i = some (w.setWidth 32) := by rfl) : Reads w i :=
  h hw w (he.trans (congrArg some (BitVec.setWidth_eq w)))

theorem ne_zero_of_fld {w : Word} {lo k : Nat} {v : BitVec k} (h : fld w lo k = v) (hv : v ≠ 0#k) : w ≠ 0#32 := by
  rintro rfl
  exact hv (by rw [← h]; simp [fld])

/-- A nonzero word with the tag of S decodes by the majors of S (R15, R18, R30). -/
theorem decode_scalar {w : Word} (ht : fld w 29 3 = 0#3) (hz : w ≠ 0#32) :
    decode w = ((decodeS w).filter Instr.wf).elim (.error .illegal) .ok := by
  have hf : decodeForm w = decodeS w := by rw [decodeForm, ht]; rfl
  rw [decode, if_neg (by rw [ht]; decide), if_neg hz, hf]
  cases decodeS w with
  | none => rfl
  | some i => cases hw : i.wf <;> simp [Option.filter, hw]

/-- The fields of a word of the register form (R23). -/
theorem regForm_fields (m d a b : BitVec 5) (f : BitVec 9) :
    let w : Word := 0#3 ++ m ++ d ++ a ++ b ++ f
    fld w 29 3 = 0#3 ∧ fld w 24 5 = m ∧ fld w 19 5 = d ∧ fld w 14 5 = a ∧ fld w 9 5 = b ∧ fld w 0 9 = f := by
  simp (disch := decide) only [fld, fld_low, fld_high, fld_all, Nat.reduceSub, and_self]

/-- The fields of a word of the immediate form (R23). -/
theorem immForm_fields (m d a : BitVec 5) (i : BitVec 14) :
    let w : Word := 0#3 ++ m ++ d ++ a ++ i
    fld w 29 3 = 0#3 ∧ fld w 24 5 = m ∧ fld w 19 5 = d ∧ fld w 14 5 = a ∧ fld w 0 14 = i := by
  simp (disch := decide) only [fld, fld_low, fld_high, fld_all, Nat.reduceSub, and_self]

/-! The encoder writes neighbouring constant fields as one. -/

theorem regForm_unary (m d a : BitVec 5) (f : BitVec 9) :
    (0#3 ++ m ++ d ++ a ++ 0#5 ++ f : Word) = 0#3 ++ m ++ d ++ a ++ (0#5 ++ f) :=
  BitVec.append_assoc.trans (BitVec.cast_eq rfl _)

theorem shiftForm_constants (d a : BitVec 5) (o : BitVec 2) (n : BitVec 6) :
    (0#3 ++ 6#5 ++ d ++ a ++ o ++ 0#6 ++ n : Word) = 0#3 ++ 6#5 ++ d ++ a ++ (o ++ 0#6) ++ n :=
  congrArg (· ++ n) (BitVec.append_assoc.trans (BitVec.cast_eq rfl _))

theorem extForm_constants (d a : BitVec 5) (o : BitVec 2) (x : BitVec 1) (n : BitVec 6) :
    (0#3 ++ 6#5 ++ d ++ a ++ o ++ 0#5 ++ x ++ n : Word) = 0#3 ++ 6#5 ++ d ++ a ++ (o ++ (0#5 ++ x)) ++ n :=
  congrArg (· ++ n) <| (BitVec.append_assoc.trans (BitVec.cast_eq rfl _)).trans (BitVec.append_assoc.trans (BitVec.cast_eq rfl _))

/-- A word of the register form is illegal where its major, its second source and its function name no instruction. -/
theorem regForm_illegal {m d a b : BitVec 5} {f : BitVec 9} (hz : m ≠ 0#5 ∨ f ≠ 0#9)
    (h : ∀ w, fld w 24 5 = m → fld w 9 5 = b → fld w 0 9 = f → decodeS w = none) :
    decode (0#3 ++ m ++ d ++ a ++ b ++ f) = .error .illegal := by
  obtain ⟨htag, hm, -, -, hb, hf⟩ := regForm_fields m d a b f
  have hw : (0#3 ++ m ++ d ++ a ++ b ++ f : Word) ≠ 0#32 := hz.elim (ne_zero_of_fld hm) (ne_zero_of_fld hf)
  rw [decode_scalar htag hw, h _ hm hb hf]; rfl

theorem regAlu_illegal (d a b : BitVec 5) {f : BitVec 9} (hf : 27 ≤ f.toNat) :
    decode (0#3 ++ 0#5 ++ d ++ a ++ b ++ f) = .error .illegal := by
  obtain ⟨k, hk⟩ := Nat.exists_eq_add_of_le' hf
  have hz : f ≠ 0#9 := by rintro rfl; simp at hf
  exact regForm_illegal (.inr hz) fun w hmajor _ hfn => by rw [decodeS, hmajor, hfn, hk]; rfl

theorem jumpReg_illegal (a : BitVec 5) {f : BitVec 9} (hf : 2 ≤ f.toNat) :
    decode (0#3 ++ 16#5 ++ 0#5 ++ a ++ 0#5 ++ f) = .error .illegal := by
  obtain ⟨k, hk⟩ := Nat.exists_eq_add_of_le' hf
  exact regForm_illegal (.inl (by decide)) fun w hmajor _ hfn => by rw [decodeS, hmajor, hfn, hk]; rfl

theorem float_illegal (d a b : BitVec 5) {f : BitVec 9} (hf : 12 ≤ f.toNat) :
    decode (0#3 ++ 20#5 ++ d ++ a ++ b ++ f) = .error .illegal := by
  obtain ⟨k, hk⟩ := Nat.exists_eq_add_of_le' hf
  exact regForm_illegal (.inl (by decide)) fun w hmajor _ hfn => by rw [decodeS, hmajor, hfn, hk]; rfl

theorem onlyIf_ne_zero {b : BitVec 5} (hb : b ≠ 0) (i : Instr) : onlyIf (b == 0) i = none :=
  if_neg (by rwa [beq_iff_eq])

/-- A conversion or root with a second source is illegal: that field must be zero (R20, R94). -/
theorem floatUnary_illegal (d a : BitVec 5) {b : BitVec 5} (hb : b ≠ 0) {f : BitVec 9} (hf : f = 9#9 ∨ f = 10#9 ∨ f = 11#9) :
    decode (0#3 ++ 20#5 ++ d ++ a ++ b ++ f) = .error .illegal := by
  refine regForm_illegal (.inl (by decide)) fun w hmajor hb' hfn => ?_
  rw [decodeS, hmajor, hfn, hb']
  rcases hf with rfl | rfl | rfl <;> exact onlyIf_ne_zero hb _

/-- LOOP of s0 is illegal, and so is one with a nonzero sa field (R20, R93). -/
theorem loop_illegal (d a : BitVec 5) (o : BitVec 14) (h : a ≠ 0 ∨ d = 0) :
    decode (0#3 ++ 17#5 ++ d ++ a ++ o) = .error .illegal := by
  obtain ⟨htag, hmajor, hd, ha, ho⟩ := immForm_fields 17#5 d a o
  rw [decode_scalar htag (ne_zero_of_fld hmajor (by decide)), decodeS, hmajor, hd, ha, ho]
  show ((onlyIf (a == 0) (.loop d o)).filter Instr.wf).elim _ _ = _
  by_cases hsa : a = 0
  · rw [h.resolve_left (not_not_intro hsa), hsa]; rfl
  · rw [onlyIf_ne_zero hsa]; rfl

end Sys2Proof.Machine

/-!
SUPPORT. The values of S: the model's integer operations as the statements write them, on numbers and on bits.
-/

namespace Sys2Proof.Machine

/-! ## A result in sd -/

/-- `givesS_of` for a result that another term equals. -/
theorem givesS_eq {i : Instr} {s : State} {d : BitVec 5} {u v : W64} (h : exec i s = resultS d u s) (e : u = v) :
    GivesS i s d v :=
  givesS_of (e ▸ h)

/-! ## Arithmetic modulo 2^64 -/

theorem sub_eq_ofInt (x y : W64) : x - y = BitVec.ofInt 64 ((x.toNat : Int) - y.toNat) := by
  apply BitVec.eq_of_toNat_eq
  rw [BitVec.toNat_sub, BitVec.toNat_ofInt]
  have := y.isLt
  omega

theorem mul_eq_ofNat (x y : W64) : x * y = BitVec.ofNat 64 (x.toNat * y.toNat) := by
  rw [BitVec.ofNat_mul, BitVec.ofNat_toNat, BitVec.ofNat_toNat, BitVec.setWidth_eq, BitVec.setWidth_eq]

theorem shiftLeft_eq_ofNat (x : W64) (n : Nat) : x <<< n = BitVec.ofNat 64 (x.toNat * 2 ^ n) := by
  apply BitVec.eq_of_toNat_eq
  rw [BitVec.toNat_shiftLeft, BitVec.toNat_ofNat, Nat.shiftLeft_eq]

theorem ushiftRight_eq_ofNat (x : W64) (n : Nat) : x >>> n = BitVec.ofNat 64 (x.toNat / 2 ^ n) := by
  rw [← Nat.shiftRight_eq_div_pow, ← BitVec.toNat_ushiftRight, BitVec.ofNat_toNat, BitVec.setWidth_eq]

theorem sshiftRight_eq_ofInt (x : W64) (n : Nat) : x.sshiftRight n = BitVec.ofInt 64 (x.toInt / 2 ^ n) := by
  have h : x.toInt / 2 ^ n = x.toInt >>> n := by rw [Int.shiftRight_eq_div_pow]; norm_cast
  rw [h, ← BitVec.toInt_sshiftRight, BitVec.ofInt_toInt]

theorem rotateLeft_eq_or (x y : W64) :
    x.rotateLeft (y.toNat % 64) = (x <<< (y.toNat % 64)) ||| (x >>> (64 - y.toNat % 64)) := by
  rw [BitVec.rotateLeft_def, Nat.mod_mod]

/-- The one quotient that does not fit wraps to the dividend, and its remainder is 0 (R87). -/
theorem tdiv_neg_one_of_min {x y : W64} (hx : x.toInt = -(2 ^ 63)) (hy : y.toInt = -1) :
    y ≠ 0 ∧ BitVec.ofInt 64 (x.toInt.tdiv y.toInt) = x ∧ BitVec.ofInt 64 (x.toInt.tmod y.toInt) = 0 := by
  obtain rfl : x = BitVec.intMin 64 := BitVec.eq_of_toInt_eq (hx.trans (by decide))
  obtain rfl : y = -1 := BitVec.eq_of_toInt_eq (hy.trans (by decide))
  decide

/-! ## Compares -/

theorem b2w_decide (p : Prop) [Decidable p] : b2w (decide p) = if p then 1 else 0 := by simp [b2w]

theorem min_eq (x y : W64) : (if ltS y x then y else x) = if x.toInt ≤ y.toInt then x else y := by
  by_cases h : x.toInt ≤ y.toInt <;> simp [ltS, h]

theorem max_eq (x y : W64) : (if ltS x y then y else x) = if x.toInt ≤ y.toInt then y else x := by
  rcases lt_trichotomy x.toInt y.toInt with h | h | h
  · simp [ltS, h, h.le]
  · simp [ltS, BitVec.eq_of_toInt_eq h]
  · simp [ltS, h.not_ge, h.le]

theorem minn_eq (x y : W64) : (if ltN y x then y else x) = if x.toNat ≤ y.toNat then x else y := by
  by_cases h : x.toNat ≤ y.toNat <;> simp [ltN, h]

theorem maxn_eq (x y : W64) : (if ltN x y then y else x) = if x.toNat ≤ y.toNat then y else x := by
  rcases lt_trichotomy x.toNat y.toNat with h | h | h
  · simp [ltN, h, h.le]
  · simp [ltN, BitVec.eq_of_toNat_eq h]
  · simp [ltN, h.not_ge, h.le]

/-! ## Counts of bits -/

/-- The leading zeros of a value: the bits above its highest one (R87). -/
theorem clz64_spec (x : W64) : ∃ k, k ≤ 64 ∧ clz64 x = BitVec.ofNat 64 k ∧
    (∀ i, i < 64 → 64 ≤ i + k → x.getLsbD i = false) ∧ (k < 64 → x.getLsbD (63 - k) = true) := by
  by_cases hx : x = 0
  · exact ⟨64, le_rfl, if_pos hx, fun i _ _ => by simp [hx], fun h => absurd h (lt_irrefl _)⟩
  · have hn : x.toNat ≠ 0 := fun h => hx (BitVec.eq_of_toNat_eq h)
    have hl : x.toNat.log2 < 64 := (Nat.log2_lt hn).2 x.isLt
    refine ⟨63 - x.toNat.log2, by omega, if_neg hx, fun i _ hi => ?_, fun _ => ?_⟩
    · exact Nat.testBit_lt_two_pow (Nat.lt_log2_self.trans_le (Nat.pow_le_pow_right (by decide) (by omega)))
    · rw [show 63 - (63 - x.toNat.log2) = x.toNat.log2 by omega]
      exact Nat.testBit_log2 hn

/-- The trailing zeros in the low k bits of a number. -/
theorem ctzNat_spec (k v : Nat) : ctzNat k v ≤ k ∧ (∀ i, i < ctzNat k v → v.testBit i = false) ∧
    (ctzNat k v < k → v.testBit (ctzNat k v) = true) := by
  induction k generalizing v with
  | zero => simp [ctzNat]
  | succ k ih =>
    obtain ⟨hle, hzero, hone⟩ := ih (v / 2)
    by_cases hv : v % 2 = 1
    · simp [ctzNat, hv]
    · have hc : ctzNat (k + 1) v = ctzNat k (v / 2) + 1 := by rw [ctzNat, if_neg hv, Nat.add_comm]
      rw [hc]
      refine ⟨by omega, fun i hi => ?_, fun h => ?_⟩
      · cases i with
        | zero => simpa using hv
        | succ i => rw [Nat.testBit_succ]; exact hzero i (by omega)
      · rw [Nat.testBit_succ]; exact hone (by omega)

/-- The one bits in the low k bits of a number. -/
theorem popNat_eq_length (k v : Nat) : popNat k v = ((List.range k).filter (fun i => v.testBit i)).length := by
  induction k generalizing v with
  | zero => rfl
  | succ k ih =>
    have hs : (fun i => v.testBit i) ∘ Nat.succ = fun i => (v / 2).testBit i := funext fun i => Nat.testBit_succ v i
    rw [popNat, ih, List.range_succ_eq_map, List.filter_cons, List.filter_map, hs]
    rcases Nat.mod_two_eq_zero_or_one v with hv | hv <;> simp [hv, Nat.add_comm]

/-! ## Immediates, and the extensions of R89 -/

theorem immVal_eq_widened (s : State) {w : Nat} (i : BitVec w) : immVal s i = widened s.q.pfx i := by
  unfold immVal withPrefixes widened
  cases s.q.pfx with
  | nil => rfl
  | cons p l => cases l <;> rfl

/-- The low k bits of a value as a two's-complement integer. -/
theorem sextNat_eq_toInt (k : Nat) (x : W64) : sextNat (k + 1) x.toNat = (x.setWidth (k + 1)).toInt := by
  have hm : (x.setWidth (k + 1)).msb = true ↔ bitsOf x.toNat k 1 = 1 := by
    rw [BitVec.msb_setWidth, ← BitVec.testBit_toNat, Nat.testBit_eq_decide_div_mod_eq, bitsOf, Nat.shiftRight_eq_div_pow]
    simp
  rw [sextNat, BitVec.toInt_eq_msb_cond, BitVec.toNat_setWidth, Nat.add_sub_cancel]
  simp only [hm]

theorem zext_eq (k : Nat) (x : W64) : BitVec.ofNat 64 (x.toNat % 2 ^ k) = (x.setWidth k).setWidth 64 := by
  rw [← BitVec.toNat_setWidth, BitVec.ofNat_toNat]

end Sys2Proof.Machine

/-!
SUPPORT. The integer instructions of S with their words, and the obligations on them.
-/

namespace Sys2Proof.Machine

open Sys2Proof.Laws

/-! ## The register ALU -/

theorem regAlu_reads (d a b : BitVec 5) :
    ∀ p ∈ [(0#9, Instr.add d a b), (1#9, .sub d a b), (2#9, .mul d a b), (3#9, .mulh d a b), (4#9, .mulhn d a b),
        (5#9, .div d a b), (6#9, .divn d a b), (7#9, .rem d a b), (8#9, .remn d a b), (9#9, .and d a b), (10#9, .or d a b),
        (11#9, .xor d a b), (12#9, .andn d a b), (13#9, .shl d a b), (14#9, .shr d a b), (15#9, .sra d a b),
        (16#9, .rol d a b), (17#9, .min d a b), (18#9, .max d a b), (19#9, .minn d a b), (20#9, .maxn d a b),
        (21#9, .slt d a b), (22#9, .sltn d a b), (23#9, .seq d a b)],
      Reads (0#3 ++ 0#5 ++ d ++ a ++ b ++ p.1) p.2 := by
  simp only [List.forall_mem_cons]
  exact ⟨reads_of (RoundTrip.add d a b), reads_of (RoundTrip.sub d a b), reads_of (RoundTrip.mul d a b),
    reads_of (RoundTrip.mulh d a b), reads_of (RoundTrip.mulhn d a b), reads_of (RoundTrip.div d a b),
    reads_of (RoundTrip.divn d a b), reads_of (RoundTrip.rem d a b), reads_of (RoundTrip.remn d a b),
    reads_of (RoundTrip.and d a b), reads_of (RoundTrip.or d a b), reads_of (RoundTrip.xor d a b),
    reads_of (RoundTrip.andn d a b), reads_of (RoundTrip.shl d a b), reads_of (RoundTrip.shr d a b),
    reads_of (RoundTrip.sra d a b), reads_of (RoundTrip.rol d a b), reads_of (RoundTrip.min d a b),
    reads_of (RoundTrip.max d a b), reads_of (RoundTrip.minn d a b), reads_of (RoundTrip.maxn d a b),
    reads_of (RoundTrip.slt d a b), reads_of (RoundTrip.sltn d a b), reads_of (RoundTrip.seq d a b),
    List.forall_mem_nil _⟩

theorem bitCount_reads (d a : BitVec 5) :
    ∀ p ∈ [(24#9, Instr.clz d a), (25#9, .ctz d a), (26#9, .popc d a)],
      Reads (0#3 ++ 0#5 ++ d ++ a ++ 0#5 ++ p.1) p.2 := by
  simp only [List.forall_mem_cons, regForm_unary]
  exact ⟨reads_of (RoundTrip.clz d a), reads_of (RoundTrip.ctz d a), reads_of (RoundTrip.popc d a),
    List.forall_mem_nil _⟩

theorem givesS_clz (s : State) (d a : BitVec 5) : ∃ k, k ≤ 64 ∧ GivesS (.clz d a) s d (BitVec.ofNat 64 k) ∧
    (∀ i, i < 64 → 64 ≤ i + k → (s.sval a).getLsbD i = false) ∧ (k < 64 → (s.sval a).getLsbD (63 - k) = true) := by
  obtain ⟨k, hk, he, hzero, hone⟩ := clz64_spec (s.sval a)
  exact ⟨k, hk, givesS_eq rfl he, hzero, hone⟩

theorem givesS_ctz (s : State) (d a : BitVec 5) : ∃ k, k ≤ 64 ∧ GivesS (.ctz d a) s d (BitVec.ofNat 64 k) ∧
    (∀ i, i < k → (s.sval a).getLsbD i = false) ∧ (k < 64 → (s.sval a).getLsbD k = true) := by
  obtain ⟨hk, hzero, hone⟩ := ctzNat_spec 64 (s.sval a).toNat
  exact ⟨_, hk, givesS_of rfl, hzero, hone⟩

theorem givesS_div_rem_wrap {s : State} (d : BitVec 5) {a b : BitVec 5} (hx : (s.sval a).toInt = -(2 ^ 63))
    (hy : (s.sval b).toInt = -1) : GivesS (.div d a b) s d (s.sval a) ∧ GivesS (.rem d a b) s d 0 := by
  obtain ⟨hne, hdiv, hmod⟩ := tdiv_neg_one_of_min hx hy
  exact ⟨givesS_eq rfl ((if_neg hne).trans hdiv), givesS_eq rfl ((if_neg hne).trans hmod)⟩

/-- Settles O1: each function's value by its lemma on numbers or bits, its word by the encoder's round trip. -/
theorem scalarRegisterAlu : Obligations.ScalarRegisterAlu := by
  unfold Obligations.ScalarRegisterAlu
  intro s d a b x y n
  exact ⟨givesS_eq rfl (BitVec.add_def x y), givesS_eq rfl (sub_eq_ofInt x y), givesS_eq rfl (mul_eq_ofNat x y),
    givesS_of rfl, givesS_of rfl, givesS_of rfl, givesS_of rfl,
    givesS_eq rfl (by rw [Int.tmod_def]), givesS_of rfl, givesS_div_rem_wrap d,
    givesS_of rfl, givesS_of rfl, givesS_of rfl, givesS_of rfl,
    givesS_eq rfl (shiftLeft_eq_ofNat x n), givesS_eq rfl (ushiftRight_eq_ofNat x n), givesS_eq rfl (sshiftRight_eq_ofInt x n),
    givesS_eq rfl (rotateLeft_eq_or x y),
    givesS_eq rfl (min_eq x y), givesS_eq rfl (max_eq x y), givesS_eq rfl (minn_eq x y), givesS_eq rfl (maxn_eq x y),
    givesS_eq rfl (b2w_decide _), givesS_eq rfl (b2w_decide _), givesS_eq rfl (b2w_decide _),
    givesS_clz s d a, givesS_ctz s d a, givesS_eq rfl (congrArg (BitVec.ofNat 64) (popNat_eq_length 64 x.toNat)),
    regAlu_reads d a b, bitCount_reads d a, fun _ => regAlu_illegal d a b⟩

/-! ## Immediates, shifts and extensions, LUP -/

theorem givesS_shifts_extensions (s : State) (d a : BitVec 5) (n : BitVec 6) :
    GivesS (.shli d a n) s d (BitVec.ofNat 64 ((s.sval a).toNat * 2 ^ n.toNat)) ∧
    GivesS (.shri d a n) s d (BitVec.ofNat 64 ((s.sval a).toNat / 2 ^ n.toNat)) ∧
    GivesS (.srai d a n) s d (BitVec.ofInt 64 ((s.sval a).toInt / 2 ^ n.toNat)) ∧
    GivesS (.sext d a n) s d (((s.sval a).setWidth (n.toNat + 1)).signExtend 64) ∧
    GivesS (.zext d a n) s d (((s.sval a).setWidth (n.toNat + 1)).setWidth 64) :=
  ⟨givesS_eq rfl (shiftLeft_eq_ofNat _ _), givesS_eq rfl (ushiftRight_eq_ofNat _ _), givesS_eq rfl (sshiftRight_eq_ofInt _ _),
    givesS_eq rfl (congrArg (BitVec.ofInt 64) (sextNat_eq_toInt _ _)), givesS_eq rfl (zext_eq _ _)⟩

/-- Settles O2: the immediate is `widened` by the prefixes held; the extensions read their low bits as the library does. -/
theorem scalarImmediates : Obligations.ScalarImmediates := by
  unfold Obligations.ScalarImmediates
  refine ⟨fun s d a i => ?_, fun s d a n => ?_, fun s d i => ⟨fun h => ?_, fun p h => ?_, fun p q h => ?_, ?_⟩⟩
  · simp only [← immVal_eq_widened]
    exact ⟨givesS_eq rfl (BitVec.add_def _ _), givesS_of rfl, givesS_of rfl, givesS_of rfl, givesS_eq rfl (b2w_decide _),
      reads_of (RoundTrip.addi d a i), reads_of (RoundTrip.andi d a i), reads_of (RoundTrip.ori d a i),
      reads_of (RoundTrip.xori d a i), reads_of (RoundTrip.slti d a i)⟩
  · obtain ⟨hshl, hshr, hsra, hsext, hzext⟩ := givesS_shifts_extensions s d a n
    rw [shiftForm_constants, shiftForm_constants, shiftForm_constants, extForm_constants, extForm_constants]
    exact ⟨hshl, hshr, hsra, hsext, hzext,
      reads_of (RoundTrip.shli d a n), reads_of (RoundTrip.shri d a n), reads_of (RoundTrip.srai d a n),
      reads_of (RoundTrip.sext d a n), reads_of (RoundTrip.zext d a n), by simp [takesPrefix]⟩
  · exact givesS_eq rfl (by rw [upperVal, withPrefixes, h]; rfl)
  · exact givesS_eq rfl (by rw [upperVal, withPrefixes, h]; rfl)
  · exact givesS_eq rfl (by rw [upperVal, withPrefixes, h]; rfl)
  · exact reads_of (RoundTrip.lup d i)

end Sys2Proof.Machine

/-!
SUPPORT. Branches, jumps, calls and LOOP of S, and the obligation on them.
-/

namespace Sys2Proof.Machine

open Sys2Proof.Laws

/-! ## Jumps that write a register -/

/-- The word completes with its pc at p and v in sd, and writes no other register. -/
def GoesWriting (i : Instr) (s : State) (p : Nat) (d : BitVec 5) (v : W64) : Prop :=
  ∃ t, exec i s = .next t ∧ Completes p s t ∧ (∀ n, t.sval n = if n = d then v else s.sval n) ∧ Confined [.s] s t ∧ MemoryKept s t

theorem sval_advanceTo (p : Nat) (s : State) (n : BitVec 5) : (advanceTo p s).sval n = s.sval n := by simp [advanceTo]

/-- A write of sd and a jump: all that they do. -/
theorem goesWriting_of {i : Instr} {s : State} {p : Nat} {d : BitVec 5} {v : W64} (hd : d ≠ 0)
    (h : exec i s = .next (advanceTo p (s.putS d v))) : GoesWriting i s p d v := by
  refine ⟨_, h, completes_advanceTo p fun e => seq_setS _ _ _ _, fun n => ?_, confined_advanceTo p [.s] (without_setS _ _ _),
    memoryKept_advanceTo s _ p⟩
  rw [sval_advanceTo, sval_putS]
  simp only [hd, Ne, not_false_eq_true, and_true]

/-- A branch that writes sd, to a target in the text (R17). -/
theorem goesWriting_branch {i : Instr} {s : State} {d : BitVec 5} {v : W64} {w : Nat} {off : BitVec w} {b : Bool}
    (h : exec i s = branchWith (fun t => t.putS d v) b off s) (hd : d ≠ 0) (ht : inText s.q.pc off) :
    GoesWriting i s (if b then ((s.q.pc : Int) + off.toInt).toNat else s.q.pc + 1) d v := by
  have ht' : 0 ≤ target s.q.pc off ∧ target s.q.pc off ≤ 65535 := ht
  apply goesWriting_of hd
  rw [h, branchWith, if_pos ht', branch, q_putS, if_pos ht']; rfl

/-- One out of the text traps, and writes nothing (R17). -/
theorem traps_branchWith {i : Instr} {s : State} {f : State → State} {w : Nat} {off : BitVec w} {b : Bool}
    (h : exec i s = branchWith f b off s) (ht : ¬inText s.q.pc off) :
    Traps i s 6 (BitVec.ofInt 64 ((s.q.pc : Int) + off.toInt)) := by
  have ht' : ¬(0 ≤ target s.q.pc off ∧ target s.q.pc off ≤ 65535) := ht
  exact h.trans (if_neg ht')

/-! ## Branches -/

theorem not_ltS (x y : W64) : (!ltS x y) = decide (y.toInt ≤ x.toInt) :=
  decide_not.symm.trans (decide_eq_decide.2 not_lt)

theorem not_ltN (x y : W64) : (!ltN x y) = decide (y.toNat ≤ x.toNat) :=
  decide_not.symm.trans (decide_eq_decide.2 not_lt)

/-- What each branch does, as `branch` on its condition (R91). -/
theorem exec_branches (s : State) (a b : BitVec 5) (o : BitVec 14) :
    ∀ p ∈ [(Instr.beq a b o, decide (s.sval a = s.sval b)), (.bne a b o, decide (s.sval a ≠ s.sval b)),
        (.blt a b o, decide ((s.sval a).toInt < (s.sval b).toInt)), (.bge a b o, decide ((s.sval b).toInt ≤ (s.sval a).toInt)),
        (.bltn a b o, decide ((s.sval a).toNat < (s.sval b).toNat)), (.bgen a b o, decide ((s.sval b).toNat ≤ (s.sval a).toNat))],
      exec p.1 s = branch p.2 o s := by
  simp only [List.forall_mem_cons, ← not_ltS, ← not_ltN]
  exact ⟨rfl, rfl, rfl, rfl, rfl, rfl, List.forall_mem_nil _⟩

theorem branches_read (a b : BitVec 5) (o : BitVec 14) :
    ∀ p ∈ [(8#5, Instr.beq a b o), (9#5, .bne a b o), (10#5, .blt a b o), (11#5, .bge a b o), (12#5, .bltn a b o),
        (13#5, .bgen a b o)],
      Reads (0#3 ++ p.1 ++ a ++ b ++ o) p.2 := by
  simp only [List.forall_mem_cons]
  exact ⟨reads_of (RoundTrip.beq a b o), reads_of (RoundTrip.bne a b o), reads_of (RoundTrip.blt a b o),
    reads_of (RoundTrip.bge a b o), reads_of (RoundTrip.bltn a b o), reads_of (RoundTrip.bgen a b o), List.forall_mem_nil _⟩

/-! ## Jumps and calls -/

theorem exec_call (s : State) (o : BitVec 24) :
    exec (.call o) s = branchWith (fun t => t.putS 31 (BitVec.ofNat 64 (s.q.pc + 1))) true o s := rfl

theorem goesTo_jr {s : State} {a : BitVec 5} (h : (s.sval a).toNat ≤ 65535) : GoesTo (.jr a) s (s.sval a).toNat :=
  goesTo_of (if_pos h)

/-- CALLR jumps to what its register held before the link was written (R92). -/
theorem goesWriting_callr {s : State} {a : BitVec 5} (h : (s.sval a).toNat ≤ 65535) :
    GoesWriting (.callr a) s (s.sval a).toNat 31 (BitVec.ofNat 64 (s.q.pc + 1)) :=
  goesWriting_of (by decide) ((if_pos h).trans (if_pos h))

theorem traps_jumpReg {s : State} {a : BitVec 5} (h : 65536 ≤ (s.sval a).toNat) :
    ∀ x ∈ [Instr.jr a, .callr a], Traps x s 6 (s.sval a) := by
  have hv : ¬(s.sval a).toNat ≤ 65535 := by omega
  simp only [List.forall_mem_cons]
  exact ⟨if_neg hv, (if_neg hv).trans (if_neg hv), List.forall_mem_nil _⟩

/-! ## LOOP -/

/-- LOOP counts sd down, and branches while it is not zero (R93). -/
theorem exec_loop (s : State) {d : BitVec 5} (o : BitVec 14) (hd : d ≠ 0) :
    exec (.loop d o) s = branchWith (fun t => t.putS d (BitVec.ofInt 64 ((s.sval d).toNat - 1 : Int)))
      (decide (BitVec.ofInt 64 ((s.sval d).toNat - 1 : Int) ≠ 0)) o s := by
  have hv : BitVec.ofInt 64 ((s.sval d).toNat - 1 : Int) = s.sval d - 1 := (sub_eq_ofInt _ 1).symm
  rw [hv]; exact if_neg hd

/-- Settles O4: each word is `branch`, `branchWith` or `jumpTo`, whose targets lie in the text or trap. -/
theorem scalarControlFlow : Obligations.ScalarControlFlow := by
  unfold Obligations.ScalarControlFlow
  refine ⟨fun s a b o => ⟨fun p hp => ?_, branches_read a b o⟩, fun s a o => ?_, fun s d o => ?_⟩
  · have h := exec_branches s a b o p hp
    exact ⟨goesTo_branch h, traps_branch h⟩
  · refine ⟨fun ht => ⟨goesTo_branch (b := true) rfl ht, goesWriting_branch (exec_call s o) (by decide) ht⟩, fun ht => ?_,
      fun hv => ⟨goesTo_jr hv, goesWriting_callr hv⟩, traps_jumpReg, reads_of (RoundTrip.jmp o), reads_of (RoundTrip.call o),
      ?_, ?_, fun _ => jumpReg_illegal a⟩
    · simp only [List.forall_mem_cons]
      exact ⟨traps_branch rfl ht, traps_branchWith (exec_call s o) ht, List.forall_mem_nil _⟩
    · rw [regForm_unary]; exact reads_of (RoundTrip.jr a)
    · rw [regForm_unary]; exact reads_of (RoundTrip.callr a)
  · refine ⟨fun hd ht => ?_, fun hd => traps_branchWith (exec_loop s o hd), fun hd => ?_, fun a => loop_illegal d a o, rfl⟩
    · have h := goesWriting_branch (exec_loop s o hd) hd ht
      simp only [decide_eq_true_eq] at h
      exact h
    · exact reads_of (RoundTrip.loop d o) (decide_eq_true hd)

end Sys2Proof.Machine

/-!
SUPPORT. Binary32 arithmetic of S, and the obligation on it.
-/

namespace Sys2Proof.Machine

open Sys2Proof.Laws

/-! ## Operands and results -/

/-- An operand is the low half of its register (R94). -/
theorem fs_eq (s : State) (n : BitVec 5) : s.fs n = f32 ((s.sval n).extractLsb' 0 32) :=
  congrArg f32 (BitVec.setWidth_eq_extractLsb' (by decide))

theorem zext_eq_append (w : Word) : w.setWidth 64 = (0#32 ++ w : W64) :=
  (BitVec.setWidth_eq_append (by decide)).trans (BitVec.cast_eq rfl _)

theorem givesS_float {i : Instr} {s : State} {d : BitVec 5} {r : FVal} (h : exec i s = resultF d r s) :
    GivesS i s d (0#32 ++ encF32 (rne r)) :=
  givesS_eq h (zext_eq_append _)

/-- A compare of S is ordered: a NaN makes it false (R45, R94). -/
theorem ordered_eq (x y : FVal) (c : Bool) : (!(x.isNan || y.isNan) && c) = (!x.isNan && !y.isNan && c) := by
  rw [Bool.not_or]

theorem givesS_flag {i : Instr} {s : State} {d : BitVec 5} {x y : FVal} {c : Bool}
    (h : exec i s = resultS d (b2w (!(x.isNan || y.isNan) && c)) s) :
    GivesS i s d (if !x.isNan && !y.isNan && c then 1 else 0) :=
  givesS_eq h (congrArg b2w (ordered_eq x y c))

/-! ## Words -/

theorem floatBinary_reads (d a b : BitVec 5) :
    ∀ p ∈ [(0#9, Instr.fadd d a b), (1#9, .fsub d a b), (2#9, .fmul d a b), (3#9, .fdiv d a b), (4#9, .fmin d a b),
        (5#9, .fmax d a b), (6#9, .flt d a b), (7#9, .fle d a b), (8#9, .feq d a b)],
      Reads (0#3 ++ 20#5 ++ d ++ a ++ b ++ p.1) p.2 := by
  simp only [List.forall_mem_cons]
  exact ⟨reads_of (RoundTrip.fadd d a b), reads_of (RoundTrip.fsub d a b), reads_of (RoundTrip.fmul d a b),
    reads_of (RoundTrip.fdiv d a b), reads_of (RoundTrip.fmin d a b), reads_of (RoundTrip.fmax d a b),
    reads_of (RoundTrip.flt d a b), reads_of (RoundTrip.fle d a b), reads_of (RoundTrip.feq d a b), List.forall_mem_nil _⟩

theorem floatUnary_words (d a b : BitVec 5) :
    ∀ p ∈ [(9#9, Instr.fcvtf d a), (10#9, .fcvti d a), (11#9, .fsqrt d a)], Reads (0#3 ++ 20#5 ++ d ++ a ++ 0#5 ++ p.1) p.2 ∧
      (b ≠ 0 → decode (0#3 ++ 20#5 ++ d ++ a ++ b ++ p.1) = .error .illegal) := by
  simp only [List.forall_mem_cons, regForm_unary]
  exact ⟨⟨reads_of (RoundTrip.fcvtf d a), fun hb => floatUnary_illegal d a hb (.inl rfl)⟩,
    ⟨reads_of (RoundTrip.fcvti d a), fun hb => floatUnary_illegal d a hb (.inr (.inl rfl))⟩,
    ⟨reads_of (RoundTrip.fsqrt d a), fun hb => floatUnary_illegal d a hb (.inr (.inr rfl))⟩, List.forall_mem_nil _⟩

/-- Settles O5: every result is one `rne` of the exact value, zero-extended; every compare is ordered. -/
theorem scalarFloat : Obligations.ScalarFloat := by
  unfold Obligations.ScalarFloat
  intro s d a b
  simp only [← fs_eq]
  exact ⟨givesS_float rfl, givesS_float rfl, givesS_float rfl, givesS_float rfl, givesS_float rfl, givesS_float rfl,
    givesS_flag rfl, givesS_flag rfl, givesS_flag rfl,
    givesS_float rfl, givesS_of rfl, givesS_float rfl,
    floatBinary_reads d a b, floatUnary_words d a b, fun _ => float_illegal d a b⟩

end Sys2Proof.Machine

/-!
SUPPORT. The vector engine's results and words: what a masked result writes, and the words of the V-arith form (R173, R174).
-/

namespace Sys2Proof

/-- What a list of keys with their values holds, where the default is not listed. -/
theorem listGet_filterMap {α : Type} [DecidableEq α] (d : α) (f : Nat → α) (k : Nat) (l : List Nat) :
    (listGet k (l.filterMap fun j => if f j = d then none else some (j, f j))).getD d = if k ∈ l then f k else d := by
  induction l with
  | nil => rfl
  | cons j l ih =>
    by_cases hd : f j = d
    · by_cases hk : k = j
      · subst hk; simp [hd, ih]
      · simp [hd, ih, hk]
    · by_cases hk : k = j
      · subst hk; simp [hd, listGet]
      · simp [hd, listGet, ih, hk, Ne.symm hk]

theorem Sparse.get_ofFn {α : Type} [DecidableEq α] (n : Nat) (d : α) (f : Nat → α) (k : Nat) :
    (Sparse.ofFn n d f).get d k = if k < n then f k else d := by
  have h := listGet_filterMap d f k (List.range n)
  simp only [List.mem_range] at h
  exact h

end Sys2Proof

namespace Sys2Proof.Machine

open Sys2Proof.Laws

/-! ## Results in active lanes -/

theorem lane_vecOf (f : Nat → Word) {l : Nat} (hl : l < 256) : (vecOf f).lane l = f l :=
  (Sparse.get_ofFn 256 0 f l).trans (if_pos hl)

theorem lane_merge (m : BitVec 256) (old : VReg) (f : Nat → Word) {l : Nat} (hl : l < 256) :
    (merge m old f).lane l = if m.getLsbD l then f l else old.lane l :=
  lane_vecOf _ hl

/-- A result in the active lanes of vd, for values that others equal: all that it does. -/
theorem givesLanes_of {i : Instr} {s : State} {d : BitVec 5} {m : BitVec 3} {f g : Nat → Word} (h : exec i s = resultV d m f s)
    (e : ∀ l, f l = g l) : GivesLanes i s d m g :=
  givesV_of h fun l hl => by rw [lane_merge _ _ _ hl, e]

/-! ## Words of the V-arith form -/

/-- The fields of a word of the V-arith form (R26). -/
theorem vArithForm_fields (k d a b : BitVec 5) (m : BitVec 3) (f : BitVec 6) :
    let w : Word := 1#3 ++ k ++ d ++ a ++ b ++ m ++ f
    fld w 29 3 = 1#3 ∧ fld w 24 5 = k ∧ fld w 0 6 = f ∧ fld w 1 5 = f.extractLsb' 1 5 := by
  simp (disch := decide) only [fld, fld_low, fld_high, fld_all, Nat.reduceSub, and_self]

/-- A word of the V-arith form is illegal where its major and its function name no instruction. -/
theorem vArithForm_illegal {k d a b : BitVec 5} {m : BitVec 3} {f : BitVec 6} (hk : k.toNat < 24)
    (h : ∀ w, fld w 24 5 = k → fld w 0 6 = f → fld w 1 5 = f.extractLsb' 1 5 → decodeV w = none) :
    decode (1#3 ++ k ++ d ++ a ++ b ++ m ++ f) = .error .illegal := by
  obtain ⟨htag, hmajor, hfn, hmid⟩ := vArithForm_fields k d a b m f
  have hform : decodeForm (1#3 ++ k ++ d ++ a ++ b ++ m ++ f) = none := by
    rw [decodeForm, htag, hmajor]
    exact (if_neg (Nat.not_le_of_lt hk)).trans (h _ hmajor hfn hmid)
  rw [decode, if_neg (by rw [htag]; decide), if_neg (ne_zero_of_fld htag (by decide)), hform]

theorem vectorInteger_illegal (d a b : BitVec 5) (m : BitVec 3) {f : BitVec 6} (hf : 15 ≤ f.toNat) :
    decode (1#3 ++ 1#5 ++ d ++ a ++ b ++ m ++ f) = .error .illegal := by
  obtain ⟨k, hk⟩ := Nat.exists_eq_add_of_le' hf
  exact vArithForm_illegal (by decide) fun w hmajor hfn _ => by rw [decodeV, hmajor, hfn, hk]; rfl

/-- VRNG's functions 0 and 1 differ in the lowest bit; the bits above it must be zero (R193). -/
theorem vrng_illegal (d a b : BitVec 5) (m : BitVec 3) {f : BitVec 6} (hf : 2 ≤ f.toNat) :
    decode (1#3 ++ 12#5 ++ d ++ a ++ b ++ m ++ f) = .error .illegal := by
  have hmz : f.extractLsb' 1 5 ≠ 0 := fun h => by
    have := congrArg BitVec.toNat h
    simp [Nat.shiftRight_eq_div_pow] at this
    omega
  refine vArithForm_illegal (by decide) fun w hmajor _ hmid => ?_
  rw [decodeV, hmajor, hmid]
  exact if_neg (by rwa [beq_iff_eq])

end Sys2Proof.Machine

/-!
SUPPORT. Integer lane arithmetic with its words, and the obligation on it (R181).
-/

namespace Sys2Proof.Machine

open Sys2Proof.Laws

/-! ## Arithmetic modulo 2^w -/

section
variable {w : Nat} (x y : BitVec w)

theorem sub_eq_ofInt_toNat : x - y = BitVec.ofInt w ((x.toNat : Int) - y.toNat) := by
  rw [Int.sub_eq_add_neg, BitVec.ofInt_add, BitVec.ofInt_neg, BitVec.ofInt_natCast, BitVec.ofInt_natCast,
    BitVec.ofNat_toNat, BitVec.ofNat_toNat, BitVec.setWidth_eq, BitVec.setWidth_eq, BitVec.sub_eq_add_neg]

theorem mul_eq_ofNat_toNat : x * y = BitVec.ofNat w (x.toNat * y.toNat) := by
  rw [BitVec.ofNat_mul, BitVec.ofNat_toNat, BitVec.ofNat_toNat, BitVec.setWidth_eq, BitVec.setWidth_eq]

theorem shiftLeft_eq_ofNat_mul (n : Nat) : x <<< n = BitVec.ofNat w (x.toNat * 2 ^ n) := by
  apply BitVec.eq_of_toNat_eq
  rw [BitVec.toNat_shiftLeft, BitVec.toNat_ofNat, Nat.shiftLeft_eq]

theorem ushiftRight_eq_ofNat_div (n : Nat) : x >>> n = BitVec.ofNat w (x.toNat / 2 ^ n) := by
  rw [← Nat.shiftRight_eq_div_pow, ← BitVec.toNat_ushiftRight, BitVec.ofNat_toNat, BitVec.setWidth_eq]

theorem sshiftRight_eq_ofInt_div (n : Nat) : x.sshiftRight n = BitVec.ofInt w (x.toInt / 2 ^ n) := by
  have h : x.toInt / 2 ^ n = x.toInt >>> n := by rw [Int.shiftRight_eq_div_pow]; norm_cast
  rw [h, ← BitVec.toInt_sshiftRight, BitVec.ofInt_toInt]

end

/-! ## Minimum and maximum under the signed and the natural order -/

section
variable {α β : Type} [LinearOrder β] {key : α → β}

theorem ite_key_lt_eq_min (x y : α) : (if key y < key x then y else x) = if key x ≤ key y then x else y := by
  simp only [← not_lt, ite_not]

/-- At equal keys either operand is the maximum: the key tells them apart. -/
theorem ite_key_lt_eq_max (hkey : Function.Injective key) (x y : α) :
    (if key x < key y then y else x) = if key x ≤ key y then y else x := by
  by_cases h : key x = key y
  · rw [hkey h, ite_self, ite_self]
  · simp only [le_iff_lt_or_eq, or_iff_left h]

end

/-! ## Words and results -/

theorem vectorInteger_reads (d a b : BitVec 5) (m : BitVec 3) :
    ∀ p ∈ [(0#6, Instr.viadd d a b m), (1#6, .visub d a b m), (2#6, .vimul d a b m), (3#6, .vimulh d a b m),
        (4#6, .vimulhn d a b m), (5#6, .viand d a b m), (6#6, .vior d a b m), (7#6, .vixor d a b m), (8#6, .vishl d a b m),
        (9#6, .vishr d a b m), (10#6, .visra d a b m), (11#6, .vimin d a b m), (12#6, .vimax d a b m),
        (13#6, .viminn d a b m), (14#6, .vimaxn d a b m)],
      Reads (1#3 ++ 1#5 ++ d ++ a ++ b ++ m ++ p.1) p.2 := by
  simp only [List.forall_mem_cons]
  exact ⟨reads_of (RoundTrip.viadd d a b m), reads_of (RoundTrip.visub d a b m), reads_of (RoundTrip.vimul d a b m),
    reads_of (RoundTrip.vimulh d a b m), reads_of (RoundTrip.vimulhn d a b m), reads_of (RoundTrip.viand d a b m),
    reads_of (RoundTrip.vior d a b m), reads_of (RoundTrip.vixor d a b m), reads_of (RoundTrip.vishl d a b m),
    reads_of (RoundTrip.vishr d a b m), reads_of (RoundTrip.visra d a b m), reads_of (RoundTrip.vimin d a b m),
    reads_of (RoundTrip.vimax d a b m), reads_of (RoundTrip.viminn d a b m), reads_of (RoundTrip.vimaxn d a b m),
    List.forall_mem_nil _⟩

/-- Settles O8: each lane's value by its lemma on numbers, its word by the encoder's round trip. -/
theorem vectorIntegerLanes : Obligations.VectorIntegerLanes := by
  unfold Obligations.VectorIntegerLanes
  intro s d a b m x y n
  exact ⟨givesLanes_of rfl fun l => BitVec.add_def (x l) (y l),
    givesLanes_of rfl fun l => sub_eq_ofInt_toNat (x l) (y l),
    givesLanes_of rfl fun l => mul_eq_ofNat_toNat (x l) (y l),
    givesLanes_of rfl fun _ => rfl, givesLanes_of rfl fun _ => rfl,
    givesLanes_of rfl fun _ => rfl, givesLanes_of rfl fun _ => rfl, givesLanes_of rfl fun _ => rfl,
    givesLanes_of rfl fun l => shiftLeft_eq_ofNat_mul (x l) (n l),
    givesLanes_of rfl fun l => ushiftRight_eq_ofNat_div (x l) (n l),
    givesLanes_of rfl fun l => sshiftRight_eq_ofInt_div (x l) (n l),
    givesLanes_of rfl fun l => ite_key_lt_eq_min (x l) (y l),
    givesLanes_of rfl fun l => ite_key_lt_eq_max (fun _ _ => BitVec.eq_of_toInt_eq) (x l) (y l),
    givesLanes_of rfl fun l => ite_key_lt_eq_min (x l) (y l),
    givesLanes_of rfl fun l => ite_key_lt_eq_max (fun _ _ => BitVec.eq_of_toNat_eq) (x l) (y l),
    vectorInteger_reads d a b m, fun _ => vectorInteger_illegal d a b m⟩

end Sys2Proof.Machine

/-!
SUPPORT. Binary32 patterns of normal numbers; the counter-based generator with its words, and the obligation on it (R193).
-/

namespace Sys2Proof.Machine

open Sys2Proof.Laws

/-! ## Binary32 patterns of normal numbers -/

/-- A pattern put together from a sign, a biased exponent E and a fraction r (R37). -/
def normalBits (neg : Bool) (E r : Nat) : Nat := neg.toNat * 2 ^ 31 + (E * 2 ^ 23 + r)

/-- The fields of such a pattern (R37). -/
theorem bitsOf_normalBits (neg : Bool) {E r : Nat} (hE : E ≤ 254) (hr : r < 2 ^ 23) :
    bitsOf (normalBits neg E r) 31 1 = neg.toNat ∧ bitsOf (normalBits neg E r) 23 8 = E ∧ bitsOf (normalBits neg E r) 0 23 = r := by
  have hs : neg.toNat < 2 := neg.toNat_lt
  simp only [bitsOf, normalBits, Nat.shiftRight_eq_div_pow]
  refine ⟨?_, ?_, ?_⟩ <;> omega

theorem normalBits_lt (neg : Bool) {E r : Nat} (hE : E ≤ 254) (hr : r < 2 ^ 23) : normalBits neg E r < 2 ^ 32 := by
  have hs : neg.toNat < 2 := neg.toNat_lt
  rw [normalBits]
  omega

/-- The value of a normal number's pattern has a one before its fraction (R38). -/
theorem fval_normalBits (neg : Bool) {E r : Nat} (hE : 1 ≤ E) (hE' : E ≤ 254) (hr : r < 2 ^ 23) :
    fval fmtF32 (normalBits neg E r) = .fin neg (2 ^ 23 + r) ((E : Int) - 127 - 23) false := by
  obtain ⟨hs, he, hf⟩ := bitsOf_normalBits neg hE' hr
  have h255 : E ≠ 255 := by omega
  have h0 : E ≠ 0 := by omega
  simp [fval, fmtF32, hs, he, hf, h255, h0]

/-- The significand of n: n shifted so that its highest bit stands at place 23. -/
theorem shiftedTo24_bounds {n : Nat} (hn : n ≠ 0) (hlt : n < 2 ^ 24) :
    2 ^ 23 ≤ n * 2 ^ (23 - n.log2) ∧ n * 2 ^ (23 - n.log2) < 2 ^ 24 := by
  have hl : n.log2 < 24 := (Nat.log2_lt hn).2 hlt
  constructor
  · calc 2 ^ 23 = 2 ^ n.log2 * 2 ^ (23 - n.log2) := by rw [← pow_add]; congr 1; omega
      _ ≤ _ := Nat.mul_le_mul_right _ (Nat.log2_self_le hn)
  · calc n * 2 ^ (23 - n.log2) < 2 ^ (n.log2 + 1) * 2 ^ (23 - n.log2) :=
          Nat.mul_lt_mul_of_pos_right Nat.lt_log2_self (by positivity)
      _ = 2 ^ 24 := by rw [← pow_add]; congr 1; omega

/-- A magnitude of at most 24 bits in the range of normal numbers is encoded whole (R43). -/
theorem enc_fmtF32_normal (neg st : Bool) {n : Nat} {e : Int} (hn : n ≠ 0) (hlt : n < 2 ^ 24) (hlo : -126 ≤ n.log2 + e) :
    enc fmtF32 (.fin neg n e st) = normalBits neg (n.log2 + e + 127).toNat (n * 2 ^ (23 - n.log2) - 2 ^ 23) := by
  have hl : n.log2 < 24 := (Nat.log2_lt hn).2 hlt
  have hsh : shiftInt n (23 - n.log2) = n * 2 ^ (23 - n.log2) := by
    rw [shiftInt, if_pos (by omega), Nat.shiftLeft_eq]
    congr 2; omega
  have hemin : ¬ (n.log2 + e : Int) < fmtF32.emin := not_lt.2 hlo
  have hsign : (if neg then 2 ^ 31 else 0) = neg.toNat * 2 ^ 31 := by cases neg <;> rfl
  rw [enc, normalBits, ← hsh, ← hsign]
  simp only [if_neg hn, if_neg hemin]
  rfl

theorem f32_encF32_normal (neg st : Bool) {n : Nat} {e : Int} (hn : n ≠ 0) (hlt : n < 2 ^ 24) (hlo : -126 ≤ n.log2 + e)
    (hhi : n.log2 + e ≤ 127) :
    f32 (encF32 (.fin neg n e st)) = .fin neg (n * 2 ^ (23 - n.log2)) (n.log2 + e - 23) false := by
  obtain ⟨hge, hlt'⟩ := shiftedTo24_bounds hn hlt
  have hE : (n.log2 + e + 127).toNat ≤ 254 := by omega
  have hr : n * 2 ^ (23 - n.log2) - 2 ^ 23 < 2 ^ 23 := by omega
  rw [f32, encF32, enc_fmtF32_normal neg st hn hlt hlo, BitVec.toNat_ofNat, Nat.mod_eq_of_lt (normalBits_lt neg hE hr),
    fval_normalBits neg (by omega) hE hr]
  exact congrArg₂ (FVal.fin neg · · false) (by omega) (by omega)

/-- Such a value is a value of binary32: its pattern stands for it exactly (R38, R43). -/
theorem feqVal_f32_encF32_normal (neg st : Bool) {n : Nat} {e : Int} (hn : n ≠ 0) (hlt : n < 2 ^ 24) (hlo : -126 ≤ n.log2 + e)
    (hhi : n.log2 + e ≤ 127) : feqVal (f32 (encF32 (.fin neg n e st))) (.fin neg n e st) = true := by
  have hl : n.log2 < 24 := (Nat.log2_lt hn).2 hlt
  have hmin : min (n.log2 + e - 23) e = n.log2 + e - 23 := min_eq_left (by omega)
  have hk : (e - (n.log2 + e - 23)).toNat = 23 - n.log2 := by omega
  rw [f32_encF32_normal neg st hn hlt hlo hhi, feqVal]
  simp only [hmin, scaledInt, hk, sub_self, Int.toNat_zero, Nat.shiftLeft_eq, pow_zero, mul_one, decide_true]

theorem feqVal_two_pow_neg_24 {n : Nat} (hn : n ≠ 0) (hlt : n < 2 ^ 24) :
    feqVal (f32 (encF32 (.fin false n (-24) false))) (.fin false n (-24) false) = true := by
  have hl := (Nat.log2_lt hn).2 hlt
  exact feqVal_f32_encF32_normal false false hn hlt (by omega) (by omega)

/-! ## VRNG -/

/-- The encoder writes the must-be-zero bits of VRNG's function apart from its lowest bit. -/
theorem vrng_reads (d a b : BitVec 5) (m : BitVec 3) (t : BitVec 1) :
    Reads (1#3 ++ 12#5 ++ d ++ a ++ b ++ m ++ (0#5 ++ t)) (.vrng d a b m t) := by
  have h : (1#3 ++ 12#5 ++ d ++ a ++ b ++ m ++ (0#5 ++ t) : Word) = 1#3 ++ 12#5 ++ d ++ a ++ b ++ m ++ 0#5 ++ t :=
    (BitVec.append_assoc.trans (BitVec.cast_eq rfl _)).symm
  rw [h]
  exact reads_of (RoundTrip.vrng d a b m t)

/-- The generator's numerator has at most 24 bits: 23 of the raw number and one below them (R193). -/
theorem uniform_lt (w : Word) : 2 * (w.toNat / 2 ^ 9) + 1 < 2 ^ 24 := by
  have := w.isLt
  omega

/-- The raw number is the upper half of x after four rounds. -/
theorem rngRaw_eq_extract (k : W64) (c : Word) (i : Nat) :
    rngRaw k c i = (rngRounds 4 (c ++ BitVec.ofNat 32 i) k).extractLsb' 32 32 :=
  BitVec.setWidth_ushiftRight_eq_extractLsb

/-- Settles O14: the raw number is the model's four rounds, and a numerator of at most 24 bits over 2^24 is exact in binary32. -/
theorem vectorRandomNumbers : Obligations.VectorRandomNumbers := by
  unfold Obligations.VectorRandomNumbers
  intro s d a b m key round z
  have hz (l : Nat) : rngRaw key ((s.vec a).lane l) l = z l := rngRaw_eq_extract _ _ _
  exact ⟨givesLanes_of rfl hz,
    givesLanes_of rfl fun l => congrArg (fun v : Word => encF32 (.fin false (2 * (v.toNat / 2 ^ 9) + 1) (-24) false)) (hz l),
    fun w => ⟨Nat.succ_pos _, uniform_lt w, feqVal_two_pow_neg_24 (Nat.succ_ne_zero _) (uniform_lt w),
      vrng_reads d a b m 0, vrng_reads d a b m 1, fun _ => vrng_illegal d a b m⟩⟩

end Sys2Proof.Machine
